-- ==== Sys2Proof/Word.lean ====
section
/-! DEFINITION. The word types of the Z8 (R2 to R4, R41): nothing but names for the widths of the spec. -/

namespace Sys2Proof

/-- A byte of memory. -/
abbrev Byte := BitVec 8
/-- A scalar register, a control register, a mask register. -/
abbrev Word := BitVec 64
/-- A vector register: 64 lanes of 32 bits (R107). -/
abbrev Vec := BitVec 2048
/-- A slot word of a bundle (R57). -/
abbrev Slot := BitVec 30
/-- A bundle (R57). -/
abbrev Bundle := BitVec 256
/-- A virtual or physical address of 48 bits. -/
abbrev Addr := BitVec 48
/-- A 6-bit register field (R63). -/
abbrev Reg := BitVec 6
/-- The sticky flags of 64 lanes, five bits each, lane i in bits [5i+4:5i] (R126). -/
abbrev FlagVec := BitVec 320

end Sys2Proof
end

