-- ==== Sys2Proof/Config.lean ====
section
/-! DEFINITION. What the spec leaves open: values that nothing in the model fixes, and the cryptographic functions of
outside standards. None has a body, so no proof can see a value. -/

namespace Sys2Proof

/-- Whether an element of a vector store that ended its phase in translation was written before (R209). The argument is
a fresh number. FREE VALUE (log 12). -/
opaque Config.freeChoice : Nat → Bool

/-- What a byte of a unit last written under another key reads as: the generation of the reader's key, the address and
what is stored (R206). FREE VALUE (log 11). -/
opaque Config.foreignByte : Nat → Nat → BitVec 8 → BitVec 8

/-- A nonce of the device (R351, R352). FREE VALUE (log 13). -/
opaque Config.freshNonce : Nat → BitVec 384

/-- SHA-384 of a byte string (R350). PRESUMED as its standard defines it (log 13). -/
opaque Config.sha384 : List (BitVec 8) → BitVec 384

/-- The ECDSA P-384 signature of the device over a byte string (R351). PRESUMED as its standard defines it (log 13). -/
opaque Config.ecdsaSign : List (BitVec 8) → List (BitVec 8)

/-- The unique device secret fused in a die (R350). FREE VALUE (log 13). -/
opaque Config.deviceSecret : Nat → BitVec 256

/-- HMAC-SHA-384 of a secret and a digest (R350). PRESUMED as its standard defines it (log 13). -/
opaque Config.hmac384 : BitVec 256 → BitVec 384 → BitVec 384

/-- The ECDSA P-384 identity key that is derived from a CDI, as its public half (R350). FREE VALUE (log 13). -/
opaque Config.identityKey : BitVec 384 → List (BitVec 8)

/-- The stage 1 key of the cache die, as the value its private half is derived from (R350). FREE VALUE (log 13). -/
opaque Config.stage1Key : BitVec 384

/-- The certificate that a key issues for a public key (R350). PRESUMED as its standard defines it (log 13). -/
opaque Config.certify : BitVec 384 → List (BitVec 8) → List (BitVec 8)

/-- The ECDSA P-384 signature over a byte string under the key derived from a CDI (R352). PRESUMED as its standard defines
it (log 13). -/
opaque Config.signWith : BitVec 384 → List (BitVec 8) → List (BitVec 8)

/-- Whether a certificate chain is good and a signature over a byte string verifies under its key (R352). PRESUMED as its
standard defines it (log 13). -/
opaque Config.verifies : List (BitVec 8) → List (BitVec 8) → List (BitVec 8) → Bool

/-- Whether a signature over a stage 1 image and its manifest verifies under the vendor key fused in the cache die (R349).
PRESUMED as its standard defines it (log 13). -/
opaque Config.vendorSigned : List (BitVec 8) → List (BitVec 8) → Bool

end Sys2Proof
end

