-- ==== Sys2Proof/Syntax.lean ====
section
/-! DEFINITION. The instructions and events of the Z8: one constructor for each row of spec/opcode_table.json.
A slot operation carries the fields of its slot format (R62) that its entry uses or reserves; an event carries what
the outside world or the device supplies with it. Reserved fields stay in the syntax: WellFormed says they are zero. -/

namespace Sys2Proof

/-- AR format: destination, two sources (R62). -/
structure FormAR where
  d : Reg
  s : Reg
  t : Reg
  deriving DecidableEq, Repr

/-- AI format: destination, source, 12-bit immediate. -/
structure FormAI where
  d : Reg
  s : Reg
  imm : BitVec 12
  deriving DecidableEq, Repr

/-- AX format: destination, 18-bit immediate. -/
structure FormAX where
  d : Reg
  imm : BitVec 18
  deriving DecidableEq, Repr

/-- AK format: destination, halfword index, 16-bit immediate. -/
structure FormAK where
  d : Reg
  hw : BitVec 2
  imm : BitVec 16
  deriving DecidableEq, Repr

/-- AM format: destination and three sources; in the field form t is pos and u is len - 1. -/
structure FormAM where
  d : Reg
  s : Reg
  t : Reg
  u : Reg
  deriving DecidableEq, Repr

/-- CB format without its condition, which the constructor names. -/
structure FormCB where
  s : Reg
  t : Reg
  disp : BitVec 9
  deriving DecidableEq, Repr

/-- CL format: loop set-up. -/
structure FormCL where
  lvl : BitVec 2
  cnt : Reg
  body : BitVec 8
  stages : BitVec 3
  rot : Bool
  bbadv : Bool
  deriving DecidableEq, Repr

/-- LD and ST formats: data register, base, 12-bit offset. -/
structure FormLD where
  d : Reg
  base : Reg
  imm : BitVec 12
  deriving DecidableEq, Repr

/-- LV format: vector and indexed memory. -/
structure FormLV where
  vd : Reg
  base : Reg
  t : Reg
  k : BitVec 3
  ty : BitVec 3
  deriving DecidableEq, Repr

/-- AMO format without its function, which the constructor names: d, base, source, width (R69). -/
structure FormAMO where
  d : Reg
  base : Reg
  s : Reg
  w64 : Bool
  deriving DecidableEq, Repr

/-- VR format. -/
structure FormVR where
  vd : Reg
  vs : Reg
  vt : Reg
  k : BitVec 3
  ty : BitVec 2
  nf : Bool
  deriving DecidableEq, Repr

/-- VI format. -/
structure FormVI where
  vd : Reg
  vs : Reg
  imm : BitVec 12
  deriving DecidableEq, Repr

/-- VC format. -/
structure FormVC where
  vd : Reg
  vs : Reg
  fsrc : BitVec 4
  fdst : BitVec 4
  rm : BitVec 2
  sat : Bool
  nf : Bool
  deriving DecidableEq, Repr

/-- Fields of cgo and cstart (R71): record register, origin register, relative barrier. -/
structure FormCG where
  g : Reg
  o : Reg
  bar : BitVec 10
  deriving DecidableEq, Repr

/-- Fields of sbind (R221). -/
structure FormSB where
  port : BitVec 2
  g : Reg
  o : Reg
  bank : BitVec 4
  deriving DecidableEq, Repr

/-- Fields of coll (R256). -/
structure FormCO where
  ty : BitVec 2
  g : Reg
  bar : BitVec 10
  deriving DecidableEq, Repr

/-- The resources named in a partition command (R17, R353, R355). -/
structure Resources where
  dies : List Nat
  clusters : List Nat
  sets : List Nat
  ways : List Nat
  keys : List Nat
  fabricPorts : List Nat
  ethPorts : List Nat
  deriving DecidableEq, Repr

/-- A program loaded into a context (R193, R303, R308): its code as runs of pages (canonical page, page count), and its
segment table, with 0 entries for a program without one. -/
structure Program where
  pages : List (Addr × Nat)
  segAddr : Addr
  segCount : Nat
  deriving DecidableEq, Repr

/-- A word of 64 bits that a soft error strikes (R207): of HBM4E or the cellar by device address / 8; of a line of the
second-level cache by the same number; of a cluster bank by window offset / 8; of a block of a cluster's cache by device
address / 8; of a resident bundle of a core by canonical page and index in its sequence; of a press macro by cell / 8; of a
register. -/
inductive SoftPlace where
  | memory (w : Nat)
  | line (w : Nat)
  | bank (cluster w : Nat)
  | cached (cluster w : Nat)
  | code (core : Nat) (page : Addr) (idx : Nat)
  | press (core w : Nat)
  | scalar (core n : Nat)
  | vector (core n : Nat)
  | mask (core n : Nat)
  deriving DecidableEq, Repr

/-- What a network boot fetches, and what the flash slot holds (R349): the stage 1 image with its manifest, their
signature, and the manifest's configuration, the boot file URL, and the images that the manifest names, by log index 2 to 4. -/
structure BootImage where
  stage1 : List Byte
  manifest : List Byte
  config : List Byte
  signature : List Byte
  url : List Byte
  os : List Byte
  firmware : List Byte
  idrok : List Byte
  deriving DecidableEq, Repr

/-- The registration of a completion ring (R263): its base, its number of records, where the two index words stand in the
context's memory, prod first, if they stand there (log 79), and an interrupt vector. -/
structure RingRequest where
  base : Addr
  count : Nat
  indices : Option Addr
  vector : Option Nat
  deriving DecidableEq, Repr

/-- What the control OS gives a context when it creates it (R279, R338): identifier, partition, key slot, placement
seed, page-table root, share if it names one, feature mask and safe bound; the programs loaded into it (R303), its completion ring (R263), and the vectors its queues are registered with (R339). -/
structure CtxRequest where
  ctx : Nat
  part : Nat
  key : BitVec 8
  seed : BitVec 32
  root : Addr
  share : Option Nat
  feat : BitVec 5
  safebound : BitVec 16
  programs : List Program
  ring : Option RingRequest
  vectors : List (Nat × Nat)
  deriving DecidableEq, Repr

/-- A submission of Idrok to mapx (R307): canonical page, descriptor words W0 to W7, landing map, native and annex
bundles, the safe bound that is claimed for the version and the one its object declares (log 29); and the free frames that the control OS gives to
the native page, the annex page, a descriptor page and missing page tables. -/
structure MapxRequest where
  ctx : Nat
  canon : Addr
  words : List Word
  map : List Byte
  native : List Bundle
  annex : List Bundle
  bound : Nat
  declared : Nat
  nativeFrame : Addr
  annexFrame : Addr
  descFrame : Addr
  tables : List Addr
  deriving DecidableEq, Repr

/-- A block transfer asked for by the host (R262): context, tag, destination, source, byte count. The destination holds the
number of another module in bits 63 to 48 (R330; log 47). -/
structure CopyRequest where
  ctx : Nat
  tag : Word
  dst : Word
  src : Addr
  count : Nat
  deriving DecidableEq, Repr

/-- A management command with its arguments (R353); the layout of resource lists in a command block is the model's
own (log 15). -/
inductive Command where
  | caps (buf size : Nat)
  | summary (buf size : Nat)
  | pcreate (part : Nat) (r : Resources)
  | presize (part : Nat) (more less : Resources)
  | pdestroy (part : Nat)
  | linkw (link width : Nat)
  | setclk (die point : Nat)
  | meter (ctx resource rate burst : Nat)
  | share (ctx w : Nat)
  /-- A block whose opcode is none of these: result 3. -/
  | other
  deriving DecidableEq, Repr

/-- What is written that has no row of its own (R43, R338, R353), and what else comes from outside. -/
inductive HostReg where
  /-- Mailbox offset 0x00 of the physical function: the value is the address of a command block. -/
  | mailbox
  /-- A byte offset in BAR0 of a partition's virtual function (R338). -/
  | bar (part off : Nat)
  /-- A control register of a core, by number, as the control OS sets it. -/
  | control (core : Nat) (num : BitVec 12)
  /-- A 64-bit word of a core's firmware instruction memory, by byte offset (R273). -/
  | fwText (core off : Nat)
  /-- A word of host memory. -/
  | hostWord (addr : Nat)
  /-- A soft error (R207): corrected for the value 0, uncorrectable for any other (log 75). -/
  | softError (p : SoftPlace)
  /-- The governor's sensors: the measured draw of everything but press arrays and collective traffic, in milliwatts
  (R344; log 78). -/
  | draw
  deriving DecidableEq, Repr

/-- What the outside world, the control OS, a sensor or a link asks of the machine, with its operands. Each request is
answered by the row of the same name (`Request.row`). -/
inductive Request where
  | preemptionRequest (core : Nat)
  | timedPhasePreemption (launch k : Nat)
  | mapx (m : MapxRequest)
  | thermalTrip (die : Nat)
  | thermalTripClear (die : Nat)
  -- the queue registers of a context's window, at their offsets in BAR0 of its partition's virtual function (R338)
  | doorbell (part off : Nat) (addr : Word)
  | queueStatusClear (part off : Nat) (bits : BitVec 3)
  | cancelGraph (part off : Nat)
  | cancelJob (part off : Nat)
  | hostCopy (c : CopyRequest)
  | completionRingResume (ctx : Nat) (cons : BitVec 32)
  -- the link and the width that is left, in sixteenths
  | emergencyWidthReduction (link width : Nat)
  -- the port and the 256 bytes of the flit
  | fabricIdle (port : Nat) (flit : Vec)
  | collectiveData (port : Nat) (flit : Vec)
  | remoteWrite (port : Nat) (flit : Vec)
  | remoteAtomic (port : Nat) (flit : Vec)
  | atomicReply (port : Nat) (flit : Vec)
  | acknowledge (port : Nat) (flit : Vec)
  | retryRequest (port : Nat) (flit : Vec)
  | dieChallengeTimeout (die : Nat)
  -- what the network answers when the boot ROM tries it (R349)
  | bootNetworkRetry (image : Option BootImage)
  -- the Ethernet port that an SPDM request comes on (R351)
  | getVersion (port : Nat)
  | getCapabilities (port : Nat)
  | negotiateAlgorithms (port : Nat) (ecdsaP384 sha384 : Bool)
  | getDigests (port : Nat)
  | getCertificate (port : Nat)
  | challenge (port : Nat) (nonce : BitVec 256)
  | getMeasurements (port : Nat) (index : Nat) (nonce : BitVec 256)
  | registerWrite (r : HostReg) (value : Word)
  | contextCreation (c : CtxRequest)
  | contextDestruction (ctx : Nat)
  | pageMigration (ctx : Nat) (page frame : Addr) (stage : BitVec 2)
  -- a request of the control cores to the firmware of a core (cause 0x12, R274)
  | firmwareRequest (core : Nat)
  deriving DecidableEq, Repr

/-- The device's operations and events, one constructor for each row of the opcode table. -/
inductive Instr where
  -- bundle events
  | branchTargetFill (dist : BitVec 12)
  | callTargetFill (dist : BitVec 12)
  | loopExitFill (dist : BitVec 12)
  -- A slots
  | add (f : FormAR)
  | sub (f : FormAR)
  | and (f : FormAR)
  | or (f : FormAR)
  | xor (f : FormAR)
  | andn (f : FormAR)
  | shl (f : FormAR)
  | shr (f : FormAR)
  | sar (f : FormAR)
  | min (f : FormAR)
  | max (f : FormAR)
  | minu (f : FormAR)
  | maxu (f : FormAR)
  | slt (f : FormAR)
  | sltu (f : FormAR)
  | seq (f : FormAR)
  | sne (f : FormAR)
  | mul (f : FormAR)
  | mulh (f : FormAR)
  | mulhu (f : FormAR)
  | div (f : FormAR)
  | divu (f : FormAR)
  | rem (f : FormAR)
  | remu (f : FormAR)
  | clz (f : FormAR)
  | ctz (f : FormAR)
  | popc (f : FormAR)
  | addi (f : FormAI)
  | andi (f : FormAI)
  | ori (f : FormAI)
  | xori (f : FormAI)
  | slti (f : FormAI)
  | sltui (f : FormAI)
  | shli (f : FormAI)
  | shri (f : FormAI)
  | sari (f : FormAI)
  | movi (f : FormAX)
  | movk (f : FormAK)
  | immx (payload : BitVec 24)
  | madd (f : FormAM)
  | lea (f : FormAM)
  | sel (f : FormAM)
  | bfx (f : FormAM)
  | bfxz (f : FormAM)
  | bfi (f : FormAM)
  | csrr (f : FormAI)
  | csrw (f : FormAI)
  -- C slot
  | brEq (f : FormCB)
  | brNe (f : FormCB)
  | brLt (f : FormCB)
  | brGe (f : FormCB)
  | brLtu (f : FormCB)
  | brGeu (f : FormCB)
  | bz (s : Reg) (disp : BitVec 17)
  | bnz (s : Reg) (disp : BitVec 17)
  | jmp (disp : BitVec 24)
  | call (disp : BitVec 24)
  | jmpr (s : Reg)
  | callr (s : Reg)
  | loop (f : FormCL)
  | loopi (f : FormCL)
  | lbrk (lvl : BitVec 2)
  | trap (code : BitVec 24)
  | align (imm : BitVec 24)
  | alignr (s : Reg)
  | bwait (bar : BitVec 10)
  | barm (bar : BitVec 10) (c : Reg) (arrivals : Bool)
  | mark (scope : BitVec 3)
  -- scalar and vector memory
  | ldB (f : FormLD)
  | ldBu (f : FormLD)
  | ldH (f : FormLD)
  | ldHu (f : FormLD)
  | ldW (f : FormLD)
  | ldWu (f : FormLD)
  | ldD (f : FormLD)
  | ldx (f : FormLV)
  | vld (f : FormLV)
  | vldEf (f : FormLV)
  | vlds (f : FormLV)
  | vldx (f : FormLV)
  | vldb (f : FormLV)
  | pref (f : FormLD)
  | stB (f : FormLD)
  | stH (f : FormLD)
  | stW (f : FormLD)
  | stD (f : FormLD)
  | stx (f : FormLV)
  | vst (f : FormLV)
  | vstEf (f : FormLV)
  | vsts (f : FormLV)
  | vstx (f : FormLV)
  | vstmc (f : FormLV)
  | wbk (f : FormLD)
  | amoAdd (f : FormAMO)
  | amoFadd (f : FormAMO)
  | amoMin (f : FormAMO)
  | amoMax (f : FormAMO)
  | amoMinu (f : FormAMO)
  | amoMaxu (f : FormAMO)
  | amoAnd (f : FormAMO)
  | amoOr (f : FormAMO)
  | amoXor (f : FormAMO)
  | amoSwap (f : FormAMO)
  | amoCas (f : FormAMO)
  | amoFmin (f : FormAMO)
  | amoFmax (f : FormAMO)
  | redAdd (f : FormAMO)
  | redFadd (f : FormAMO)
  | redMin (f : FormAMO)
  | redMax (f : FormAMO)
  | redMinu (f : FormAMO)
  | redMaxu (f : FormAMO)
  | redAnd (f : FormAMO)
  | redOr (f : FormAMO)
  | redXor (f : FormAMO)
  | redFmin (f : FormAMO)
  | redFmax (f : FormAMO)
  | pin (size base : Reg) (ways : BitVec 4) (slot : BitVec 3)
  | unpin (slot : BitVec 3)
  | tsend (vs : Reg) (die : BitVec 3) (queue : BitVec 2)
  | tsendDeparture (die : Nat)
  -- V slots
  | vfadd (f : FormVR)
  | vfsub (f : FormVR)
  | vfmul (f : FormVR)
  | vfma (f : FormVR)
  | vfms (f : FormVR)
  | vfmin (f : FormVR)
  | vfmax (f : FormVR)
  | vfabs (f : FormVR)
  | vfneg (f : FormVR)
  | vfceq (f : FormVR)
  | vfclt (f : FormVR)
  | vfcle (f : FormVR)
  | vfcun (f : FormVR)
  | vfrcp (f : FormVR)
  | vfrsq (f : FormVR)
  | vfexp2 (f : FormVR)
  | vflog2 (f : FormVR)
  | vadd (f : FormVR)
  | vsub (f : FormVR)
  | vmul (f : FormVR)
  | vmulh (f : FormVR)
  | vmin (f : FormVR)
  | vmax (f : FormVR)
  | vminu (f : FormVR)
  | vmaxu (f : FormVR)
  | vand (f : FormVR)
  | vor (f : FormVR)
  | vxor (f : FormVR)
  | vshl (f : FormVR)
  | vshr (f : FormVR)
  | vsar (f : FormVR)
  | vceq (f : FormVR)
  | vclt (f : FormVR)
  | vcltu (f : FormVR)
  | vsel (f : FormVR)
  | vaddsat (f : FormVR)
  | vsubsat (f : FormVR)
  | vperm (f : FormVR)
  | vslide (vd vs : Reg) (n : BitVec 7)
  | vslideR (vd vs : Reg) (n : BitVec 7)
  | viota (f : FormVR)
  | vbcast (f : FormVR)
  | vmovs (vd vs : Reg) (idx : BitVec 8) (zx : Bool) (width : BitVec 2)
  | vinsl (vd vs : Reg) (idx : BitVec 8) (width : BitVec 2)
  | vredsum (f : FormVR)
  | vredmax (f : FormVR)
  | vredmin (f : FormVR)
  | kopAnd (d a b k : BitVec 3)
  | kopOr (d a b k : BitVec 3)
  | kopXor (d a b k : BitVec 3)
  | kopAndn (d a b k : BitVec 3)
  | kpop (ad : Reg) (ks k : BitVec 3)
  | kpopMv (ad : Reg) (ks k : BitVec 3)
  | kpopFf (ad : Reg) (ks k : BitVec 3)
  | kfrom (kd : BitVec 3) (s : Reg)
  | kset (kd : BitVec 3) (s : Reg)
  | vcvt (f : FormVC)
  | vcvts (f : FormVC)
  | vmaxabs (fmt : BitVec 4) (latch : BitVec 2) (vs : Reg) (k : BitVec 3) (ty : BitVec 2) (nf : Bool)
  | vdecb (vd vs : Reg) (t q : BitVec 2)
  | vdecbTab (blk : BitVec 3) (vs : Reg) (t : BitVec 2)
  | vsplit (vd vs ve : Reg) (i : BitVec 3) (ty : BitVec 2) (row : Bool)
  | vsexp (f : FormVR)
  | vscalb (f : FormVR)
  | vflags (vd : Reg) (clr : BitVec 5)
  | vflagsSet (vd vs : Reg)
  -- P slot
  | pset (s w : BitVec 3) (asgn bsgn : Bool)
  | ppush (vs : Reg) (m : BitVec 3) (h : BitVec 6)
  | pfill (vs : Reg) (h : BitVec 2)
  | pfillN (vs : Reg) (h : BitVec 1)
  | pacc (mask : BitVec 8) (delta : BitVec 3) (kq : BitVec 4)
  | pshift (d s : BitVec 3) (n : BitVec 6)
  | pdrain (vd : Reg) (a row : BitVec 3) (part fmt : BitVec 2) (d : BitVec 3) (nf : Bool)
  | pclr (mask : BitVec 8) (rb ex : Bool)
  | pclrSt (ad : Reg) (mask : BitVec 8)
  | pexpRows (vs : Reg) (ty : BitVec 2) (int : Bool)
  | pexpCols (vs : Reg) (ty : BitVec 2) (mask : BitVec 8) (part : BitVec 2) (int : Bool)
  | cgoIn (f : FormCG)
  | cgoOut (f : FormCG)
  | cseq (lvl : BitVec 3) (c s : Reg)
  | cstart (f : FormCG)
  | cstartOut (f : FormCG)
  | sbindIn (f : FormSB)
  | sbindOut (f : FormSB)
  | sbindOff (port : BitVec 2)
  | streamFillRead (port : BitVec 2)
  | streamDrainWrite (port : BitVec 2)
  | bank (mask : BitVec 16) (mode : BitVec 2)
  | collAllreduceSum (f : FormCO)
  | collAllreduceMax (f : FormCO)
  | collAllgather (f : FormCO)
  | collRscatterSum (f : FormCO)
  | collRscatterMax (f : FormCO)
  | collBcast (f : FormCO)
  -- firmware context
  | fwyield (fin : Bool) (code : BitVec 8)
  | tlbinv (scope : BitVec 2) (fs : Reg) (all : Bool)
  | csrwp (fs : Reg) (num : BitVec 12)
  | csrrp (fd : Reg) (num : BitVec 12)
  | flread (fd fi : Reg)
  | flwrite (fs fi : Reg)
  | vinval (fs : Reg) (all : Bool)
  | bmap (fh fe : Reg)
  -- ring time
  | ringCountSend (die : Nat)
  | ringCountReceipt (die src : Nat) (count lam : Nat)
  -- front end
  | taskDispatch (core launch : Nat)
  | timedLaunchReservation (core launch : Nat)
  | timedPhaseStart (phase : Nat)
  -- Rows without operands of their own: what a row that answers a request needs stands in State.req,
  -- what a front-end row needs in the queue that State.fe names.
  -- bundle events
  | nop
  | padBundle
  | bundleFetch
  | safeBundle
  | segMark
  | safeBoundOverrun
  | cadenceOverrun
  | freezeEnd
  | loadDataArrival
  | loopEndEvaluation
  | drainNoOpBundles
  -- C slot
  | ret
  | halt
  | realign
  | realignEffect
  | bbadv
  | leave
  | leaveEnd
  -- scalar and vector memory
  | atomicExecution
  | atomicBounce
  | atomicReissue
  | writePerformed
  | clusterCacheWriteback
  | pageWalkComplete
  | retentionTakesEffect
  | tsendArrival
  -- P slot
  | pressBeat
  | nestStart
  | sequencerEmission
  | copyElementsPerformed
  | barrierContribution
  | bankSwitchComplete
  | collectiveMatch
  | collectiveCompletion
  -- firmware context
  | resume
  | fwtake
  -- traps, pre-emption, treatments
  | firmwareActivation
  | fwshareWindow
  | preemptionRequest
  | timedPhasePreemption
  | segmentCopyComplete
  | codeReloadComplete
  | mapx
  -- front end
  | leaveGrant
  | thermalTrip
  | thermalTripClear
  | meterRefill
  | taskComplete
  | faultReport
  | doorbell
  | queueStatusClear
  | cancelGraph
  | cancelJob
  | graphStart
  | phaseNode
  | copyNode
  | condNode
  | loopNode
  | loopEndNode
  | waitNode
  | waitSatisfied
  | signalNode
  | endNode
  | blockTransferComplete
  | hostCopy
  | completionRingResume
  -- management
  | caps
  | summary
  | pcreate
  | presize
  | pdestroy
  | linkw
  | setclk
  | meter
  | share
  | managementTick
  | emergencyWidthReduction
  -- scale-up fabric: the port and the 256 bytes of the flit
  | fabricIdle
  | collectiveData
  | remoteWrite
  | remoteAtomic
  | atomicReply
  | acknowledge
  | retryRequest
  -- contexts, boot, attestation
  | contextChange
  | powerOn
  | bootNetworkRetry
  | dieChallengeTimeout
  | getVersion
  | getCapabilities
  | negotiateAlgorithms
  | getDigests
  | getCertificate
  | challenge
  | getMeasurements
  | registerWrite
  | contextCreation
  | contextDestruction
  | pageMigration
  deriving DecidableEq, Repr

/-- The row of a management command. -/
def Command.row : Command → Option Instr
  | .caps _ _ => some .caps
  | .summary _ _ => some .summary
  | .pcreate _ _ => some .pcreate
  | .presize _ _ _ => some .presize
  | .pdestroy _ => some .pdestroy
  | .linkw _ _ => some .linkw
  | .setclk _ _ => some .setclk
  | .meter _ _ _ _ => some .meter
  | .share _ _ => some .share
  | .other => none

/-- The row that answers a request. -/
def Request.row : Request → Instr
  | .preemptionRequest _ => .preemptionRequest
  | .timedPhasePreemption _ _ => .timedPhasePreemption
  | .mapx _ => .mapx
  | .thermalTrip _ => .thermalTrip
  | .thermalTripClear _ => .thermalTripClear
  | .doorbell _ _ _ => .doorbell
  | .queueStatusClear _ _ _ => .queueStatusClear
  | .cancelGraph _ _ => .cancelGraph
  | .cancelJob _ _ => .cancelJob
  | .hostCopy _ => .hostCopy
  | .completionRingResume _ _ => .completionRingResume
  | .emergencyWidthReduction _ _ => .emergencyWidthReduction
  | .fabricIdle _ _ => .fabricIdle
  | .collectiveData _ _ => .collectiveData
  | .remoteWrite _ _ => .remoteWrite
  | .remoteAtomic _ _ => .remoteAtomic
  | .atomicReply _ _ => .atomicReply
  | .acknowledge _ _ => .acknowledge
  | .retryRequest _ _ => .retryRequest
  | .dieChallengeTimeout _ => .dieChallengeTimeout
  | .bootNetworkRetry _ => .bootNetworkRetry
  | .getVersion _ => .getVersion
  | .getCapabilities _ => .getCapabilities
  | .negotiateAlgorithms _ _ _ => .negotiateAlgorithms
  | .getDigests _ => .getDigests
  | .getCertificate _ => .getCertificate
  | .challenge _ _ => .challenge
  | .getMeasurements _ _ _ => .getMeasurements
  | .registerWrite _ _ => .registerWrite
  | .contextCreation _ => .contextCreation
  | .contextDestruction _ => .contextDestruction
  | .pageMigration _ _ _ _ => .pageMigration
  | .firmwareRequest _ => .firmwareActivation

/-- Where the queue registers of a window start in BAR0 of a virtual function, and how far apart windows and queues stand
(R338). -/
def barBase : Nat := 0x1000
def barWindow : Nat := 0x1000
def barQueue : Nat := 0x40

/-- The window, the queue and the register offset of a byte offset in BAR0, if it lies in a queue's registers (R338). -/
def barDecode (off : Nat) : Option (Nat × Nat × Nat) :=
  let o := off - barBase
  if off < barBase ∨ 64 * barWindow ≤ o ∨ 4 * barQueue ≤ o % barWindow then none
  else some (o / barWindow, o % barWindow / barQueue, o % barQueue)

/-- The request that a 64-bit write of the host to BAR0 of a partition's virtual function makes (R338). -/
def barWrite (part off : Nat) (x : Word) : Request :=
  match barDecode off with
  | some (_, _, 0x00) => .doorbell part off x
  | some (_, _, 0x10) => .queueStatusClear part off (x.setWidth 3)
  | some (_, _, 0x20) =>
    if x = 1 then .cancelGraph part off else if x = 2 then .cancelJob part off else .registerWrite (.bar part off) x
  | _ => .registerWrite (.bar part off) x

end Sys2Proof
end

