-- ==== Sys2Proof/WellFormed.lean ====
section
/-! DEFINITION. The encoding rules of R63 and of the instruction entries that a slot word decides alone (R75): reserved
fields are zero, fields stay in the ranges their entries give. An operation that is not well-formed raises fault 0x01. -/

namespace Sys2Proof

/-- Numbers that R43 assigns to control registers. -/
def csrAssigned (n : BitVec 12) : Bool :=
  let x := n.toNat
  x ≤ 0x009 || (0x010 ≤ x && x ≤ 0x013) || (0x020 ≤ x && x ≤ 0x033) || (0x100 ≤ x && x ≤ 0x103) ||
    (0x110 ≤ x && x ≤ 0x113)

/-- Registers that R43 calls read-only. -/
def csrReadOnly (n : BitVec 12) : Bool :=
  let x := n.toNat
  x == 0 || (0x005 ≤ x && x ≤ 0x009)

/-- Registers that R43 calls privileged. -/
def csrPrivileged (n : BitVec 12) : Bool := 0x100 ≤ n.toNat

/-- Registers that `csrwp` may not write (R289). -/
def csrwpForbidden (n : BitVec 12) : Bool :=
  let x := n.toNat
  x == 0 || (0x007 ≤ x && x ≤ 0x009)

/-- One bits of a mask field. -/
def countOnes {w : Nat} (x : BitVec w) : Nat :=
  (List.range w).countP (fun i => x.getLsbD i)

/-- Format codes of the wide formats of R163. -/
def isWideCode (c : BitVec 4) : Bool := c.toNat ≤ 3
/-- Format codes of the block element formats of R163. -/
def isBlockCode (c : BitVec 4) : Bool := 4 ≤ c.toNat && c.toNat ≤ 8

/-- A width of `vmovs` and `vinsl` in bits (R154). -/
def moveWidth (c : BitVec 2) : Nat :=
  match c.toNat with
  | 0 => 32
  | 1 => 16
  | 2 => 8
  | _ => 64

/-- Bits of a floating-point element by the ty coding of R63. -/
def fpWidth (ty : BitVec 2) : Nat :=
  match ty.toNat with
  | 0 => 32
  | 1 => 16
  | 2 => 16
  | _ => 64

/-- The VR rule for an operation whose vt is reserved. -/
def FormVR.noVt (f : FormVR) : Bool := f.vt == 0

/-- A mask register as destination: vd is 0 to 7 (R63). -/
def FormVR.maskDest (f : FormVR) : Bool := f.vd.toNat < 8

/-- The LV rule for vector memory whose ty[2] is reserved (R208). -/
def FormLV.noScale (f : FormLV) : Bool := f.ty.toNat < 4

/-- The record and origin fields of R71. -/
def recordFields (g o : Reg) : Bool := g.toNat % 4 == 0 && g.toNat ≤ 52 && o.toNat ≤ 62

/-- R112: the body length is a multiple of the stage count. -/
def FormCL.divisible (f : FormCL) : Bool := (f.body.toNat + 1) % (f.stages.toNat + 1) == 0

/-- R84: the field lies within 64 bits. -/
def FormAM.fieldFits (f : FormAM) : Bool := f.t.toNat + f.u.toNat + 1 ≤ 64

/-- R65: the upper immediate bits of an immediate shift are reserved. -/
def FormAI.shiftFits (f : FormAI) : Bool := f.imm.toNat < 64

/-- The formats of `vcvt` (R135, R160). -/
def FormVC.plainFormats (f : FormVC) : Bool :=
  f.fsrc != 14 && f.fdst != 14 && !(f.fsrc == 15 && f.fdst == 15) &&
    (!(f.fsrc == 15 || f.fdst == 15) || (f.rm == 0 && !f.sat))

/-- The formats of `vcvts` (R135, R163). -/
def FormVC.scaledFormats (f : FormVC) : Bool :=
  if f.fsrc == 15 then isWideCode f.fdst && !f.sat
  else if f.fdst == 15 then isWideCode f.fsrc && !f.sat
  else (isWideCode f.fsrc && isBlockCode f.fdst) || (isBlockCode f.fsrc && isWideCode f.fdst)

/-- Encoding legality that the fields of the operation decide (R63, R75). Events have no encoding and are well-formed.
The rules of vintage, context and `ctl.feat` stand in `legalHere` (R72, R73, R279). -/
def Instr.wellFormed : Instr → Bool
  | .clz f | .ctz f | .popc f => f.t == 0
  | .shli f | .shri f | .sari f => f.shiftFits
  | .bfx f | .bfxz f | .bfi f => f.fieldFits
  | .csrr f => f.s == 0 && csrAssigned f.imm
  | .csrw f => f.d == 0 && csrAssigned f.imm && !csrReadOnly f.imm
  | .loop f | .loopi f => f.divisible
  | .mark scope => scope.toNat ≤ 4
  | .ldx f => f.k == 0 && f.ty != 7
  | .stx f => f.k == 0 && f.ty.toNat < 4
  | .vld f | .vldEf f | .vlds f | .vldb f => f.noScale
  | .vst f | .vstEf f | .vsts f | .vstmc f => f.noScale
  | .pref f => f.d == 0
  | .wbk f => f.d == 0
  | .amoAdd f | .amoFadd f | .amoMin f | .amoMax f | .amoMinu f | .amoMaxu f | .amoAnd f | .amoOr f | .amoXor f
  | .amoSwap f | .amoFmin f | .amoFmax f => f.d == 0
  | .redAdd f | .redFadd f | .redMin f | .redMax f | .redMinu f | .redMaxu f | .redAnd f | .redOr f | .redXor f
  | .redFmin f | .redFmax f => f.d == 0
  | .pin _ _ ways _ => ways != 0
  | .vfabs f | .vfneg f | .vfrcp f | .vfrsq f | .vfexp2 f | .vflog2 f => f.noVt
  | .vfceq f | .vfclt f | .vfcle f | .vfcun f | .vceq f | .vclt f | .vcltu f => f.maskDest
  | .viota f => f.vs == 0 && f.vt == 0
  | .vbcast f => f.noVt
  | .vmovs _ _ idx zx width => idx.toNat * moveWidth width < 2048 && !(zx && width == 3)
  | .vinsl _ _ idx width => idx.toNat * moveWidth width < 2048
  | .vredsum f | .vredmax f | .vredmin f => f.noVt
  | .vcvt f => f.plainFormats
  | .vcvts f => f.scaledFormats
  | .vmaxabs fmt _ _ _ _ _ => (4 ≤ fmt.toNat && fmt.toNat ≤ 8) || fmt == 15
  | .vdecbTab _ _ t => t != 0
  | .pacc mask _ kq => 1 ≤ countOnes mask && countOnes mask ≤ 4 && kq != 0
  | .pshift _ _ n => n.toNat < 48
  | .pdrain _ _ _ part fmt d _ =>
    !((fmt == 1 || fmt == 2) && 2 ≤ part.toNat) && !(2 ≤ fmt.toNat && d != 0)
  | .pexpRows _ ty int => !(int && ty != 0)
  | .pexpCols _ ty mask part int => mask != 0 && part.toNat * (2048 / fpWidth ty) < 128 && !(int && ty != 0)
  | .cgoIn f | .cgoOut f | .cstart f | .cstartOut f => recordFields f.g f.o
  | .cseq lvl _ s => lvl.toNat ≤ 5 && s.toNat ≤ 61
  | .sbindIn f | .sbindOut f => recordFields f.g f.o
  | .bank _ mode => mode != 3
  | .collAllreduceSum f | .collAllreduceMax f | .collAllgather f | .collRscatterSum f | .collRscatterMax f
  | .collBcast f => f.ty != 3
  | .tlbinv scope fs _ => scope != 3 && fs.toNat < 32
  | .csrwp fs num => fs.toNat < 32 && csrAssigned num && !csrwpForbidden num
  | .csrrp fd num => fd.toNat < 32 && csrAssigned num
  | .flread fd fi => fd.toNat < 32 && fi.toNat < 32
  | .flwrite fs fi => fs.toNat < 32 && fi.toNat < 32
  | .vinval fs _ => fs.toNat < 32
  | .bmap fh fe => fh.toNat < 32 && fe.toNat < 32
  | _ => true

end Sys2Proof
end

