-- ==== Sys2Proof/Decode.lean ====
section
/-! DEFINITION. The decoder and the encoder of slot words and bundles (R57 to R73). Decoding a slot word takes the
operation its opcode names, then demands that the word is exactly that operation's encoding, so that a nonzero reserved
bit is refused (R63), and that the operation is well-formed. -/

namespace Sys2Proof

/-! Fields of a slot word (R62). -/

/-- Field of a slot word: len bits from bit lo. -/
def fld (w : Slot) (lo len : Nat) : BitVec len := w.extractLsb' lo len
/-- Bits [23:18]. -/
def fldD (w : Slot) : Reg := fld w 18 6
/-- Bits [17:12]. -/
def fldS (w : Slot) : Reg := fld w 12 6
/-- Bits [11:6]. -/
def fldT (w : Slot) : Reg := fld w 6 6
/-- Bits [5:0]. -/
def fldU (w : Slot) : Reg := fld w 0 6
/-- One bit of a slot word. -/
def flag (w : Slot) (i : Nat) : Bool := w.getLsbD i
/-- A Bool as one bit. -/
def bit (b : Bool) : BitVec 1 := BitVec.ofBool b
/-- A mask number in a 6-bit field (R63). -/
def m6 (k : BitVec 3) : Reg := (0 : BitVec 3) ++ k

def unAR (w : Slot) : FormAR := ⟨fldD w, fldS w, fldT w⟩
def unAI (w : Slot) : FormAI := ⟨fldD w, fldS w, fld w 0 12⟩
def unAX (w : Slot) : FormAX := ⟨fldD w, fld w 0 18⟩
def unAK (w : Slot) : FormAK := ⟨fldD w, fld w 16 2, fld w 0 16⟩
def unAM (w : Slot) : FormAM := ⟨fldD w, fldS w, fldT w, fldU w⟩
def unCB (w : Slot) : FormCB := ⟨fld w 15 6, fld w 9 6, fld w 0 9⟩
def unCL (w : Slot) : FormCL := ⟨fld w 22 2, fld w 16 6, fld w 8 8, fld w 5 3, flag w 4, flag w 3⟩
def unLD (w : Slot) : FormLD := ⟨fldD w, fldS w, fld w 0 12⟩
def unLV (w : Slot) : FormLV := ⟨fldD w, fldS w, fldT w, fld w 3 3, fld w 0 3⟩
def unAMO (w : Slot) : FormAMO := ⟨fldD w, fldS w, fldT w, flag w 4⟩
def unVR (w : Slot) : FormVR := ⟨fldD w, fldS w, fldT w, fld w 3 3, fld w 1 2, flag w 0⟩
def unVC (w : Slot) : FormVC := ⟨fldD w, fldS w, fld w 8 4, fld w 4 4, fld w 2 2, flag w 1, flag w 0⟩
def unCG (w : Slot) : FormCG := ⟨fldD w, fldS w, fld w 2 10⟩
def unSB (w : Slot) : FormSB := ⟨fld w 22 2, fld w 14 6, fld w 8 6, fld w 4 4⟩
def unCO (w : Slot) : FormCO := ⟨fld w 19 2, fld w 13 6, fld w 3 10⟩

def packAR (op fn : BitVec 6) (f : FormAR) : Slot := op ++ f.d ++ f.s ++ f.t ++ fn
def packAI (op : BitVec 6) (f : FormAI) : Slot := op ++ f.d ++ f.s ++ f.imm
def packAX (op : BitVec 6) (f : FormAX) : Slot := op ++ f.d ++ f.imm
def packAK (op : BitVec 6) (f : FormAK) : Slot := op ++ f.d ++ f.hw ++ f.imm
def packAM (op : BitVec 6) (f : FormAM) : Slot := op ++ f.d ++ f.s ++ f.t ++ f.u
def packCB (cond : BitVec 3) (f : FormCB) : Slot := (0x01 : BitVec 6) ++ cond ++ f.s ++ f.t ++ f.disp
def packCZ (op : BitVec 6) (nz : BitVec 1) (s : Reg) (disp : BitVec 17) : Slot := op ++ nz ++ s ++ disp
def packCJ (op : BitVec 6) (x : BitVec 24) : Slot := op ++ x
def packCL (op : BitVec 6) (f : FormCL) : Slot :=
  op ++ f.lvl ++ f.cnt ++ f.body ++ f.stages ++ bit f.rot ++ bit f.bbadv ++ (0 : BitVec 3)
def packR (op : BitVec 6) (s : Reg) : Slot := op ++ s ++ (0 : BitVec 18)
def packRR (op : BitVec 6) (s t : Reg) : Slot := op ++ s ++ t ++ (0 : BitVec 12)
def packLD (op : BitVec 6) (f : FormLD) : Slot := op ++ f.d ++ f.base ++ f.imm
def packLV (op : BitVec 6) (f : FormLV) : Slot := op ++ f.vd ++ f.base ++ f.t ++ f.k ++ f.ty
def packAMO (op : BitVec 6) (fn : BitVec 4) (f : FormAMO) : Slot :=
  op ++ f.d ++ f.base ++ f.s ++ (0 : BitVec 1) ++ bit f.w64 ++ fn
def packVR (op : BitVec 6) (f : FormVR) : Slot := op ++ f.vd ++ f.vs ++ f.vt ++ f.k ++ f.ty ++ bit f.nf
def packMask (op : BitVec 6) (d s t : Reg) (k : BitVec 3) (ty : BitVec 2) : Slot :=
  op ++ d ++ s ++ t ++ k ++ ty ++ (0 : BitVec 1)
def packVC (op : BitVec 6) (f : FormVC) : Slot :=
  op ++ f.vd ++ f.vs ++ f.fsrc ++ f.fdst ++ f.rm ++ bit f.sat ++ bit f.nf
def packCG (op : BitVec 6) (dir : BitVec 1) (f : FormCG) : Slot := op ++ f.g ++ f.o ++ f.bar ++ (0 : BitVec 1) ++ dir
def packSB (op : BitVec 2) (f : FormSB) : Slot :=
  (0x13 : BitVec 6) ++ f.port ++ op ++ f.g ++ f.o ++ f.bank ++ (0 : BitVec 4)
def packCO (op : BitVec 3) (f : FormCO) : Slot :=
  (0x15 : BitVec 6) ++ op ++ f.ty ++ f.g ++ f.bar ++ (0 : BitVec 3)

/-- The slot classes of R62. -/
inductive SlotClass where
  | a | c | l | s | v | p
  deriving DecidableEq, Repr

/-- The class of slot k (R65 to R71). -/
def slotClass (k : Nat) : SlotClass :=
  match k with
  | 0 | 1 => .a
  | 2 => .c
  | 3 => .l
  | 4 => .s
  | 5 | 6 => .v
  | _ => .p

/-- Why a slot word or a bundle is refused, by name. All of these raise fault 0x01, but for the pad bundle (0x0B). -/
inductive DecodeError where
  /-- The major opcode or its function field is not assigned in this slot class (R65 to R72). -/
  | unassigned
  /-- A reserved bit is set, or a mask-file field holds 8 to 63 (R63). -/
  | reservedBits
  /-- A field holds a value that the instruction's entry calls illegal (R75). -/
  | illegalField
  /-- Hint kind 0 with a nonzero distance (R58). -/
  | illegalHint
  /-- The pad bundle (R61). -/
  | pad
  deriving DecidableEq, Repr

/-- R66: the AR group by fn. -/
def arByFn (n : Nat) (f : FormAR) : Option Instr :=
  match n with
  | 0x00 => some (.add f)
  | 0x01 => some (.sub f)
  | 0x02 => some (.and f)
  | 0x03 => some (.or f)
  | 0x04 => some (.xor f)
  | 0x05 => some (.andn f)
  | 0x06 => some (.shl f)
  | 0x07 => some (.shr f)
  | 0x08 => some (.sar f)
  | 0x09 => some (.min f)
  | 0x0A => some (.max f)
  | 0x0B => some (.minu f)
  | 0x0C => some (.maxu f)
  | 0x0D => some (.slt f)
  | 0x0E => some (.sltu f)
  | 0x0F => some (.seq f)
  | 0x10 => some (.sne f)
  | 0x11 => some (.mul f)
  | 0x12 => some (.mulh f)
  | 0x13 => some (.mulhu f)
  | 0x14 => some (.div f)
  | 0x15 => some (.divu f)
  | 0x16 => some (.rem f)
  | 0x17 => some (.remu f)
  | 0x18 => some (.clz f)
  | 0x19 => some (.ctz f)
  | 0x1A => some (.popc f)
  | _ => none

/-- R65: the A slot by major opcode. -/
def opA (n : Nat) (w : Slot) : Option Instr :=
  match n with
  | 0x00 => some .nop
  | 0x01 => arByFn (fldU w).toNat (unAR w)
  | 0x02 => some (.addi (unAI w))
  | 0x03 => some (.andi (unAI w))
  | 0x04 => some (.ori (unAI w))
  | 0x05 => some (.xori (unAI w))
  | 0x06 => some (.slti (unAI w))
  | 0x07 => some (.sltui (unAI w))
  | 0x08 => some (.shli (unAI w))
  | 0x09 => some (.shri (unAI w))
  | 0x0A => some (.sari (unAI w))
  | 0x10 => some (.movi (unAX w))
  | 0x13 => some (.movk (unAK w))
  | 0x14 => some (.madd (unAM w))
  | 0x15 => some (.lea (unAM w))
  | 0x16 => some (.sel (unAM w))
  | 0x17 => some (.bfx (unAM w))
  | 0x18 => some (.bfxz (unAM w))
  | 0x19 => some (.bfi (unAM w))
  | 0x1A => some (.csrr (unAI w))
  | 0x1B => some (.csrw (unAI w))
  | 0x3F => some (.immx (fld w 0 24))
  | _ => none

/-- R67: compare-and-branch by cond. -/
def brByCond (n : Nat) (f : FormCB) : Option Instr :=
  match n with
  | 0x00 => some (.brEq f)
  | 0x01 => some (.brNe f)
  | 0x02 => some (.brLt f)
  | 0x03 => some (.brGe f)
  | 0x04 => some (.brLtu f)
  | 0x05 => some (.brGeu f)
  | _ => none

/-- R67, R72: the C slot by major opcode. -/
def opC (n : Nat) (w : Slot) : Option Instr :=
  match n with
  | 0x00 => some .nop
  | 0x01 => brByCond (fld w 21 3).toNat (unCB w)
  | 0x02 => some (if fld w 23 1 = 0 then .bz (fld w 17 6) (fld w 0 17) else .bnz (fld w 17 6) (fld w 0 17))
  | 0x03 => some (.jmp (fld w 0 24))
  | 0x04 => some (.call (fld w 0 24))
  | 0x05 => some (.jmpr (fld w 17 6))
  | 0x06 => some (.callr (fld w 17 6))
  | 0x07 => some .ret
  | 0x08 => some (.loop (unCL w))
  | 0x09 => some (.loopi (unCL w))
  | 0x0A => some (.lbrk (fld w 22 2))
  | 0x0B => some .halt
  | 0x0C => some (.trap (fld w 0 24))
  | 0x0D => some (.align (fld w 0 24))
  | 0x0E => some (.alignr (fldD w))
  | 0x0F => some .realign
  | 0x10 => some (.bwait (fld w 14 10))
  | 0x11 => some (.barm (fld w 14 10) (fld w 8 6) (flag w 7))
  | 0x12 => some .bbadv
  | 0x13 => some (.mark (fld w 21 3))
  | 0x14 => some (if fld w 23 1 = 0 then .leave else .leaveEnd)
  | 0x30 => some .resume
  | 0x31 => some .fwtake
  | 0x32 => some (.fwyield (flag w 23) (fld w 0 8))
  | 0x33 => some (.tlbinv (fld w 22 2) (fld w 16 6) (flag w 15))
  | 0x34 => some (.csrwp (fldD w) (fld w 6 12))
  | 0x35 => some (.csrrp (fldD w) (fld w 6 12))
  | 0x36 => some (.flread (fldD w) (fldS w))
  | 0x37 => some (.flwrite (fldD w) (fldS w))
  | 0x38 => some (.vinval (fldD w) (flag w 17))
  | 0x39 => some (.bmap (fldD w) (fldS w))
  | _ => none

/-- R68: the L slot by major opcode. -/
def opL (n : Nat) (w : Slot) : Option Instr :=
  match n with
  | 0x00 => some .nop
  | 0x01 => some (.ldB (unLD w))
  | 0x02 => some (.ldBu (unLD w))
  | 0x03 => some (.ldH (unLD w))
  | 0x04 => some (.ldHu (unLD w))
  | 0x05 => some (.ldW (unLD w))
  | 0x06 => some (.ldWu (unLD w))
  | 0x07 => some (.ldD (unLD w))
  | 0x08 => some (.ldx (unLV w))
  | 0x09 => some (.vld (unLV w))
  | 0x0A => some (.vldEf (unLV w))
  | 0x0B => some (.vlds (unLV w))
  | 0x0C => some (.vldx (unLV w))
  | 0x0D => some (.vldb (unLV w))
  | 0x0E => some (.pref (unLD w))
  | _ => none

/-- R69: `amo` by op. -/
def amoByFn (n : Nat) (f : FormAMO) : Option Instr :=
  match n with
  | 0x00 => some (.amoAdd f)
  | 0x01 => some (.amoFadd f)
  | 0x02 => some (.amoMin f)
  | 0x03 => some (.amoMax f)
  | 0x04 => some (.amoMinu f)
  | 0x05 => some (.amoMaxu f)
  | 0x06 => some (.amoAnd f)
  | 0x07 => some (.amoOr f)
  | 0x08 => some (.amoXor f)
  | 0x09 => some (.amoSwap f)
  | 0x0A => some (.amoCas f)
  | 0x0B => some (.amoFmin f)
  | 0x0C => some (.amoFmax f)
  | _ => none

/-- R69: `red` by op; 9 and 10 are illegal. -/
def redByFn (n : Nat) (f : FormAMO) : Option Instr :=
  match n with
  | 0x00 => some (.redAdd f)
  | 0x01 => some (.redFadd f)
  | 0x02 => some (.redMin f)
  | 0x03 => some (.redMax f)
  | 0x04 => some (.redMinu f)
  | 0x05 => some (.redMaxu f)
  | 0x06 => some (.redAnd f)
  | 0x07 => some (.redOr f)
  | 0x08 => some (.redXor f)
  | 0x0B => some (.redFmin f)
  | 0x0C => some (.redFmax f)
  | _ => none

/-- R69: the S slot by major opcode. -/
def opS (n : Nat) (w : Slot) : Option Instr :=
  match n with
  | 0x00 => some .nop
  | 0x01 => some (.stB (unLD w))
  | 0x02 => some (.stH (unLD w))
  | 0x03 => some (.stW (unLD w))
  | 0x04 => some (.stD (unLD w))
  | 0x05 => some (.stx (unLV w))
  | 0x06 => some (.vst (unLV w))
  | 0x07 => some (.vstEf (unLV w))
  | 0x08 => some (.vsts (unLV w))
  | 0x09 => some (.vstx (unLV w))
  | 0x0A => some (.vstmc (unLV w))
  | 0x10 => amoByFn (fld w 0 4).toNat (unAMO w)
  | 0x11 => redByFn (fld w 0 4).toNat (unAMO w)
  | 0x12 => some (.pin (fldD w) (fldS w) (fld w 8 4) (fld w 5 3))
  | 0x13 => some (.unpin (fld w 5 3))
  | 0x14 => some (.tsend (fldD w) (fld w 15 3) (fld w 13 2))
  | 0x15 => some (.wbk (unLD w))
  | _ => none

/-- R156: `kop` by ty. -/
def kopByTy (n : Nat) (w : Slot) : Option Instr :=
  match n with
  | 0x00 => some (.kopAnd (fld w 18 3) (fld w 12 3) (fld w 6 3) (fld w 3 3))
  | 0x01 => some (.kopOr (fld w 18 3) (fld w 12 3) (fld w 6 3) (fld w 3 3))
  | 0x02 => some (.kopXor (fld w 18 3) (fld w 12 3) (fld w 6 3) (fld w 3 3))
  | 0x03 => some (.kopAndn (fld w 18 3) (fld w 12 3) (fld w 6 3) (fld w 3 3))
  | _ => none

/-- R157: `kpop` by ty; 3 is illegal. -/
def kpopByTy (n : Nat) (w : Slot) : Option Instr :=
  match n with
  | 0x00 => some (.kpop (fldD w) (fld w 12 3) (fld w 3 3))
  | 0x01 => some (.kpopMv (fldD w) (fld w 12 3) (fld w 3 3))
  | 0x02 => some (.kpopFf (fldD w) (fld w 12 3) (fld w 3 3))
  | _ => none

/-- R70: the V slot by major opcode. -/
def opV (n : Nat) (w : Slot) : Option Instr :=
  match n with
  | 0x00 => some .nop
  | 0x01 => some (.vfadd (unVR w))
  | 0x02 => some (.vfsub (unVR w))
  | 0x03 => some (.vfmul (unVR w))
  | 0x04 => some (.vfma (unVR w))
  | 0x05 => some (.vfms (unVR w))
  | 0x06 => some (.vfmin (unVR w))
  | 0x07 => some (.vfmax (unVR w))
  | 0x08 => some (.vfabs (unVR w))
  | 0x09 => some (.vfneg (unVR w))
  | 0x0A => some (.vfceq (unVR w))
  | 0x0B => some (.vfclt (unVR w))
  | 0x0C => some (.vfcle (unVR w))
  | 0x0D => some (.vfcun (unVR w))
  | 0x0E => some (.vfrcp (unVR w))
  | 0x0F => some (.vfrsq (unVR w))
  | 0x10 => some (.vfexp2 (unVR w))
  | 0x11 => some (.vflog2 (unVR w))
  | 0x12 => some (.vadd (unVR w))
  | 0x13 => some (.vsub (unVR w))
  | 0x14 => some (.vmul (unVR w))
  | 0x15 => some (.vmulh (unVR w))
  | 0x16 => some (.vmin (unVR w))
  | 0x17 => some (.vmax (unVR w))
  | 0x18 => some (.vminu (unVR w))
  | 0x19 => some (.vmaxu (unVR w))
  | 0x1A => some (.vand (unVR w))
  | 0x1B => some (.vor (unVR w))
  | 0x1C => some (.vxor (unVR w))
  | 0x1D => some (.vshl (unVR w))
  | 0x1E => some (.vshr (unVR w))
  | 0x1F => some (.vsar (unVR w))
  | 0x20 => some (.vceq (unVR w))
  | 0x21 => some (.vclt (unVR w))
  | 0x22 => some (.vcltu (unVR w))
  | 0x23 => some (.vsel (unVR w))
  | 0x24 => some (.vaddsat (unVR w))
  | 0x25 => some (.vsubsat (unVR w))
  | 0x26 => some (.vperm (unVR w))
  | 0x27 => some (if flag w 7 then .vslideR (fldD w) (fldS w) (fld w 0 7) else .vslide (fldD w) (fldS w) (fld w 0 7))
  | 0x28 => some (.viota (unVR w))
  | 0x29 => some (.vbcast (unVR w))
  | 0x2A => some (.vmovs (fldD w) (fldS w) (fld w 0 8) (flag w 8) (fld w 10 2))
  | 0x2B => some (.vinsl (fldD w) (fldS w) (fld w 0 8) (fld w 10 2))
  | 0x2C => some (.vredsum (unVR w))
  | 0x2D => some (.vredmax (unVR w))
  | 0x2E => some (.vredmin (unVR w))
  | 0x2F => kopByTy (fld w 1 2).toNat w
  | 0x30 => kpopByTy (fld w 1 2).toNat w
  | 0x31 => some (.kfrom (fld w 18 3) (fldS w))
  | 0x32 => some (.kset (fld w 18 3) (fldS w))
  | 0x33 => some (.vcvt (unVC w))
  | 0x34 => some (.vcvts (unVC w))
  | 0x35 => some (.vmaxabs (fld w 20 4) (fld w 18 2) (fldS w) (fld w 3 3) (fld w 1 2) (flag w 0))
  | 0x36 => some (if flag w 0 then .vdecbTab (fld w 18 3) (fldS w) (fld w 3 2)
      else .vdecb (fldD w) (fldS w) (fld w 3 2) (fld w 1 2))
  | 0x37 => some (.vsplit (fldD w) (fldS w) (fldT w) (fld w 3 3) (fld w 1 2) (flag w 0))
  | 0x38 => some (.vsexp (unVR w))
  | 0x39 => some (.vscalb (unVR w))
  | 0x3A => some (if flag w 5 then .vflagsSet (fldD w) (fldS w) else .vflags (fldD w) (fld w 0 5))
  | _ => none

/-- R221: `sbind` by op; 3 is illegal. -/
def sbindByOp (n : Nat) (w : Slot) : Option Instr :=
  match n with
  | 0x00 => some (.sbindIn (unSB w))
  | 0x01 => some (.sbindOut (unSB w))
  | 0x02 => some (.sbindOff (fld w 22 2))
  | _ => none

/-- R256: `coll` by op; 6 and 7 are illegal. -/
def collByOp (n : Nat) (f : FormCO) : Option Instr :=
  match n with
  | 0x00 => some (.collAllreduceSum f)
  | 0x01 => some (.collAllreduceMax f)
  | 0x02 => some (.collAllgather f)
  | 0x03 => some (.collRscatterSum f)
  | 0x04 => some (.collRscatterMax f)
  | 0x05 => some (.collBcast f)
  | _ => none

/-- R71: the P slot by major opcode. -/
def opP (n : Nat) (w : Slot) : Option Instr :=
  match n with
  | 0x00 => some .nop
  | 0x01 => some (.pset (fld w 21 3) (fld w 18 3) (flag w 17) (flag w 16))
  | 0x02 => some (.ppush (fldD w) (fld w 15 3) (fld w 9 6))
  | 0x03 => some (if flag w 17 then .pfillN (fldD w) (fld w 15 1) else .pfill (fldD w) (fld w 15 2))
  | 0x04 => some (.pacc (fld w 16 8) (fld w 13 3) (fld w 9 4))
  | 0x05 => some (.pshift (fld w 21 3) (fld w 18 3) (fldS w))
  | 0x06 => some (.pdrain (fldD w) (fld w 15 3) (fld w 12 3) (fld w 10 2) (fld w 8 2) (fld w 5 3) (flag w 4))
  | 0x07 => some (if flag w 0 then .pclrSt (fldD w) (fld w 10 8) else .pclr (fld w 16 8) (flag w 15) (flag w 14))
  | 0x08 => some (if flag w 15 then .pexpCols (fldD w) (fld w 16 2) (fld w 7 8) (fld w 5 2) (flag w 4)
      else .pexpRows (fldD w) (fld w 16 2) (flag w 4))
  | 0x10 => some (if flag w 0 then .cgoOut (unCG w) else .cgoIn (unCG w))
  | 0x11 => some (.cseq (fld w 21 3) (fld w 15 6) (fld w 9 6))
  | 0x12 => some (if flag w 0 then .cstartOut (unCG w) else .cstart (unCG w))
  | 0x13 => sbindByOp (fld w 20 2).toNat w
  | 0x14 => some (.bank (fld w 8 16) (fld w 6 2))
  | 0x15 => collByOp (fld w 21 3).toNat (unCO w)
  | _ => none

/-- The operation that the opcode of a slot word names, by class. -/
def opOf (cl : SlotClass) (w : Slot) : Option Instr :=
  let n := (fld w 24 6).toNat
  match cl with
  | .a => opA n w
  | .c => opC n w
  | .l => opL n w
  | .s => opS n w
  | .v => opV n w
  | .p => opP n w

/-- The class and the word of an operation, from the encoding tables of R62 to R72; an event has none. The no-op is
the all-zero word of every class (R61) and is given in class A here. -/
def encode : Instr → Option (SlotClass × Slot)
  | .nop => some (.a, 0)
  | .add f => some (.a, packAR 0x01 0x00 f)
  | .sub f => some (.a, packAR 0x01 0x01 f)
  | .and f => some (.a, packAR 0x01 0x02 f)
  | .or f => some (.a, packAR 0x01 0x03 f)
  | .xor f => some (.a, packAR 0x01 0x04 f)
  | .andn f => some (.a, packAR 0x01 0x05 f)
  | .shl f => some (.a, packAR 0x01 0x06 f)
  | .shr f => some (.a, packAR 0x01 0x07 f)
  | .sar f => some (.a, packAR 0x01 0x08 f)
  | .min f => some (.a, packAR 0x01 0x09 f)
  | .max f => some (.a, packAR 0x01 0x0A f)
  | .minu f => some (.a, packAR 0x01 0x0B f)
  | .maxu f => some (.a, packAR 0x01 0x0C f)
  | .slt f => some (.a, packAR 0x01 0x0D f)
  | .sltu f => some (.a, packAR 0x01 0x0E f)
  | .seq f => some (.a, packAR 0x01 0x0F f)
  | .sne f => some (.a, packAR 0x01 0x10 f)
  | .mul f => some (.a, packAR 0x01 0x11 f)
  | .mulh f => some (.a, packAR 0x01 0x12 f)
  | .mulhu f => some (.a, packAR 0x01 0x13 f)
  | .div f => some (.a, packAR 0x01 0x14 f)
  | .divu f => some (.a, packAR 0x01 0x15 f)
  | .rem f => some (.a, packAR 0x01 0x16 f)
  | .remu f => some (.a, packAR 0x01 0x17 f)
  | .clz f => some (.a, packAR 0x01 0x18 f)
  | .ctz f => some (.a, packAR 0x01 0x19 f)
  | .popc f => some (.a, packAR 0x01 0x1A f)
  | .addi f => some (.a, packAI 0x02 f)
  | .andi f => some (.a, packAI 0x03 f)
  | .ori f => some (.a, packAI 0x04 f)
  | .xori f => some (.a, packAI 0x05 f)
  | .slti f => some (.a, packAI 0x06 f)
  | .sltui f => some (.a, packAI 0x07 f)
  | .shli f => some (.a, packAI 0x08 f)
  | .shri f => some (.a, packAI 0x09 f)
  | .sari f => some (.a, packAI 0x0A f)
  | .csrr f => some (.a, packAI 0x1A f)
  | .csrw f => some (.a, packAI 0x1B f)
  | .movi f => some (.a, packAX 0x10 f)
  | .movk f => some (.a, packAK 0x13 f)
  | .madd f => some (.a, packAM 0x14 f)
  | .lea f => some (.a, packAM 0x15 f)
  | .sel f => some (.a, packAM 0x16 f)
  | .bfx f => some (.a, packAM 0x17 f)
  | .bfxz f => some (.a, packAM 0x18 f)
  | .bfi f => some (.a, packAM 0x19 f)
  | .immx payload => some (.a, packCJ 0x3F payload)
  | .brEq f => some (.c, packCB 0 f)
  | .brNe f => some (.c, packCB 1 f)
  | .brLt f => some (.c, packCB 2 f)
  | .brGe f => some (.c, packCB 3 f)
  | .brLtu f => some (.c, packCB 4 f)
  | .brGeu f => some (.c, packCB 5 f)
  | .bz s disp => some (.c, packCZ 0x02 0 s disp)
  | .bnz s disp => some (.c, packCZ 0x02 1 s disp)
  | .jmp disp => some (.c, packCJ 0x03 disp)
  | .call disp => some (.c, packCJ 0x04 disp)
  | .jmpr s => some (.c, packCZ 0x05 0 s 0)
  | .callr s => some (.c, packCZ 0x06 0 s 0)
  | .ret => some (.c, packCJ 0x07 0)
  | .loop f => some (.c, packCL 0x08 f)
  | .loopi f => some (.c, packCL 0x09 f)
  | .lbrk lvl => some (.c, (0x0A : BitVec 6) ++ lvl ++ (0 : BitVec 22))
  | .halt => some (.c, packCJ 0x0B 0)
  | .trap code => some (.c, packCJ 0x0C code)
  | .align imm => some (.c, packCJ 0x0D imm)
  | .alignr s => some (.c, packR 0x0E s)
  | .realign => some (.c, packCJ 0x0F 0)
  | .bwait bar => some (.c, (0x10 : BitVec 6) ++ bar ++ (0 : BitVec 14))
  | .barm bar c arrivals => some (.c, (0x11 : BitVec 6) ++ bar ++ c ++ bit arrivals ++ (0 : BitVec 7))
  | .bbadv => some (.c, packCJ 0x12 0)
  | .mark scope => some (.c, (0x13 : BitVec 6) ++ scope ++ (0 : BitVec 21))
  | .leave => some (.c, packCJ 0x14 0)
  | .leaveEnd => some (.c, (0x14 : BitVec 6) ++ (1 : BitVec 1) ++ (0 : BitVec 23))
  | .resume => some (.c, packCJ 0x30 0)
  | .fwtake => some (.c, packCJ 0x31 0)
  | .fwyield fin code => some (.c, (0x32 : BitVec 6) ++ bit fin ++ (0 : BitVec 15) ++ code)
  | .tlbinv scope fs all => some (.c, (0x33 : BitVec 6) ++ scope ++ fs ++ bit all ++ (0 : BitVec 15))
  | .csrwp fs num => some (.c, (0x34 : BitVec 6) ++ fs ++ num ++ (0 : BitVec 6))
  | .csrrp fd num => some (.c, (0x35 : BitVec 6) ++ fd ++ num ++ (0 : BitVec 6))
  | .flread fd fi => some (.c, packRR 0x36 fd fi)
  | .flwrite fs fi => some (.c, packRR 0x37 fs fi)
  | .vinval fs all => some (.c, (0x38 : BitVec 6) ++ fs ++ bit all ++ (0 : BitVec 17))
  | .bmap fh fe => some (.c, packRR 0x39 fh fe)
  | .ldB f => some (.l, packLD 0x01 f)
  | .ldBu f => some (.l, packLD 0x02 f)
  | .ldH f => some (.l, packLD 0x03 f)
  | .ldHu f => some (.l, packLD 0x04 f)
  | .ldW f => some (.l, packLD 0x05 f)
  | .ldWu f => some (.l, packLD 0x06 f)
  | .ldD f => some (.l, packLD 0x07 f)
  | .ldx f => some (.l, packLV 0x08 f)
  | .vld f => some (.l, packLV 0x09 f)
  | .vldEf f => some (.l, packLV 0x0A f)
  | .vlds f => some (.l, packLV 0x0B f)
  | .vldx f => some (.l, packLV 0x0C f)
  | .vldb f => some (.l, packLV 0x0D f)
  | .pref f => some (.l, packLD 0x0E f)
  | .stB f => some (.s, packLD 0x01 f)
  | .stH f => some (.s, packLD 0x02 f)
  | .stW f => some (.s, packLD 0x03 f)
  | .stD f => some (.s, packLD 0x04 f)
  | .stx f => some (.s, packLV 0x05 f)
  | .vst f => some (.s, packLV 0x06 f)
  | .vstEf f => some (.s, packLV 0x07 f)
  | .vsts f => some (.s, packLV 0x08 f)
  | .vstx f => some (.s, packLV 0x09 f)
  | .vstmc f => some (.s, packLV 0x0A f)
  | .amoAdd f => some (.s, packAMO 0x10 0 f)
  | .amoFadd f => some (.s, packAMO 0x10 1 f)
  | .amoMin f => some (.s, packAMO 0x10 2 f)
  | .amoMax f => some (.s, packAMO 0x10 3 f)
  | .amoMinu f => some (.s, packAMO 0x10 4 f)
  | .amoMaxu f => some (.s, packAMO 0x10 5 f)
  | .amoAnd f => some (.s, packAMO 0x10 6 f)
  | .amoOr f => some (.s, packAMO 0x10 7 f)
  | .amoXor f => some (.s, packAMO 0x10 8 f)
  | .amoSwap f => some (.s, packAMO 0x10 9 f)
  | .amoCas f => some (.s, packAMO 0x10 10 f)
  | .amoFmin f => some (.s, packAMO 0x10 11 f)
  | .amoFmax f => some (.s, packAMO 0x10 12 f)
  | .redAdd f => some (.s, packAMO 0x11 0 f)
  | .redFadd f => some (.s, packAMO 0x11 1 f)
  | .redMin f => some (.s, packAMO 0x11 2 f)
  | .redMax f => some (.s, packAMO 0x11 3 f)
  | .redMinu f => some (.s, packAMO 0x11 4 f)
  | .redMaxu f => some (.s, packAMO 0x11 5 f)
  | .redAnd f => some (.s, packAMO 0x11 6 f)
  | .redOr f => some (.s, packAMO 0x11 7 f)
  | .redXor f => some (.s, packAMO 0x11 8 f)
  | .redFmin f => some (.s, packAMO 0x11 11 f)
  | .redFmax f => some (.s, packAMO 0x11 12 f)
  | .pin size base ways slot => some (.s, (0x12 : BitVec 6) ++ size ++ base ++ ways ++ slot ++ (0 : BitVec 5))
  | .unpin slot => some (.s, (0x13 : BitVec 6) ++ (0 : BitVec 16) ++ slot ++ (0 : BitVec 5))
  | .tsend vs die queue => some (.s, (0x14 : BitVec 6) ++ vs ++ die ++ queue ++ (0 : BitVec 13))
  | .wbk f => some (.s, packLD 0x15 f)
  | .vfadd f => some (.v, packVR 0x01 f)
  | .vfsub f => some (.v, packVR 0x02 f)
  | .vfmul f => some (.v, packVR 0x03 f)
  | .vfma f => some (.v, packVR 0x04 f)
  | .vfms f => some (.v, packVR 0x05 f)
  | .vfmin f => some (.v, packVR 0x06 f)
  | .vfmax f => some (.v, packVR 0x07 f)
  | .vfabs f => some (.v, packVR 0x08 f)
  | .vfneg f => some (.v, packVR 0x09 f)
  | .vfceq f => some (.v, packVR 0x0A f)
  | .vfclt f => some (.v, packVR 0x0B f)
  | .vfcle f => some (.v, packVR 0x0C f)
  | .vfcun f => some (.v, packVR 0x0D f)
  | .vfrcp f => some (.v, packVR 0x0E f)
  | .vfrsq f => some (.v, packVR 0x0F f)
  | .vfexp2 f => some (.v, packVR 0x10 f)
  | .vflog2 f => some (.v, packVR 0x11 f)
  | .vadd f => some (.v, packVR 0x12 f)
  | .vsub f => some (.v, packVR 0x13 f)
  | .vmul f => some (.v, packVR 0x14 f)
  | .vmulh f => some (.v, packVR 0x15 f)
  | .vmin f => some (.v, packVR 0x16 f)
  | .vmax f => some (.v, packVR 0x17 f)
  | .vminu f => some (.v, packVR 0x18 f)
  | .vmaxu f => some (.v, packVR 0x19 f)
  | .vand f => some (.v, packVR 0x1A f)
  | .vor f => some (.v, packVR 0x1B f)
  | .vxor f => some (.v, packVR 0x1C f)
  | .vshl f => some (.v, packVR 0x1D f)
  | .vshr f => some (.v, packVR 0x1E f)
  | .vsar f => some (.v, packVR 0x1F f)
  | .vceq f => some (.v, packVR 0x20 f)
  | .vclt f => some (.v, packVR 0x21 f)
  | .vcltu f => some (.v, packVR 0x22 f)
  | .vsel f => some (.v, packVR 0x23 f)
  | .vaddsat f => some (.v, packVR 0x24 f)
  | .vsubsat f => some (.v, packVR 0x25 f)
  | .vperm f => some (.v, packVR 0x26 f)
  | .viota f => some (.v, packVR 0x28 f)
  | .vbcast f => some (.v, packVR 0x29 f)
  | .vredsum f => some (.v, packVR 0x2C f)
  | .vredmax f => some (.v, packVR 0x2D f)
  | .vredmin f => some (.v, packVR 0x2E f)
  | .vsexp f => some (.v, packVR 0x38 f)
  | .vscalb f => some (.v, packVR 0x39 f)
  | .vslide vd vs n => some (.v, (0x27 : BitVec 6) ++ vd ++ vs ++ (0 : BitVec 5) ++ n)
  | .vslideR vd vs n => some (.v, (0x27 : BitVec 6) ++ vd ++ vs ++ (1 : BitVec 5) ++ n)
  | .vmovs vd vs idx zx width => some (.v, (0x2A : BitVec 6) ++ vd ++ vs ++ width ++ (0 : BitVec 1) ++ bit zx ++ idx)
  | .vinsl vd vs idx width => some (.v, (0x2B : BitVec 6) ++ vd ++ vs ++ width ++ (0 : BitVec 2) ++ idx)
  | .kopAnd d a b k => some (.v, packMask 0x2F (m6 d) (m6 a) (m6 b) k 0)
  | .kopOr d a b k => some (.v, packMask 0x2F (m6 d) (m6 a) (m6 b) k 1)
  | .kopXor d a b k => some (.v, packMask 0x2F (m6 d) (m6 a) (m6 b) k 2)
  | .kopAndn d a b k => some (.v, packMask 0x2F (m6 d) (m6 a) (m6 b) k 3)
  | .kpop ad ks k => some (.v, packMask 0x30 ad (m6 ks) 0 k 0)
  | .kpopMv ad ks k => some (.v, packMask 0x30 ad (m6 ks) 0 k 1)
  | .kpopFf ad ks k => some (.v, packMask 0x30 ad (m6 ks) 0 k 2)
  | .kfrom kd s => some (.v, packMask 0x31 (m6 kd) s 0 0 0)
  | .kset kd s => some (.v, packMask 0x32 (m6 kd) s 0 0 0)
  | .vcvt f => some (.v, packVC 0x33 f)
  | .vcvts f => some (.v, packVC 0x34 f)
  | .vmaxabs fmt latch vs k ty nf =>
    some (.v, (0x35 : BitVec 6) ++ fmt ++ latch ++ vs ++ (0 : BitVec 6) ++ k ++ ty ++ bit nf)
  | .vdecb vd vs t q => some (.v, (0x36 : BitVec 6) ++ vd ++ vs ++ (0 : BitVec 7) ++ t ++ q ++ (0 : BitVec 1))
  | .vdecbTab blk vs t =>
    some (.v, (0x36 : BitVec 6) ++ (0 : BitVec 3) ++ blk ++ vs ++ (0 : BitVec 7) ++ t ++ (1 : BitVec 3))
  | .vsplit vd vs ve i ty row => some (.v, (0x37 : BitVec 6) ++ vd ++ vs ++ ve ++ i ++ ty ++ bit row)
  | .vflags vd clr => some (.v, (0x3A : BitVec 6) ++ vd ++ (0 : BitVec 13) ++ clr)
  | .vflagsSet vd vs => some (.v, (0x3A : BitVec 6) ++ vd ++ vs ++ (0x020 : BitVec 12))
  | .pset s w asgn bsgn => some (.p, (0x01 : BitVec 6) ++ s ++ w ++ bit asgn ++ bit bsgn ++ (0 : BitVec 16))
  | .ppush vs m h => some (.p, (0x02 : BitVec 6) ++ vs ++ m ++ h ++ (0 : BitVec 9))
  | .pfill vs h => some (.p, (0x03 : BitVec 6) ++ vs ++ (0 : BitVec 1) ++ h ++ (0 : BitVec 15))
  | .pfillN vs h => some (.p, (0x03 : BitVec 6) ++ vs ++ (1 : BitVec 1) ++ (0 : BitVec 1) ++ h ++ (0 : BitVec 15))
  | .pacc mask delta kq => some (.p, (0x04 : BitVec 6) ++ mask ++ delta ++ kq ++ (0 : BitVec 9))
  | .pshift d s n => some (.p, (0x05 : BitVec 6) ++ d ++ s ++ n ++ (0 : BitVec 12))
  | .pdrain vd a row part fmt d nf =>
    some (.p, (0x06 : BitVec 6) ++ vd ++ a ++ row ++ part ++ fmt ++ d ++ bit nf ++ (0 : BitVec 4))
  | .pclr mask rb ex => some (.p, (0x07 : BitVec 6) ++ mask ++ bit rb ++ bit ex ++ (0 : BitVec 14))
  | .pclrSt ad mask => some (.p, (0x07 : BitVec 6) ++ ad ++ mask ++ (1 : BitVec 10))
  | .pexpRows vs ty int =>
    some (.p, (0x08 : BitVec 6) ++ vs ++ ty ++ (0 : BitVec 11) ++ bit int ++ (0 : BitVec 4))
  | .pexpCols vs ty mask part int =>
    some (.p, (0x08 : BitVec 6) ++ vs ++ ty ++ (1 : BitVec 1) ++ mask ++ part ++ bit int ++ (0 : BitVec 4))
  | .cgoIn f => some (.p, packCG 0x10 0 f)
  | .cgoOut f => some (.p, packCG 0x10 1 f)
  | .cseq lvl c s => some (.p, (0x11 : BitVec 6) ++ lvl ++ c ++ s ++ (0 : BitVec 9))
  | .cstart f => some (.p, packCG 0x12 0 f)
  | .cstartOut f => some (.p, packCG 0x12 1 f)
  | .sbindIn f => some (.p, packSB 0 f)
  | .sbindOut f => some (.p, packSB 1 f)
  | .sbindOff port => some (.p, packSB 2 ⟨port, 0, 0, 0⟩)
  | .bank mask mode => some (.p, (0x14 : BitVec 6) ++ mask ++ mode ++ (0 : BitVec 6))
  | .collAllreduceSum f => some (.p, packCO 0 f)
  | .collAllreduceMax f => some (.p, packCO 1 f)
  | .collAllgather f => some (.p, packCO 2 f)
  | .collRscatterSum f => some (.p, packCO 3 f)
  | .collRscatterMax f => some (.p, packCO 4 f)
  | .collBcast f => some (.p, packCO 5 f)
  | _ => none

/-- The word of an operation: zero for an event. -/
def encodeWord (i : Instr) : Slot :=
  match encode i with
  | some (_, w) => w
  | none => 0

/-- Decode a slot word of a class. -/
def decodeClass (cl : SlotClass) (w : Slot) : Except DecodeError Instr :=
  match opOf cl w with
  | none => .error .unassigned
  | some i => if encodeWord i = w then (if i.wellFormed then .ok i else .error .illegalField) else .error .reservedBits

/-- Decode the word of slot k. -/
def decodeSlot (k : Nat) (w : Slot) : Except DecodeError Instr := decodeClass (slotClass k) w

/-- The word of slot k of a bundle (R57). -/
def slotWord (b : Bundle) (k : Nat) : Slot := b.extractLsb' (30 * k) 30

/-- The header fields of a bundle (R58). -/
structure Header where
  safe : Bool
  seg : Bool
  hint : BitVec 2
  dist : BitVec 12
  deriving DecidableEq, Repr

/-- Read the header. -/
def header (b : Bundle) : Header :=
  ⟨b.getLsbD 255, b.getLsbD 254, b.extractLsb' 252 2, b.extractLsb' 240 12⟩

/-- The pad bundle (R61). -/
def padWord : Bundle := BitVec.allOnes 256

/-- The hint row of a header: none for kind 0. -/
def hintRow (h : Header) : Option Instr :=
  match h.hint.toNat with
  | 0 => none
  | 1 => some (.branchTargetFill h.dist)
  | 2 => some (.callTargetFill h.dist)
  | _ => some (.loopExitFill h.dist)

/-- Decode slots k to k + n - 1, dropping no-ops, in slot order. The error carries the lowest failing slot (R76). -/
def decodeSlots (b : Bundle) : Nat → Nat → Except (Nat × DecodeError) (List (Nat × Instr))
  | _, 0 => .ok []
  | k, n + 1 =>
    let w := slotWord b k
    if w = 0 then decodeSlots b (k + 1) n
    else
      match decodeSlot k w with
      | .error e => .error (k, e)
      | .ok i =>
        match decodeSlots b (k + 1) n with
        | .error e => .error e
        | .ok r => .ok ((k, i) :: r)

/-- Decode a bundle: its operations by slot, or the slot (8 for the header) and the reason (R75, R76). -/
def decodeBundle (b : Bundle) : Except (Nat × DecodeError) (List (Nat × Instr)) :=
  if b = padWord then .error (8, .pad)
  else
    let h := header b
    if h.hint = 0 ∧ h.dist ≠ 0 then .error (8, .illegalHint) else decodeSlots b 0 8

/-- A bundle that holds one operation in slot k and nothing else. -/
def bundleOf (k : Nat) (w : Slot) : Bundle := (w.setWidth 256) <<< (30 * k)

/-- A bundle from its 32 bytes, byte j at bits [8j+7:8j] (R57). -/
def bundleOfBytes (bs : List Byte) : Bundle :=
  (bs.take 32).foldr (fun x acc => (acc <<< 8) ||| x.setWidth 256) 0

/-- The bytes of a bundle, lowest address first. -/
def bundleBytes (b : Bundle) : List Byte := (List.range 32).map (fun j => b.extractLsb' (8 * j) 8)

/-- The row that a bundle's word stands for: the row of its lowest operation; for a bundle of no operation the row of its
header, and the no-op for the all-zero bundle. -/
def rowOfBundle (b : Bundle) : Option Instr :=
  if b = padWord then some .padBundle
  else
    match decodeBundle b with
    | .error _ => none
    | .ok ((_, i) :: _) => some i
    | .ok [] =>
      let h := header b
      match hintRow h with
      | some i => some i
      | none => if h.safe then some .safeBundle else if h.seg then some .segMark else some .nop

/-- The instruction of a word numbered as the opcode table numbers bits: the word is the low nbits of a bundle, stored
as its 32 bytes and read back by the bundle decoder. -/
def decodeTableWord (nbits w : Nat) : Option Instr :=
  rowOfBundle (bundleOfBytes (bundleBytes (BitVec.ofNat 256 (w % 2 ^ nbits))))

end Sys2Proof
end

