-- ==== Sys2Proof/Machine/Bits.lean ====
section
/-! DEFINITION. Bit fields, byte order and elements of vector registers (R3, R107, R121). -/

namespace Sys2Proof.Machine

/-- Bits [hi:lo] of a word. -/
def bits {w : Nat} (x : BitVec w) (hi lo : Nat) : Nat := (x.toNat >>> lo) % 2 ^ (hi + 1 - lo)

/-- Sign extension of the low w bits of a Nat to an Int. -/
def sextNat (w x : Nat) : Int :=
  let y := x % 2 ^ w
  if w = 0 then 0 else if 2 ^ (w - 1) ≤ y then (y : Int) - (2 ^ w : Nat) else y

/-- An Int in w bits. -/
def wrap (w : Nat) (x : Int) : Nat := (x % (2 ^ w : Nat)).toNat

/-- A word from an Int, modulo 2^64. -/
def wordOfInt (x : Int) : Word := BitVec.ofInt 64 x

/-- A Nat as a word. -/
def wordOf (x : Nat) : Word := BitVec.ofNat 64 x

/-- A Bool as the word 1 or 0. -/
def wordBit (b : Bool) : Word := if b then 1 else 0

/-- A field of width len placed at bit lo of a word. -/
def place (x lo : Nat) : Nat := x <<< lo

/-- The little-endian value of bytes (R3). -/
def leValue : List Byte → Nat
  | [] => 0
  | b :: r => b.toNat + 256 * leValue r

/-- The n low bytes of a value, lowest first (R3). -/
def leBytes (x : Nat) : Nat → List Byte
  | 0 => []
  | n + 1 => BitVec.ofNat 8 x :: leBytes (x / 256) n

/-- Element j of width w of a register (R107, R121). -/
def elem (v : Vec) (w j : Nat) : BitVec w := v.extractLsb' (w * j) w

/-- A register from the elements of width w numbered below n; other bits are 0. -/
def vecOf (w : Nat) (f : Nat → BitVec w) : Nat → Vec
  | 0 => 0
  | n + 1 => vecOf w f n ||| ((f n).setWidth 2048 <<< (w * n))

/-- The bits of the elements of width w below n that a predicate picks. -/
def elemMask (w : Nat) (p : Nat → Bool) (n : Nat) : Vec :=
  vecOf w (fun j => if p j then BitVec.allOnes w else 0) n

/-- The lane that steers element j of width w: the lane that holds its lowest bit (R107, R121). -/
def laneOf (w j : Nat) : Nat := w * j / 32

/-- Flags of elements gathered by lane: element j of width w puts its flags into its lane (R109, R126). -/
def laneFlags (w : Nat) (f : Nat → BitVec 5) : Nat → FlagVec
  | 0 => 0
  | n + 1 => laneFlags w f n ||| ((f n).setWidth 320 <<< (5 * laneOf w n))

/-- The flags of lane i. -/
def flagsOfLane (v : FlagVec) (i : Nat) : BitVec 5 := v.extractLsb' (5 * i) 5

/-- Select the bits of one value under a mask and keep the rest of another. -/
def mergeVec (old new mask : Vec) : Vec := (old &&& ~~~mask) ||| (new &&& mask)

/-- A register from bytes, byte 0 lowest. -/
def vecOfBytes (bs : List Byte) : Vec := BitVec.ofNat 2048 (leValue bs)

/-- The low n bytes of a register. -/
def vecBytes (v : Vec) (n : Nat) : List Byte := leBytes v.toNat n

/-- Population count of a Nat below 2^w. -/
def popNat (w x : Nat) : Nat := (List.range w).countP (fun i => x.testBit i)

/-- The lowest one bit of x below w, or w. -/
def lowestBit (w x : Nat) : Nat := ((List.range w).find? (fun i => x.testBit i)).getD w

end Sys2Proof.Machine
end

