-- ==== Sys2Proof/Machine/Float.lean ====
section
/-! DEFINITION. The floating-point formats and the one rounding every operation makes (R119 to R126). A value is held
exactly, as a sign, a natural number and a power of two; an operation computes its exact result and rounds it once. -/

namespace Sys2Proof.Machine

/-- What a format does with its top encodings (R120). -/
inductive SpecialKind where
  /-- Infinities and NaNs as IEEE 754. -/
  | ieee
  /-- One NaN, all exponent and mantissa bits one; no infinity (`e4m3`). -/
  | nanOnly
  /-- Neither NaN nor infinity (`e2m3`, `e2m1`). -/
  | finite
  deriving DecidableEq, Repr

/-- A floating-point format. -/
structure FloatFormat where
  ebits : Nat
  mbits : Nat
  bias : Nat
  kind : SpecialKind
  deriving DecidableEq, Repr

/-- The width of a format. -/
def FloatFormat.width (f : FloatFormat) : Nat := 1 + f.ebits + f.mbits

/-- The fields of R120. -/
def f64Format : FloatFormat := ⟨11, 52, 1023, .ieee⟩
def f32Format : FloatFormat := ⟨8, 23, 127, .ieee⟩
def f16Format : FloatFormat := ⟨5, 10, 15, .ieee⟩
def bf16Format : FloatFormat := ⟨8, 7, 127, .ieee⟩
def e4m3Format : FloatFormat := ⟨4, 3, 7, .nanOnly⟩
def e5m2Format : FloatFormat := ⟨5, 2, 15, .ieee⟩
def e2m3Format : FloatFormat := ⟨2, 3, 1, .finite⟩
def e2m1Format : FloatFormat := ⟨2, 1, 1, .finite⟩

/-- An element format (R119), resolved: `vq2` and `fmt.L` are not among them. -/
inductive ElemFormat where
  | float (f : FloatFormat)
  | int (signed : Bool) (w : Nat)
  deriving DecidableEq, Repr

/-- The width of an element format. -/
def ElemFormat.width : ElemFormat → Nat
  | .float f => f.width
  | .int _ w => w

/-- The format of a code, 0 to 13 (R119). -/
def formatOfCode (c : Nat) : Option ElemFormat :=
  match c with
  | 0 => some (.float f64Format)
  | 1 => some (.float f32Format)
  | 2 => some (.float f16Format)
  | 3 => some (.float bf16Format)
  | 4 => some (.float e4m3Format)
  | 5 => some (.float e5m2Format)
  | 6 => some (.float e2m3Format)
  | 7 => some (.float e2m1Format)
  | 8 => some (.int true 8)
  | 9 => some (.int false 8)
  | 10 => some (.int true 4)
  | 11 => some (.int false 4)
  | 12 => some (.int true 32)
  | 13 => some (.int true 64)
  | _ => none

/-- The floating-point format of a VR ty field (R63). -/
def vrFormat (ty : BitVec 2) : FloatFormat :=
  match ty.toNat with
  | 0 => f32Format
  | 1 => f16Format
  | 2 => bf16Format
  | _ => f64Format

/-- The rounding modes (R124). -/
inductive Rounding where
  | rne | rtz | rup | rdn
  deriving DecidableEq, Repr

/-- The mode of a two-bit field. -/
def roundingOf (n : Nat) : Rounding :=
  match n % 4 with
  | 0 => .rne
  | 1 => .rtz
  | 2 => .rup
  | _ => .rdn

/-- The flags, NV [4], DZ [3], OF [2], UF [1], NX [0] (R126). -/
def flagNV : BitVec 5 := 16
def flagDZ : BitVec 5 := 8
def flagOF : BitVec 5 := 4
def flagUF : BitVec 5 := 2
def flagNX : BitVec 5 := 1

/-- The value of an encoding: a finite value is (-1)^neg * mant * 2^exp. -/
inductive FloatVal where
  | nan (signalling : Bool)
  | inf (neg : Bool)
  | fin (neg : Bool) (mant : Nat) (exp : Int)
  deriving DecidableEq, Repr

/-- The exponent of the least normal value. -/
def FloatFormat.emin (f : FloatFormat) : Int := 1 - (f.bias : Int)

/-- The exponent of the unit in the last place of a subnormal. -/
def FloatFormat.qmin (f : FloatFormat) : Int := f.emin - f.mbits

/-- The encoding of the largest finite value, without sign (R120). -/
def FloatFormat.maxEnc (f : FloatFormat) : Nat :=
  match f.kind with
  | .ieee => (2 ^ f.ebits - 1) * 2 ^ f.mbits - 1
  | .nanOnly => 2 ^ (f.ebits + f.mbits) - 2
  | .finite => 2 ^ (f.ebits + f.mbits) - 1

/-- The canonical NaN (R120); +0 for a format that has none. -/
def FloatFormat.nanEnc (f : FloatFormat) : Nat :=
  match f.kind with
  | .ieee => (2 ^ f.ebits - 1) * 2 ^ f.mbits + 2 ^ (f.mbits - 1)
  | .nanOnly => 2 ^ (f.ebits + f.mbits) - 1
  | .finite => 0

/-- The encoding of an infinity without sign. -/
def FloatFormat.infEnc (f : FloatFormat) : Nat := (2 ^ f.ebits - 1) * 2 ^ f.mbits

/-- A sign bit put on an encoding. -/
def FloatFormat.signed (f : FloatFormat) (neg : Bool) (enc : Nat) : Nat :=
  if neg then 2 ^ (f.ebits + f.mbits) + enc else enc

/-- A format whose NaNs can be signalling: `f64`, `f32`, `f16`, `bf16` (R123). -/
def FloatFormat.hasSignalling (f : FloatFormat) : Bool := decide (7 ≤ f.mbits)

/-- The value of an encoding (R120, R123). -/
def unpack (f : FloatFormat) (x : Nat) : FloatVal :=
  let m := x % 2 ^ f.mbits
  let e := (x >>> f.mbits) % 2 ^ f.ebits
  let neg := x.testBit (f.ebits + f.mbits)
  let top := 2 ^ f.ebits - 1
  match f.kind with
  | .ieee =>
    if e = top then
      (if m = 0 then .inf neg else .nan (f.hasSignalling && !(m.testBit (f.mbits - 1))))
    else if e = 0 then .fin neg m f.qmin
    else .fin neg (2 ^ f.mbits + m) (f.qmin + ((e : Int) - 1))
  | .nanOnly =>
    if e = top ∧ m = 2 ^ f.mbits - 1 then .nan false
    else if e = 0 then .fin neg m f.qmin
    else .fin neg (2 ^ f.mbits + m) (f.qmin + ((e : Int) - 1))
  | .finite =>
    if e = 0 then .fin neg m f.qmin else .fin neg (2 ^ f.mbits + m) (f.qmin + ((e : Int) - 1))

/-- A positive exact value: (mant + d) * 2^exp with d = 0, or 0 < d < 1 when `more`. A value with `more` has at least two
bits below the place it is rounded at. -/
structure Exact where
  neg : Bool
  mant : Nat
  exp : Int
  more : Bool
  deriving DecidableEq, Repr

/-- Round a magnitude to a multiple of 2^q: the multiple, and whether it differs from the exact value (R124). -/
def roundAt (mode : Rounding) (x : Exact) (q : Int) : Nat × Bool :=
  if q ≤ x.exp then (x.mant <<< (x.exp - q).toNat, x.more)
  else
    let sh := (q - x.exp).toNat
    let k := x.mant >>> sh
    let r := x.mant % 2 ^ sh
    let half := 2 ^ (sh - 1)
    let inexact := r != 0 || x.more
    let up :=
      match mode with
      | .rne => decide (half < r) || (r == half && (x.more || k % 2 == 1))
      | .rtz => false
      | .rup => !x.neg && inexact
      | .rdn => x.neg && inexact
    (if up then k + 1 else k, inexact)

/-- The exponent of the leading bit of a positive value. -/
def Exact.top (x : Exact) : Int := x.exp + Nat.log2 x.mant

/-- What an overflow delivers without saturation (R125). -/
def overflowEnc (f : FloatFormat) (mode : Rounding) (neg sat : Bool) : Nat :=
  if sat then f.maxEnc
  else
    match f.kind with
    | .ieee =>
      match mode with
      | .rne => f.infEnc
      | .rtz => f.maxEnc
      | .rup => if neg then f.maxEnc else f.infEnc
      | .rdn => if neg then f.infEnc else f.maxEnc
    | .nanOnly => f.nanEnc
    | .finite => f.maxEnc

/-- Round a nonzero exact value into a format: the encoding and the flags OF, UF, NX (R124 to R126). The NaN that an
overflow of `e4m3` delivers is canonical and has no sign. -/
def roundTo (f : FloatFormat) (mode : Rounding) (sat : Bool) (x : Exact) : Nat × BitVec 5 :=
  let e := x.top
  -- with unbounded exponent range
  let qu := e - f.mbits
  let (ku, inexactU) := roundAt mode x qu
  let eu := if ku = 2 ^ (f.mbits + 1) then e + 1 else e
  let encU : Int := (ku : Int) + (qu - f.qmin) * (2 ^ f.mbits : Nat)
  if f.emin ≤ eu ∧ f.maxEnc < encU then
    let enc := overflowEnc f mode x.neg sat
    let enc := if enc = f.nanEnc ∧ f.kind = .nanOnly ∧ !sat then enc else f.signed x.neg enc
    (enc, flagOF ||| flagNX)
  else
    let tiny := decide (eu < f.emin)
    if e < f.emin then
      let (k, inexact) := roundAt mode x f.qmin
      (f.signed x.neg k, (if inexact then flagNX else 0) ||| (if tiny && inexact then flagUF else 0))
    else (f.signed x.neg encU.toNat, if inexactU then flagNX else 0)

/-- Round an exact value that may be zero; a zero keeps the sign given. -/
def roundZ (f : FloatFormat) (mode : Rounding) (sat : Bool) (x : Exact) : Nat × BitVec 5 :=
  if x.mant = 0 ∧ !x.more then (f.signed x.neg 0, 0) else roundTo f mode sat x

/-- The canonical NaN with flags. -/
def nanWith (f : FloatFormat) (fl : BitVec 5) : Nat × BitVec 5 := (f.nanEnc, fl)

/-- NV if a value is a signalling NaN (R123). -/
def FloatVal.sig : FloatVal → BitVec 5
  | .nan true => flagNV
  | _ => 0

/-- Whether a value is a NaN. -/
def FloatVal.isNan : FloatVal → Bool
  | .nan _ => true
  | _ => false

/-- The exact sum of two finite values with signs, as a sign and a magnitude at a common exponent. -/
def exactSum (n1 : Bool) (m1 : Nat) (e1 : Int) (n2 : Bool) (m2 : Nat) (e2 : Int) : Int × Int :=
  let e := min e1 e2
  let a : Int := (m1 <<< (e1 - e).toNat : Nat)
  let b : Int := (m2 <<< (e2 - e).toNat : Nat)
  ((if n1 then -a else a) + (if n2 then -b else b), e)

/-- The sign of an exact zero sum (R123). -/
def zeroSumSign (mode : Rounding) (n1 : Bool) (z1 : Bool) (n2 : Bool) (z2 : Bool) : Bool :=
  if z1 && z2 && n1 == n2 then n1 else mode == .rdn

/-- Round the sum of two finite values. -/
def sumFinite (f : FloatFormat) (mode : Rounding) (sat : Bool)
    (n1 : Bool) (m1 : Nat) (e1 : Int) (n2 : Bool) (m2 : Nat) (e2 : Int) : Nat × BitVec 5 :=
  let (v, e) := exactSum n1 m1 e1 n2 m2 e2
  if v = 0 then (f.signed (zeroSumSign mode n1 (m1 == 0) n2 (m2 == 0)) 0, 0)
  else roundTo f mode sat ⟨decide (v < 0), v.natAbs, e, false⟩

/-- Negate a value. -/
def FloatVal.negate : FloatVal → FloatVal
  | .nan s => .nan s
  | .inf n => .inf (!n)
  | .fin n m e => .fin (!n) m e

/-- x + y (R145). -/
def fAddVal (f : FloatFormat) (mode : Rounding) (x y : FloatVal) : Nat × BitVec 5 :=
  let s := x.sig ||| y.sig
  match x, y with
  | .nan _, _ => nanWith f s
  | _, .nan _ => nanWith f s
  | .inf a, .inf b => if a = b then (f.signed a f.infEnc, 0) else nanWith f flagNV
  | .inf a, .fin _ _ _ => (f.signed a f.infEnc, 0)
  | .fin _ _ _, .inf b => (f.signed b f.infEnc, 0)
  | .fin n1 m1 e1, .fin n2 m2 e2 => sumFinite f mode false n1 m1 e1 n2 m2 e2

/-- The sum of two encodings. -/
def fAdd (f : FloatFormat) (mode : Rounding) (x y : Nat) : Nat × BitVec 5 :=
  fAddVal f mode (unpack f x) (unpack f y)

/-- The difference of two encodings. -/
def fSub (f : FloatFormat) (mode : Rounding) (x y : Nat) : Nat × BitVec 5 :=
  fAddVal f mode (unpack f x) (unpack f y).negate

/-- The product of two encodings. -/
def fMul (f : FloatFormat) (mode : Rounding) (x y : Nat) : Nat × BitVec 5 :=
  let a := unpack f x
  let b := unpack f y
  let s := a.sig ||| b.sig
  match a, b with
  | .nan _, _ => nanWith f s
  | _, .nan _ => nanWith f s
  | .inf n1, .inf n2 => (f.signed (n1 != n2) f.infEnc, 0)
  | .inf n1, .fin n2 m _ => if m = 0 then nanWith f flagNV else (f.signed (n1 != n2) f.infEnc, 0)
  | .fin n1 m _, .inf n2 => if m = 0 then nanWith f flagNV else (f.signed (n1 != n2) f.infEnc, 0)
  | .fin n1 m1 e1, .fin n2 m2 e2 => roundZ f mode false ⟨n1 != n2, m1 * m2, e1 + e2, false⟩

/-- z + x * y, or z - x * y, with one rounding; 0 times an infinity raises NV even beside a NaN z (R145). -/
def fFma (f : FloatFormat) (mode : Rounding) (sub : Bool) (x y z : Nat) : Nat × BitVec 5 :=
  let a := unpack f x
  let b := unpack f y
  let c := unpack f z
  let s := a.sig ||| b.sig ||| c.sig
  let prod : FloatVal :=
    match a, b with
    | .nan _, _ => .nan false
    | _, .nan _ => .nan false
    | .inf n1, .inf n2 => .inf (n1 != n2)
    | .inf n1, .fin n2 m _ => if m = 0 then .nan true else .inf (n1 != n2)
    | .fin n1 m _, .inf n2 => if m = 0 then .nan true else .inf (n1 != n2)
    | .fin n1 m1 e1, .fin n2 m2 e2 => .fin (n1 != n2) (m1 * m2) (e1 + e2)
  let prod := if sub then prod.negate else prod
  let s := s ||| prod.sig
  match c, prod with
  | .nan _, _ => nanWith f s
  | _, .nan _ => nanWith f s
  | .inf n1, .inf n2 => if n1 = n2 then (f.signed n1 f.infEnc, s) else nanWith f (s ||| flagNV)
  | .inf n1, .fin _ _ _ => (f.signed n1 f.infEnc, s)
  | .fin _ _ _, .inf n2 => (f.signed n2 f.infEnc, s)
  | .fin n1 m1 e1, .fin n2 m2 e2 =>
    let r := sumFinite f mode false n1 m1 e1 n2 m2 e2
    (r.1, r.2 ||| s)

/-- Order of two values that are not NaN: x < y, with -0 = +0. -/
def FloatVal.ltVal (x y : FloatVal) : Bool :=
  match x, y with
  | .inf a, .inf b => a && !b
  | .inf a, .fin _ _ _ => a
  | .fin _ _ _, .inf b => !b
  | .fin n1 m1 e1, .fin n2 m2 e2 =>
    let (v, _) := exactSum n1 m1 e1 (!n2) m2 e2
    decide (v < 0)
  | _, _ => false

/-- Equality of two values that are not NaN, with -0 = +0. -/
def FloatVal.eqVal (x y : FloatVal) : Bool :=
  match x, y with
  | .inf a, .inf b => a == b
  | .fin n1 m1 e1, .fin n2 m2 e2 =>
    let (v, _) := exactSum n1 m1 e1 (!n2) m2 e2
    v == 0
  | _, _ => false

/-- The sign of a value. -/
def FloatVal.isNeg : FloatVal → Bool
  | .nan _ => false
  | .inf n => n
  | .fin n _ _ => n

/-- minimumNumber and maximumNumber of two encodings (R146). -/
def fMinMax (f : FloatFormat) (isMax : Bool) (x y : Nat) : Nat × BitVec 5 :=
  let a := unpack f x
  let b := unpack f y
  let s := a.sig ||| b.sig
  if a.isNan && b.isNan then nanWith f s
  else if a.isNan then (y, s)
  else if b.isNan then (x, s)
  else
    -- -0 is less than +0
    let less := a.ltVal b || (a.eqVal b && a.isNeg && !b.isNeg)
    (if less != isMax then x else y, s)

/-- |x| and -x (R146). -/
def fSignOp (f : FloatFormat) (neg : Bool) (x : Nat) : Nat × BitVec 5 :=
  match unpack f x with
  | .nan s => nanWith f (if s then flagNV else 0)
  | _ =>
    let sign := x.testBit (f.ebits + f.mbits)
    let mag := x % 2 ^ (f.ebits + f.mbits)
    (f.signed (neg && !sign) mag, 0)

/-- The compares of R147. -/
inductive FloatCompare where
  | eq | lt | le | un
  deriving DecidableEq, Repr

/-- The predicate and the flags of a compare (R147). -/
def fCompare (f : FloatFormat) (c : FloatCompare) (x y : Nat) : Bool × BitVec 5 :=
  let a := unpack f x
  let b := unpack f y
  let anyNan := a.isNan || b.isNan
  let quiet := a.sig ||| b.sig
  let loud := if anyNan then flagNV else 0
  match c with
  | .eq => (!anyNan && a.eqVal b, quiet)
  | .lt => (!anyNan && a.ltVal b, loud)
  | .le => (!anyNan && (a.ltVal b || a.eqVal b), loud)
  | .un => (anyNan, quiet)

/-! The transcendental instructions (R148): the exact result is 1/x, 1/sqrt x, 2^x or log2 x, found to enough bits that
the one rounding is decided. -/

/-- floor(sqrt n), bit by bit from bit b down. -/
def isqrtFrom (n : Nat) : Nat → Nat → Nat
  | 0, acc => acc
  | b + 1, acc =>
    let t := acc + 2 ^ b
    isqrtFrom n b (if t * t ≤ n then t else acc)

/-- floor(sqrt n). -/
def isqrt (n : Nat) : Nat := isqrtFrom n (Nat.log2 n / 2 + 1) 0

/-- 1/x of a finite nonzero value. -/
def exactRcp (f : FloatFormat) (neg : Bool) (m : Nat) (e : Int) : Exact :=
  let n := Nat.log2 m + f.mbits + 4
  ⟨neg, 2 ^ n / m, -e - n, 2 ^ n % m != 0⟩

/-- 1/sqrt x of a positive finite value. -/
def exactRsq (f : FloatFormat) (m : Nat) (e : Int) : Exact :=
  let (m, e) := if e % 2 = 0 then (m, e) else (2 * m, e - 1)
  let n := Nat.log2 m + f.mbits + 4
  let q := isqrt (2 ^ (2 * n) / m)
  ⟨false, q, -(e / 2) - n, q * q * m != 2 ^ (2 * n)⟩

/-- Division rounded up. -/
def ceilDiv (a b : Nat) : Nat := (a + b - 1) / b

/-- Lower and upper bounds of ln 2 * 2^w, from the sum of 1/(k 2^k) and its tail. -/
def ln2Bounds (w : Nat) : Nat × Nat :=
  let r := (List.range (w + 8)).foldl
    (fun (p : Nat × Nat) i =>
      let d := (i + 1) * 2 ^ (i + 1)
      (p.1 + 2 ^ w / d, p.2 + ceilDiv (2 ^ w) d)) (0, 0)
  (r.1, r.2 + 1)

/-- Lower and upper bounds of e^z * 2^w for z between zl and zh over 2^w, z below 1: the terms z^k/k! up to n and, above,
the last term again for the tail. -/
def expBounds (w n zl zh : Nat) : Nat × Nat :=
  let r := (List.range n).foldl
    (fun (p : Nat × Nat × Nat × Nat) i =>
      let (sl, tl, sh, th) := p
      let tl := tl * zl / 2 ^ w / (i + 1)
      let th := ceilDiv (ceilDiv (th * zh) (2 ^ w)) (i + 1)
      (sl + tl, tl, sh + th, th)) (2 ^ w, 2 ^ w, 2 ^ w, 2 ^ w)
  (r.1, r.2.2.1 + r.2.2.2)

/-- The k leading bits of 2^(a / 2^t), 0 < a < 2^t, at precision w, if the bounds decide them. -/
def exp2Bits (k a t w : Nat) : Option Nat :=
  let (ll, lh) := ln2Bounds w
  let (lo, hi) := expBounds w (w / 4 + 8) (ll * a / 2 ^ t) (ceilDiv (lh * a) (2 ^ t))
  let s := w - k
  if lo >>> s = hi >>> s then some (lo >>> s) else none

/-- The first of growing precisions that decides. -/
def firstSome (g : Nat → Option Nat) : List Nat → Nat
  | [] => 0
  | w :: r =>
    match g w with
    | some x => x
    | none => firstSome g r

/-- The precisions tried, in bits. -/
def precisions : List Nat := [96, 192, 384, 768, 1536]

/-- 2^x of a finite nonzero x, as an exact value with more bits below. Integers are exact. -/
def exactExp2 (f : FloatFormat) (neg : Bool) (m : Nat) (e : Int) : Exact :=
  let k := f.mbits + 4
  let limit : Int := 2 ^ (f.ebits + 1) + 128
  if 0 ≤ e then
    let x : Int := ((m <<< (min e 64).toNat : Nat) : Int)
    let x := min x limit
    ⟨false, 1, if neg then -x else x, false⟩
  else
    let t := (-e).toNat
    let whole := m >>> t
    if m % 2 ^ t = 0 then
      let x : Int := min (whole : Int) limit
      ⟨false, 1, if neg then -x else x, false⟩
    else if limit ≤ (whole : Int) then ⟨false, 1, if neg then -limit else limit, false⟩
    else if e + Nat.log2 m < -(k + 4 : Nat) then
      -- a result just above or just below 1
      if neg then ⟨false, 2 ^ (k + 1) - 1, -(k + 1 : Nat), true⟩ else ⟨false, 2 ^ k, -(k : Int), true⟩
    else
      let fracPos := m % 2 ^ t
      let (a, i) : Nat × Int := if neg then (2 ^ t - fracPos, -(whole : Int) - 1) else (fracPos, whole)
      let b := firstSome (exp2Bits k a t) precisions
      ⟨false, b, i - k, true⟩

/-- Bits of log2 y below the binary point, y between lo and hi over 2^w in [1, 2): the number found and how many are
certain, by squaring. -/
def log2Bits (w : Nat) : Nat → Nat → Nat → Nat → Nat → Nat × Nat
  | 0, _, _, acc, n => (acc, n)
  | fuel + 1, lo, hi, acc, n =>
    let l := lo * lo / 2 ^ w
    let h := ceilDiv (hi * hi) (2 ^ w)
    let two := 2 ^ (w + 1)
    if two ≤ l then log2Bits w fuel (l / 2) (ceilDiv h 2) (2 * acc + 1) (n + 1)
    else if h < two then log2Bits w fuel l h (2 * acc) (n + 1)
    else (acc, n)

/-- log2 x of a positive finite x other than a power of two. The bits found bound the magnitude from both sides; the
first precision at which both sides agree to enough bits decides. -/
def log2Try (f : FloatFormat) (m : Nat) (e : Int) (w : Nat) : Option Exact :=
  let lg := Nat.log2 m
  let i : Int := e + lg
  let (acc, n) := log2Bits (2 * w) w (m <<< (2 * w - lg)) (m <<< (2 * w - lg)) 0 0
  let lo : Int := i * (2 ^ n : Nat) + acc
  let neg := decide (lo < 0)
  -- magnitude in (a, a + 1) over 2^n
  let a := if neg then (-(lo + 1)).toNat else lo.toNat
  if a = 0 ∨ Nat.log2 a < f.mbits + 3 then none else some ⟨neg, a, -(n : Int), true⟩

/-- The first precision that gives enough bits. -/
def firstExact (g : Nat → Option Exact) : List Nat → Exact
  | [] => ⟨false, 0, 0, false⟩
  | w :: r =>
    match g w with
    | some x => x
    | none => firstExact g r

/-- log2 x of a positive finite x. -/
def exactLog2 (f : FloatFormat) (m : Nat) (e : Int) : Exact :=
  let lg := Nat.log2 m
  if m = 2 ^ lg then
    let i : Int := e + lg
    ⟨decide (i < 0), i.natAbs, 0, false⟩
  else firstExact (log2Try f m e) [96, 192, 384, 768, 1536]

/-- The transcendental operations. -/
inductive Transcendental where
  | rcp | rsq | exp2 | log2
  deriving DecidableEq, Repr

/-- `vfrcp`, `vfrsq`, `vfexp2` and `vflog2` of one encoding (R148). -/
def fTrans (f : FloatFormat) (mode : Rounding) (op : Transcendental) (x : Nat) : Nat × BitVec 5 :=
  match op, unpack f x with
  | _, .nan s => nanWith f (if s then flagNV else 0)
  | .rcp, .inf n => (f.signed n 0, 0)
  | .rcp, .fin n 0 _ => (f.signed n f.infEnc, flagDZ)
  | .rcp, .fin n m e => roundTo f mode false (exactRcp f n m e)
  | .rsq, .inf n => if n then nanWith f flagNV else (0, 0)
  | .rsq, .fin n 0 _ => (f.signed n f.infEnc, flagDZ)
  | .rsq, .fin n m e => if n then nanWith f flagNV else roundTo f mode false (exactRsq f m e)
  | .exp2, .inf n => (if n then 0 else f.infEnc, 0)
  | .exp2, .fin _ 0 _ => roundTo f mode false ⟨false, 1, 0, false⟩
  | .exp2, .fin n m e => roundTo f mode false (exactExp2 f n m e)
  | .log2, .inf n => if n then nanWith f flagNV else (f.infEnc, 0)
  | .log2, .fin _ 0 _ => (f.signed true f.infEnc, flagDZ)
  | .log2, .fin n m e => if n then nanWith f flagNV else roundZ f mode false (exactLog2 f m e)

/-- x * 2^n with one rounding (R169). The exponent is cut at 16,384 to each side: past that every value of a format overflows
or lies below half of its smallest subnormal, and rounds alike. -/
def fScalb (f : FloatFormat) (mode : Rounding) (x : Nat) (n : Int) : Nat × BitVec 5 :=
  let n := max (-16384) (min n 16384)
  match unpack f x with
  | .nan s => nanWith f (if s then flagNV else 0)
  | .inf a => (f.signed a f.infEnc, 0)
  | .fin a m e => roundZ f mode false ⟨a, m, e + n, false⟩

/-- floor(log2 |x|) of a finite nonzero value. -/
def floorLog2 (m : Nat) (e : Int) : Int := e + Nat.log2 m

/-- 2^floor(log2 |x|) in the format, +0 for zero, +inf with NV for an infinity or a NaN (R167). -/
def powerBelow (f : FloatFormat) (x : Nat) : Nat × BitVec 5 :=
  match unpack f x with
  | .nan _ => (f.infEnc, flagNV)
  | .inf _ => (f.infEnc, flagNV)
  | .fin _ 0 _ => (0, 0)
  | .fin _ m e => ((roundTo f .rtz false ⟨false, 1, floorLog2 m e, false⟩).1, 0)

/-! Conversions (R125). -/

/-- Convert an exact integer into an integer format. -/
def intToInt (signed : Bool) (w : Nat) (sat : Bool) (v : Int) : Nat :=
  let lo : Int := if signed then -(2 ^ (w - 1) : Nat) else 0
  let hi : Int := if signed then (2 ^ (w - 1) : Nat) - 1 else (2 ^ w : Nat) - 1
  if lo ≤ v ∧ v ≤ hi then wrap w v else if sat then wrap w (if v < lo then lo else hi) else wrap w v

/-- Convert a floating-point value, scaled by 2^scale, into an integer format (R125). -/
def floatToInt (signed : Bool) (w : Nat) (mode : Rounding) (sat : Bool) (scale : Int) (v : FloatVal) : Nat × BitVec 5 :=
  let lo : Int := if signed then -(2 ^ (w - 1) : Nat) else 0
  let hi : Int := if signed then (2 ^ (w - 1) : Nat) - 1 else (2 ^ w : Nat) - 1
  match v with
  | .nan _ => (0, flagNV)
  | .inf n => (if sat then wrap w (if n then lo else hi) else 0, flagNV)
  | .fin n m e =>
    let (k, inexact) := roundAt mode ⟨n, m, e + scale, false⟩ 0
    let r : Int := if n then -(k : Int) else k
    if lo ≤ r ∧ r ≤ hi then (wrap w r, if inexact then flagNX else 0)
    else (if sat then wrap w (if r < lo then lo else hi) else wrap w r, flagNV)

/-- Convert a floating-point value, scaled by 2^scale, into a floating-point format (R125). -/
def floatToFloat (f : FloatFormat) (mode : Rounding) (sat : Bool) (scale : Int) (v : FloatVal) : Nat × BitVec 5 :=
  match v with
  | .nan s =>
    match f.kind with
    | .finite => (0, flagNV)
    | _ => (f.nanEnc, if s then flagNV else 0)
  | .inf n =>
    match f.kind with
    | .ieee => (f.signed n (if sat then f.maxEnc else f.infEnc), 0)
    | .nanOnly => (if sat then f.signed n f.maxEnc else f.nanEnc, flagNV)
    | .finite => (f.signed n f.maxEnc, flagNV)
  | .fin n m e => roundZ f mode sat ⟨n, m, e + scale, false⟩

/-- Convert an element between formats, its value scaled by 2^scale, with one rounding (R125). An integer source that
goes to an integer raises no flag. -/
def convertElem (src dst : ElemFormat) (mode : Rounding) (sat : Bool) (scale : Int) (x : Nat) : Nat × BitVec 5 :=
  let v : FloatVal :=
    match src with
    | .float f => unpack f x
    | .int s w =>
      let i : Int := if s then sextNat w x else (x % 2 ^ w : Nat)
      .fin (decide (i < 0)) i.natAbs 0
  match src, dst with
  | .int s w, .int s' w' =>
    let i : Int := if s then sextNat w x else (x % 2 ^ w : Nat)
    (intToInt s' w' sat i, 0)
  | _, .int s' w' => floatToInt s' w' mode sat scale v
  | _, .float f => floatToFloat f mode sat scale v

end Sys2Proof.Machine
end

