-- ==== Sys2Proof/Machine/Store.lean ====
section
/-! DEFINITION. Sparse storage: a list of keys and values in rising order of keys. Register files and the other indexed
state are held in it; a key that is not listed holds the default the reader names. Memory is the same with bytes, and
with one more rule: a listed byte differs from what an unlisted address reads as. -/

namespace Sys2Proof.Machine

/-- Indexed state: keys in strictly rising order. -/
abbrev Store (α : Type) := List (Nat × α)

/-- The value at a key, if listed. -/
def find? {α : Type} (k : Nat) : Store α → Option α
  | [] => none
  | (j, v) :: r => if k = j then some v else find? k r

/-- The value at a key, or the default. -/
def find {α : Type} (d : α) (k : Nat) (st : Store α) : α := (find? k st).getD d

/-- List a value at a key, in the place of an older one. -/
def put {α : Type} (k : Nat) (v : α) : Store α → Store α
  | [] => [(k, v)]
  | (j, w) :: r => if k < j then (k, v) :: (j, w) :: r else if k = j then (k, v) :: r else (j, w) :: put k v r

/-- Drop a key. -/
def drop {α : Type} (k : Nat) (st : Store α) : Store α := st.filter (fun p => p.1 != k)

/-- The keys of a list rise strictly. -/
def risingFrom {α : Type} : Nat → List (Nat × α) → Bool
  | _, [] => true
  | n, (j, _) :: r => decide (n ≤ j) && risingFrom (j + 1) r

/-- Byte memory: addresses strictly rising, no listed byte 0. -/
abbrev Memory := List Host.Cell

/-- What an unlisted address reads as (DESIGN CHOICE, log 3). -/
def unlistedByte : Byte := 0

/-- The canonical form. -/
def Memory.wf (m : Memory) : Bool := risingFrom 0 m && m.all (fun c => c.2 != unlistedByte)

/-- Read one byte. -/
def readByte (m : Memory) (a : Nat) : Byte := find unlistedByte a m

/-- Write one byte: an entry equal to what the unlisted address reads as is dropped. -/
def writeByte (m : Memory) (a : Nat) (b : Byte) : Memory :=
  if b = unlistedByte then drop a m else put a b m

/-- Write bytes upward from an address. -/
def writeBytes (m : Memory) (a : Nat) : List Byte → Memory
  | [] => m
  | b :: r => writeBytes (writeByte m a b) (a + 1) r

/-- Read n bytes upward from an address. -/
def readBytes (m : Memory) (a n : Nat) : List Byte := (List.range n).map (fun i => readByte m (a + i))

end Sys2Proof.Machine
end

