-- ==== Sys2Proof/Machine/CoreState.lean ====
section
/-! DEFINITION. The state of one core and of one cluster, as plain data: every register, engine and queue the spec gives
them, and the model's bookkeeping of the bundle that is being issued. -/

namespace Sys2Proof.Machine

/-- The register files and control registers of a core (R41, R43, R110, R132). -/
structure Regs where
  /-- a1 to a63, physical numbering; unlisted 0. -/
  a : Store Word
  /-- v0 to v55, physical numbering; unlisted 0. -/
  v : Store Vec
  /-- k1 to k7; unlisted 0. -/
  k : Store Word
  vflags : FlagVec
  /-- Control registers that are held, by number; unlisted 0. The others are computed (R43, R86). -/
  csr : Store Word
  /-- Rotation base. -/
  rb : BitVec 4
  /-- Trellis tables 1 to 3: entry e of table t at 512 t + e; unlisted as table 0 (R132). -/
  trellis : Store (BitVec 32)
  deriving DecidableEq, Repr

/-- What is executed for a canonical page (R290 to R297). -/
inductive Treatment where
  | native
  | interlocked
  /-- Native and annex pages, their bundle counts, the landing map and the version (R293, R294). -/
  | racked (native annex : Addr) (ncount acount : Nat) (map : List Byte) (version : BitVec 32)
  deriving DecidableEq, Repr

/-- A version of a canonical page that a core can execute. -/
structure Version where
  page : Addr
  vint : BitVec 8
  treat : Treatment
  deriving DecidableEq, Repr

/-- A place in a version: the index in its sequence order (R295); for native and interlocked pages the bundle of the
page. -/
structure Pos where
  ver : Version
  idx : Nat
  deriving DecidableEq, Repr

/-- A taken transfer that is pending (R49, R272): its countdown, its canonical target and, once translated, the place. -/
structure Xfer where
  countdown : Nat
  target : Addr
  pos : Option Pos
  deriving DecidableEq, Repr

/-- One loop level (R51, R91, R112, R313). -/
structure LoopLevel where
  active : Bool
  count : BitVec 33
  /-- Canonical address of the first body bundle. -/
  first : Addr
  /-- The same place in the version the level was set up in, for a racked version. -/
  firstPos : Option Pos
  len : Nat
  stages : Nat
  rot : Bool
  bbadv : Bool
  /-- Iteration count n. -/
  iters : BitVec 33
  version : BitVec 32
  /-- A drain has acted on the level (R114). -/
  drained : Bool
  deriving DecidableEq, Repr

/-- An inactive level. -/
def LoopLevel.off : LoopLevel := ⟨false, 0, 0, none, 1, 1, false, false, 0, 0, false⟩

/-- The loop engine: levels 0 to 3, and the active levels with the most recently set up first (R51). -/
structure Loops where
  levels : Store LoopLevel
  order : List Nat
  /-- Iterations not started when a level was drained (R114). -/
  notStarted : Store Nat
  /-- The level whose drain is to end in a pre-emption, once its last pass has run (R287). -/
  draining : Option Nat
  deriving DecidableEq, Repr

/-- Where a result lands. -/
inductive Dest where
  | a (n : Nat)
  | v (n : Nat)
  | k (n : Nat)
  | csr (n : Nat)
  | trellis (t blk : Nat)
  | f (n : Nat)
  | none
  deriving DecidableEq, Repr

/-- The operands of an access as read at issue, from which it can be made again (R270, R271). -/
structure MemOperands where
  base : Word
  t : Word
  data : Word
  vdata : Vec
  vidx : Vec
  mask : Word
  deriving DecidableEq, Repr

/-- What an operation read at issue: scalar and vector registers and the steering mask by the number of the field that
names them, and the rounding mode (R270, R271). -/
structure IssueReads where
  a : List (Nat × Word)
  v : List (Nat × Vec)
  k : List (Nat × Word)
  rm : Word
  deriving DecidableEq, Repr

/-- Nothing read. -/
def IssueReads.none : IssueReads := ⟨[], [], [], 0⟩

/-- A result in flight (R46, R47, R53, R269, R298, R301). -/
structure Pending where
  slot : Nat
  seq : Nat
  dest : Dest
  value : Vec
  /-- The bits of the destination it writes: its enabled lanes (R108). -/
  en : Vec
  flags : FlagVec
  /-- The bundle at whose end it is due; on an interlocked page its vintage landing. -/
  due : Nat
  /-- The value has arrived. -/
  ready : Bool
  /-- The tick at whose end a value of fixed latency is ready (R298, R312). -/
  readyTick : Nat
  /-- The tick at whose end its vintage landing has passed, counted in ticks (R312). -/
  vintTick : Nat
  /-- The result was issued on an interlocked page. -/
  interlocked : Bool
  /-- The edge guard holds it (R301). -/
  guarded : Bool
  /-- The slot word and the real latency (R271). -/
  word : Slot
  lat : Nat
  /-- What its operation read at issue. -/
  read : IssueReads
  /-- Canonical address of its bundle (R268). -/
  addr : Addr
  deriving DecidableEq, Repr

/-- An operation that is to be computed again from what it read at issue (R270): its entry, and the bundle before which
it is issued again. -/
structure Again where
  entry : Pending
  bundle : Nat
  deriving DecidableEq, Repr

/-- One element of a memory access: its address, its size and, when it has been translated, the places it goes to. More
than one place is a replicated write (R212). -/
structure MemElem where
  idx : Nat
  va : Word
  size : Nat
  deriving DecidableEq, Repr

/-- Where bytes are. -/
inductive Place where
  /-- A byte of HBM4E or of the cellar, by device address, and its physical address. -/
  | mem (addr pa : Nat)
  /-- A byte of the core's cluster banks, by window offset (R195). -/
  | bank (off : Nat)
  deriving DecidableEq, Repr

/-- The attributes of a page that an access depends on, and where the page starts (R202, R203). -/
structure PageInfo where
  vpage : Addr
  size : Nat
  frame : Addr
  r : Bool
  w : Bool
  x : Bool
  ms : Bool
  tier : Bool
  rep : Bool
  cow : Bool
  vint : BitVec 8
  deriving DecidableEq, Repr

/-- A cached translation of a context (R204). -/
structure TlbEntry where
  ctx : Nat
  info : PageInfo
  deriving DecidableEq, Repr

/-- A translated element: the places of its first byte, one for each replica written, whether the page is an MS page
(R192), and the key under which its bytes stand (R206). -/
structure Target where
  elem : MemElem
  places : List Place
  ms : Bool
  key : Nat
  deriving DecidableEq, Repr

/-- An access in a queue (R228). -/
structure Access where
  slot : Nat
  seq : Nat
  instr : Instr
  word : Slot
  ops : MemOperands
  /-- Canonical address of the bundle. -/
  addr : Addr
  bundle : Nat
  elems : List MemElem
  targets : Option (List Target)
  /-- It stands in the firmware context: physical addresses, no cluster cache (R273). -/
  physical : Bool
  /-- A bounced atomic that waits for the new page (R239). -/
  bounced : Bool
  /-- Its bank or its translation met a finding: it has not been sent (R269). -/
  failed : Bool
  /-- The bank switches of its cluster that were asked for before its issue (R196). -/
  asked : Nat
  deriving DecidableEq, Repr

/-- An entry of the load or the store queue: an access, or the marker of a `mark` (R102). -/
inductive QueueEntry where
  | access (x : Access)
  | marker (scope : BitVec 3) (bundle : Nat)
  deriving DecidableEq, Repr

/-- A trap, a fault or a watch that stops the core. -/
inductive Finding where
  | fault (code : Nat) (slot : Nat) (addr : Addr) (vaddr : Word) (imp : Bool) (tcode : Nat)
  | trap (cause : Nat) (slot : Nat) (vaddr : Word)
  deriving DecidableEq, Repr

/-- What the core waits for before the next bundle (R54). -/
inductive Wait where
  | none
  /-- `bwait` of a physical barrier. -/
  | barrier (n : Nat)
  | leave
  /-- An alignment instruction waits until ring time reaches the target (R322). -/
  | align (target : Nat)
  deriving DecidableEq, Repr

/-- The press (R171, R173). -/
structure Press where
  /-- B digit of macro m, row k, column n at 16384 m + 128 k + n. -/
  macros : Store Byte
  /-- A digit of row i, position k at 128 i + k. -/
  rowBuf : Store Byte
  cap : Store Byte
  capW : Nat
  capAsgn : Bool
  capBsgn : Bool
  capMask : BitVec 8
  capDelta : BitVec 3
  capKq : BitVec 4
  /-- The running sequence: the bundle of beat 0 and the beats it has in all; none when all beats are done. -/
  seqStart : Nat
  seqBeats : Nat
  /-- The slot word of the `pacc` that runs (R271). -/
  seqWord : Slot
  /-- Element (a, i, n) at 1024 a + 128 i + n, 48 bits. -/
  acc : Store (BitVec 48)
  xr : Store (BitVec 16)
  xc : Store (BitVec 16)
  ovf : BitVec 8
  s : BitVec 3
  w : BitVec 3
  asgn : Bool
  bsgn : Bool
  deriving DecidableEq, Repr

/-- The press at task start (R171). -/
def Press.clear : Press := ⟨[], [], [], 1, false, false, 0, 0, 0, 0, 0, 0, [], [], [], 0, 0, 0, false, false⟩

/-- A press update that waits for the end of the bundle (R175, R176). -/
inductive PressUpdate where
  | config (s w : BitVec 3) (asgn bsgn : Bool)
  | digits (m : BitVec 3) (h : BitVec 6) (v : Vec)
  | rows (cells : List (Nat × Byte))
  | clear (mask : BitVec 8)
  | clearRows
  | clearExps
  | clearOvf (mask : BitVec 8)
  | setAcc (a : Nat) (cells : List (Nat × BitVec 48)) (ovf : Bool)
  | rowExps (cells : List (Nat × BitVec 16))
  | colExps (cells : List (Nat × BitVec 16))
  deriving DecidableEq, Repr

/-- A physical barrier of a core (R254). -/
structure Barrier where
  e : BitVec 48
  c : BitVec 48
  arrivals : Bool
  complete : Bool
  deriving DecidableEq, Repr

/-- The fields of a layout record (R240), checked and with the element size resolved (R242). -/
structure Layout where
  base : Addr
  extents : List Nat
  rank : Nat
  esize : Nat
  edge : Nat
  strides : List Nat
  windows : List Nat
  fill : BitVec 32
  lbase : Nat
  rpitch : Nat
  ilv : Nat
  ppitch : Nat
  bmask : BitVec 16
  deriving DecidableEq, Repr

/-- One copy of a tile (R244): record, origins, direction, barrier and the address of the bundle that named it. -/
structure Copy where
  lay : Layout
  origin : List Int
  out : Bool
  /-- Physical barrier. -/
  bar : Nat
  addr : Addr
  /-- The number of the next element in the order of R245 with w0 fastest, and elements before it that had to wait
  (R247). -/
  next : Nat
  waiting : List Nat
  /-- The number of the bundle it issued with. -/
  bundle : Nat
  deriving DecidableEq, Repr

/-- One level of the sequencer (R250). -/
structure SeqLevel where
  count : Nat
  steps : List Int
  lstep : Int
  deriving DecidableEq, Repr

/-- A level at task start. -/
def SeqLevel.init : SeqLevel := ⟨1, [0, 0, 0, 0, 0], 0⟩

/-- A nest the sequencer holds (R251). -/
structure Nest where
  copy : Copy
  levels : List SeqLevel
  /-- The barrier handle it captured (R251, R254). -/
  handle : Nat
  /-- Copies of the nest emitted. -/
  emitted : Nat
  started : Bool
  /-- The bundle of its `cstart`; none once its task has been resumed after it. -/
  bundle : Option Nat
  deriving DecidableEq, Repr

/-- A stream port (R221 to R225). -/
structure Stream where
  bound : Bool
  drain : Bool
  bank : Nat
  lay : Layout
  origin : List Int
  /-- Entries in all, and the bytes the window's elements make. -/
  total : Nat
  /-- Entries written into the bank so far. -/
  filled : Nat
  /-- Entries taken out of the bank so far. -/
  taken : Nat
  slot : Nat
  addr : Addr
  /-- The bytes of a drain stream that has been unbound are still to be written. -/
  closing : Bool
  /-- The entries of such a stream that are still to be written, which the engine holds (R225, log 80); none for an entry
  whose bank failed ECC, whose data no engine takes (R207). -/
  held : List (Option Vec)
  deriving DecidableEq, Repr

/-- A record with no element. -/
def Layout.empty : Layout := ⟨0, [1, 1, 1, 1, 1], 1, 1, 0, [0, 0, 0, 0], [0, 1, 1, 1, 1], 0, 0, 0, 0, 0, 0⟩

/-- An unbound port. -/
def Stream.off : Stream := ⟨false, false, 0, Layout.empty, [0, 0, 0, 0, 0], 0, 0, 0, 0, 0, false, []⟩

/-- A timed send that has not departed, or is under way (R325). -/
structure Send where
  entry : Vec
  die : Nat
  queue : Nat
  /-- Issue tick of the sending die. -/
  issued : Nat
  /-- Departure tick, once departed; it arrives lambda - 1 ticks later. -/
  departed : Option Nat
  lambda : Nat
  interval : Nat
  deriving DecidableEq, Repr

/-- The state of a task on a core (R95, R115, R333). -/
inductive TaskStatus where
  | idle
  | running
  | halted
  | faulted
  | cancelled
  deriving DecidableEq, Repr

/-- The task of a core, and what its launch declares (R336, R337). -/
structure Task where
  status : TaskStatus
  launch : Nat
  tile : Nat
  timed : Bool
  duty : Nat
  burst : Nat
  /-- Leave is held, asked for, or given back at the end of this bundle (R97). -/
  leave : Bool
  leaveAsked : Bool
  leaveEnding : Bool
  /-- The safe counter (R283). -/
  safeCount : BitVec 16
  /-- The words of R319. -/
  start : Word
  index : BitVec 32
  ccount : BitVec 17
  cadence : BitVec 17
  /-- A `realign` has issued and has not taken effect; one has taken effect (R325). -/
  realigning : Bool
  realigned : Bool
  /-- A pre-emption request is pending (R282); the alignment index of a timed pre-emption (R288). -/
  preempt : Bool
  preemptAt : Option Nat
  /-- The target of the last alignment instruction, from the start: kept over a timed pre-emption (R288, R322). -/
  alignAt : Option Word
  /-- What the core reported at that index (R288). -/
  alignReport : Option Bool
  /-- The fault was reported to the front end. -/
  reported : Bool
  deriving DecidableEq, Repr

/-- No task. -/
def Task.none : Task :=
  ⟨.idle, 0, 0, false, 0, 0, false, false, false, 0, 0, 0, 0, 0, false, false, false, Option.none, Option.none, Option.none,
    false⟩

/-- A pre-empted task that no core runs (R284): its context, its tile and launch words, the core it left, and what the
firmware saves of it beside the state space. The barriers are by handle of the context's table (R254); the loop levels
hold what their words do not. -/
structure SavedTask where
  ctx : Nat
  coord : Word
  parm : Word
  core : Nat
  task : Task
  press : Press
  trellis : Store (BitVec 32)
  seqLevels : Store SeqLevel
  nests : List Nest
  barriers : List (Nat × Barrier)
  levels : Store LoopLevel
  lastDeparture : Store Nat
  setupSkip : Option Pos
  /-- Entries of drain streams it had unbound that are still to be written, by port (R225). -/
  draining : Store (List Stream)
  /-- Watch matches of its engines that were found while it was being pre-empted (R280). -/
  matched : List Finding
  deriving DecidableEq, Repr

/-- A row of the bundle being issued that is still to run: a row of the header or of the loop engine, or the operation
whose word stands in a slot. -/
inductive Todo where
  | row (i : Instr)
  | slot (k : Nat)
  deriving DecidableEq, Repr

/-- How the rows of the bundle being issued go on (R46, R53, R173, R254). -/
inductive BundleStage where
  /-- No bundle is open. -/
  | closed
  /-- The operations of the slots take effect. -/
  | ops
  /-- Engines act, in the order of the list of `nextRow`. -/
  | engines
  | press
  | loops
  /-- The next place is chosen. -/
  | next
  | landing
  deriving DecidableEq, Repr

/-- The bundle being issued: model's own. -/
structure Issue where
  stage : BundleStage
  word : Bundle
  /-- Its place and its canonical address. -/
  pos : Pos
  addr : Addr
  /-- Rows not yet run. -/
  todo : List Todo
  /-- The slot of the row that runs. -/
  slot : Nat
  /-- What the operation that runs reads. -/
  read : IssueReads
  /-- The entry that is computed again, in hidden issue (R270). -/
  again : Option Again
  immx : Option (BitVec 24)
  /-- Entries popped from ports by this bundle, by register number (R224, R326). -/
  popped : Store Vec
  disabled : Bool
  /-- The transfer taken by this bundle. -/
  taken : Option (Addr × Option Pos)
  /-- A level set up by this bundle with a count of 0 (R51): where the setup bundle is followed by. -/
  skip : Option Pos
  /-- The loop return chosen by the end evaluations of this bundle. -/
  back : Option (Addr × Option Pos)
  /-- Clears and restores of `vflags` by this bundle, slot 5 first: bits kept, bits set (R170). -/
  flagWrites : List (FlagVec × FlagVec)
  press : List PressUpdate
  /-- Ports that `sbind` binds, or unbinds, at the end of the bundle (R222, R225). -/
  binds : List (Nat × Option Stream)
  /-- The sequencer has emitted with this bundle, or found a nest of no copies (R251). -/
  nestDone : Bool
  /-- A loop end has advanced `ctl.bb` with this bundle (R93). -/
  bbAdvance : Nat
  /-- The number given to the next result. -/
  seq : Nat
  /-- A count-0 level was set up by the bundle before this one. -/
  setupSkip : Option Pos
  /-- Segment or fill work a header bit starts. -/
  firmware : Bool
  deriving DecidableEq, Repr

/-- A version at address 0. -/
def Pos.zero : Pos := ⟨⟨0, 3, .native⟩, 0⟩

/-- No bundle. -/
def Issue.none : Issue :=
  ⟨.closed, 0, Pos.zero, 0, [], 0, IssueReads.none, Option.none, Option.none, [], false, Option.none, Option.none, Option.none, [], [], [], false, 0, 0,
    Option.none, false⟩

/-- The sequencing of a core: where it fetches, what is pending, what is in flight (R46 to R54). -/
structure Flow where
  pos : Pos
  /-- The target of a transfer that could not be translated yet: its canonical address. -/
  goto : Option Addr
  xfers : List Xfer
  /-- Bundles issued since task start. -/
  bundleNo : Nat
  /-- Vintage of the page of the bundle issued last. -/
  lastVint : Option (BitVec 8)
  lastTick : Nat
  pend : List Pending
  /-- Operations of a record that are still to be issued again (R270). -/
  again : List Again
  wait : Wait
  finding : Option Finding
  /-- Watch matches of the copy engine that are found while another finding waits, and are taken after it (R280). -/
  matched : List Finding
  /-- No-op bundles of a halt or of a drain go on until nothing is in flight (R95, R287). -/
  noOps : Bool
  deriving DecidableEq, Repr

/-- The memory side of a core (R204, R228, R230, R291, R304). -/
structure CoreMem where
  loadQ : List QueueEntry
  storeQ : List QueueEntry
  /-- Blocks of the cluster cache filled before this stamp are refilled (R230). -/
  refill : Nat
  utlb : List TlbEntry
  /-- Cached rewrite descriptors, by canonical page (R291). -/
  descs : Store (List Word × List Byte)
  /-- Instruction memory: the resident versions, each with its bundles in its sequence order (R193, R295, R304). -/
  code : List (Version × List Bundle)
  /-- The segment table that the front end has installed on the core: its address and its number of entries, 0 for a
  program without a table (R60, R303). -/
  segAddr : Addr
  segCount : Nat
  /-- The runs of pages that a program without a table has there, as first page and number (R193). -/
  pages : List (Addr × Nat)
  /-- The segments in the two halves (R304): the executing one and the idle one; none for a program without table. -/
  segHalves : List Nat
  /-- A segment copy under way. -/
  segCopy : Option Nat
  /-- Pages whose code is being copied again (R311). -/
  reload : Option Version
  /-- Resident versions that have been discarded or displaced and stay until the core has left them (R311). -/
  stale : List Version
  deriving DecidableEq, Repr

/-- The versions whose bundles are resident. -/
def CoreMem.resident (m : CoreMem) : List Version := m.code.map (fun e => e.1)

/-- The copy engine, sequencer, streams and timed sends of a core. -/
structure Engines where
  barriers : Store Barrier
  seqLevels : Store SeqLevel
  nests : List Nest
  copies : List Copy
  streams : Store Stream
  /-- Drain streams that have been unbound and still have entries to write, by port, the oldest first (R225). -/
  draining : Store (List Stream)
  landQ : Store (List Vec)
  sends : List Send
  lastDeparture : Store Nat
  /-- Contributions on their way to a physical barrier: barrier, bytes, and whether a copy or collective ends with them
  (R248, R254, R261). -/
  contribs : List (Nat × Nat × Bool)
  deriving DecidableEq, Repr

/-- An event that waits for the firmware (R274): cause with slot, f30, f29. -/
structure FwEvent where
  cause : Nat
  slot : Nat
  f30 : Word
  f29 : Word
  deriving DecidableEq, Repr

/-- How the firmware context runs (R274). -/
inductive FwMode where
  | idle
  | background
  | exclusive
  deriving DecidableEq, Repr

/-- The firmware context (R273 to R276). -/
structure Firmware where
  f : Store Word
  text : Store Bundle
  mode : FwMode
  pc : Nat
  xfers : List (Nat × Nat)
  bundleNo : Nat
  pend : List Pending
  queue : List FwEvent
  /-- Bundles of background mode issued in the current window. -/
  shareUsed : Nat
  /-- The firmware bundle is the one being issued. -/
  issuing : Bool
  /-- The event being served. -/
  event : Option FwEvent
  /-- An overlay segment that the activation is to copy (R304). -/
  segment : Option Nat
  /-- User bundle F's position, kept with the flight record (R297). -/
  posF : Option Pos
  /-- Barrier-table entries written by `bmap`, for operands issued after the activation (R289). -/
  bmaps : List (Nat × BitVec 11)
  /-- The user bundle that waits for its landing while a firmware bundle issues (R275). -/
  held : Option Issue
  deriving DecidableEq, Repr

/-- What the core keeps with a flight-record entry beside its words (R269, R301): the mark of the edge guard, the access
of an entry that is to be made again, and of a result its flags, the bits of its destination that it writes, its
destination and what was read for it. -/
structure FlightMeta where
  flags : FlagVec
  guarded : Bool
  interlocked : Bool
  access : Option Access
  en : Vec
  dest : Dest
  read : IssueReads
  addr : Addr
  deriving DecidableEq, Repr

/-- The flight record and the fault record (R268, R271, R272). -/
structure Flight where
  /-- Word w of entry i at 128 i + w. -/
  words : Store Word
  count : Nat
  info : Store FlightMeta
  /-- Pending transfers kept: words 0x0884 to 0x0886. -/
  xferCount : BitVec 2
  xfer0 : Word
  xfer1 : Word
  bundleF : Addr
  /-- The entries of the load and of the store queue that the record took out of them, in order: recorded accesses and
  the markers of `mark` among them (R228, R229, R270). -/
  queueL : List QueueEntry
  queueS : List QueueEntry
  fault : Store Word
  deriving DecidableEq, Repr

/-- A core. -/
structure Core where
  regs : Regs
  loops : Loops
  press : Press
  flow : Flow
  issue : Issue
  mem : CoreMem
  eng : Engines
  task : Task
  fw : Firmware
  flight : Flight
  deriving DecidableEq, Repr

/-- A core after reset (R41, log 4): every register 0, `ctl.feat` with every defined bit set. -/
def Core.reset : Core where
  regs := ⟨[], [], [], 0, [(0x100, 0x1F)], 0, []⟩
  loops := ⟨[], [], [], none⟩
  press := Press.clear
  flow := ⟨Pos.zero, none, [], 0, none, 0, [], [], .none, none, [], false⟩
  issue := Issue.none
  mem := ⟨[], [], 0, [], [], [], 0, 0, [], [], none, none, []⟩
  eng := ⟨[], [], [], [], [], [], [], [], [], []⟩
  task := Task.none
  fw := ⟨[], [], .idle, 0, [], 0, [], [], 0, false, none, none, none, [], none⟩
  flight := ⟨[], 0, [], 0, 0, 0, 0, [], [], []⟩

/-- The mode of a cluster bank (R194). -/
inductive BankMode where
  | cache | spad | fifo
  deriving DecidableEq, Repr

/-- A 16-byte word in the cluster cache (R197): bytes, which are valid and which dirty, and the order of use. -/
structure CacheBlock where
  data : BitVec 128
  valid : BitVec 16
  dirty : BitVec 16
  ef : Bool
  filled : Nat
  used : Nat
  /-- Cores whose stores left dirty bytes in it. -/
  owners : List Nat
  /-- Key tag. -/
  key : Nat
  /-- The physical address of its first byte. -/
  pa : Nat
  deriving DecidableEq, Repr

/-- A bank switch on its way (R196): how many of its cluster were asked for with it. -/
structure BankSwitch where
  number : Nat
  core : Nat
  mask : BitVec 16
  mode : BankMode
  deriving DecidableEq, Repr

/-- A cluster (R194 to R197, R204, R206). -/
structure Cluster where
  modes : Store BankMode
  sram : Memory
  switching : List BankSwitch
  /-- Bank switches asked for. -/
  asked : Nat
  /-- The tick in which copies last used banks, and those banks (R54, R195). -/
  busyTick : Nat
  busy : List Nat
  cache : Store CacheBlock
  tlb : List TlbEntry
  ctx : Option Nat
  /-- Stamp of fills and uses. -/
  stamp : Nat
  deriving DecidableEq, Repr

/-- A cluster after reset: every bank in cache mode, zeros (R194, R206). -/
def Cluster.reset : Cluster := ⟨[], [], [], 0, 0, [], [], [], none, 0⟩

end Sys2Proof.Machine
end

