-- ==== Sys2Proof/Machine/DeviceState.lean ====
section
/-! DEFINITION. The state of the module outside its cores and clusters: dies and links, contexts and partitions, the
front end, the governor, management, boot and the fabric ports, as plain data. -/

namespace Sys2Proof.Machine

/-- A die (R16, R20, R116, R207, R316, R318, R342). -/
structure Die where
  /-- Its tick count. -/
  count : Word
  /-- L and stamp for every other compute die (R316). -/
  bound : Store Nat
  stamp : Store Nat
  /-- What its estimate of ring time has reached when a clock change touched it (R317). -/
  floor : Nat
  /-- Operating point of the clock; 0 is nominal. -/
  point : Nat
  fenced : Bool
  trip : Bool
  corrected : Nat
  /-- The cluster pointer of each free launch on the die (R116). -/
  pointer : Store Nat
  /-- Dispatch credit by context and class, at 4 ctx + class (R342). -/
  credit : Store Int
  /-- The contexts and classes that were waiting at the last choice. -/
  waiting : List Nat
  deriving DecidableEq, Repr

/-- A die at reset. -/
def Die.reset : Die := ⟨0, [], [], 0, 0, false, false, 0, [], [], []⟩

/-- A meter (R345): its tokens, and who holds a request there, in order of arrival (`State.holders`). -/
structure Meter where
  rate : Nat
  burst : Nat
  tokens : Int
  held : List Nat
  deriving DecidableEq, Repr

/-- A retention register (R199): physical lines as address and length, ways asked for, and whether it is in effect. -/
structure Retention where
  ranges : List (Nat × Nat)
  ways : Nat
  active : Bool
  deriving DecidableEq, Repr

/-- A completion ring (R263). -/
structure Ring where
  base : Addr
  count : Nat
  vector : Option Nat
  /-- Where the words prod and cons stand in the context's memory, if they do (log 79). -/
  indices : Option Addr
  prod : BitVec 32
  cons : BitVec 32
  /-- Records that found the ring full, each with the queue whose node waits for it. -/
  held : List (List Byte × Option Nat)
  deriving DecidableEq, Repr

/-- What a running graph waits for (R341). -/
inductive NodeWait where
  | ready
  | phase (id : Nat)
  | copy
  | mem (addr : Addr) (value : BitVec 32)
  | tick (t : Word)
  /-- A completion record that is held (R263), or the status record while its page moves (R339). -/
  | ring
  | status
  deriving DecidableEq, Repr

/-- A running graph (R339, R341). -/
structure GraphRun where
  header : Addr
  count : Nat
  status : Addr
  tag : Word
  node : Nat
  iters : Store Nat
  flag0 : Bool
  wait : NodeWait
  cancelled : Bool
  /-- Completed nodes (R333). -/
  done : Nat
  /-- What ends the graph once its node's held record, or its status record, can be written: status, fault record
  (R263, R339). -/
  ending : Option (Nat × List Word)
  deriving DecidableEq, Repr

/-- A queue of a context (R338). -/
structure Queue where
  waiting : List Addr
  overflow : Bool
  badAddr : Bool
  completed : Word
  run : Option GraphRun
  vector : Option Nat
  deriving DecidableEq, Repr

/-- An empty queue. -/
def Queue.empty : Queue := ⟨[], false, false, 0, none, none⟩

/-- A context (R199, R202, R206, R253, R278, R279, R303, R338, R345). -/
structure Context where
  part : Nat
  key : BitVec 8
  /-- The generation of its key slot at creation. -/
  keyGen : Nat
  seed : BitVec 32
  root : Addr
  window : Nat
  share : Nat
  feat : BitVec 5
  safebound : BitVec 16
  programs : List Program
  ring : Option Ring
  queues : Store Queue
  /-- Barrier translation table: valid [10], physical barrier [9:0]. -/
  btab : Store (BitVec 11)
  retain : Store Retention
  meters : Store Meter
  lastFault : List Word
  deriving DecidableEq, Repr

/-- A call of `mapx` that has installed a version and waits until every core named has issued its `vinval` of the page
(R310). -/
structure MapxCall where
  ctx : Nat
  canon : Addr
  cores : List Nat
  deriving DecidableEq, Repr

/-- A launch on one die (R116, R335, R336, R343). -/
structure Launch where
  id : Nat
  phase : Nat
  ctx : Nat
  part : Nat
  cls : Nat
  die : Nat
  timed : Bool
  entry : Addr
  params : Addr
  ex : Nat
  ey : Nat
  ez : Nat
  duty : Nat
  burst : Nat
  cadence : Nat
  bwin : BitVec 32
  /-- Tasks dispatched, and completed. -/
  next : Nat
  done : Nat
  reserved : List Nat
  cancelled : Bool
  /-- I of every destination die, fixed at admission (R328), at 8 src + dst; and λ. -/
  lambda : Store Nat
  interval : Store Nat
  deriving DecidableEq, Repr

/-- A phase (R333, R334, R343). -/
structure Phase where
  id : Nat
  ctx : Nat
  q : Nat
  record : Addr
  node : Addr
  mask : BitVec 8
  timed : Bool
  /-- Leave asked for and granted; started with S. -/
  asked : Bool
  granted : Bool
  start : Option Nat
  fault : Option (List Word)
  cancelled : Bool
  deriving DecidableEq, Repr

/-- Who holds or asks for leave (R344). -/
inductive LeaveOwner where
  | core (n : Nat)
  | phase (id : Nat)
  deriving DecidableEq, Repr

/-- A request for leave, and its allowance in milliwatts. -/
structure LeaveRequest where
  owner : LeaveOwner
  timed : Bool
  cls : Nat
  milliwatts : Nat
  deriving DecidableEq, Repr

/-- The governor (R15, R16, R344). -/
structure Governor where
  held : List LeaveRequest
  waiting : List LeaveRequest
  /-- Measured draw of everything else, in milliwatts. -/
  draw : Nat
  trip : Bool
  deriving DecidableEq, Repr

/-- A block transfer of the front end (R262, R330). -/
structure Transfer where
  ctx : Nat
  /-- The queue whose graph waits for it; none for a host copy. -/
  q : Option Nat
  tag : Word
  /-- Address in bits 47 to 0; the number of another module, or 0, in bits 63 to 48 (log 47). -/
  dst : Word
  src : Addr
  count : Nat
  /-- Bytes moved before it had to wait for a page. -/
  moved : Nat
  deriving DecidableEq, Repr

/-- Banks in scratchpad and FIFO mode of a cluster that passed to the tasks of another launch or context while pre-empted
tasks of a launch had left it (R284, R286): their modes and contents, and whether a task has resumed while they could not
return, so that they return with the next context change. -/
structure SavedBanks where
  ctx : Nat
  launch : Nat
  cluster : Nat
  modes : Store BankMode
  sram : Memory
  due : Bool
  deriving DecidableEq, Repr

/-- The front end (R333 to R343). -/
structure FrontEnd where
  /-- The queue whose row runs: context and class. -/
  ctx : Nat
  q : Nat
  launches : Store Launch
  phases : Store Phase
  nextId : Nat
  transfers : List Transfer
  /-- Pre-empted tasks that no core runs, and the banks saved for them (R284, R286). -/
  preempted : List SavedTask
  banks : List SavedBanks
  /-- Queues whose row has run in this tick, as 4 ctx + class. -/
  served : List Nat
  /-- Vectors signalled, each with the partition whose virtual function it belongs to (R263, R332, R339). -/
  msix : List (Nat × Nat)
  deriving DecidableEq, Repr

/-- A width or clock change that waits for the management tick (R329). -/
inductive LinkRequest where
  | width (link w : Nat)
  | clock (die point : Nat)
  deriving DecidableEq, Repr

/-- Management (R329, R353 to R355). -/
structure Management where
  partitions : Store Resources
  busy : Bool
  bootFailed : Bool
  block : Addr
  cmd : Option Command
  result : Nat
  /-- Ethernet ports of the control OS (R18, R332). -/
  osPorts : List Nat
  /-- Widths in sixteenths of the full width: ring link d to d + 1 at d, cache-die link of die d at 8 + d, fabric port p
  at 16 + p; unlisted is full width. -/
  widths : Store Nat
  requests : List LinkRequest
  /-- Requests that wait for the end of timed phases. -/
  deferred : List LinkRequest
  /-- Generation of each key slot: raised when the slot is erased (R206). -/
  keyGen : Store Nat
  /-- Contexts whose destruction waits until the status records of their graphs are written (R333, R355). -/
  leaving : List Nat
  deriving DecidableEq, Repr

/-- A fabric port (R330, R331): the number it expects and the number it sends next. -/
structure FabricPort where
  expect : BitVec 32
  next : BitVec 32
  /-- Flits sent and not acknowledged. -/
  retry : List Vec
  /-- Flits put on the link, oldest first. -/
  sent : List Vec
  undelivered : Nat
  /-- The number of the flit that is being sent again, how often in a row it has been, and how many more requests for it
  come from flits that were on the link before (R329, R331). -/
  retrySeq : BitVec 32
  retryCount : Nat
  retryStale : Nat
  /-- Remote writes and atomics accepted that wait for a page, oldest first (R203, R331). -/
  pending : List Vec
  /-- Results of remote atomics that have come back, by message tag. -/
  replies : List (Nat × List Byte)
  deriving DecidableEq, Repr

/-- Boot and attestation (R349 to R352). -/
structure Boot where
  powered : Bool
  stage : Nat
  /-- The flash slot, and what the network answers at power-on. -/
  flash : Option BootImage
  network : Option BootImage
  /-- The image that runs. -/
  image : Option BootImage
  /-- The measurement log (R350). -/
  log : Store (BitVec 384)
  fromNetwork : Bool
  /-- The first code of each die, dies whose key is not their own (they sign with another), and dies that do not answer a
  challenge (R350, R352). -/
  code : Store (List Byte)
  failing : List Nat
  silent : List Nat
  /-- The next die to be admitted, and the dies admitted. -/
  next : Nat
  admitted : List Nat
  certs : Store (List Byte)
  deriving DecidableEq, Repr

/-- The SPDM responder (R351). -/
structure Spdm where
  versioned : Bool
  capable : Bool
  negotiated : Bool
  /-- Responses sent, as port, code and payload. -/
  responses : List (Nat × Nat × List Byte)
  deriving DecidableEq, Repr

/-- A member's `coll` that waits to be matched or completed (R257 to R261). -/
structure Member where
  core : Nat
  ctx : Nat
  op : Nat
  ty : Nat
  n : Nat
  root : Nat
  cnt : Nat
  send : Addr
  recv : Addr
  members : List (Nat × Nat)
  self : Nat
  bar : Nat
  addr : Addr
  /-- The bundle of its `coll`. -/
  bundle : Nat
  /-- The elements of its send buffer that have been read, by index (R247). -/
  got : Store (List Byte)
  /-- Its send buffer has gone to the other modules of the group. -/
  sent : Bool
  /-- The values the result buffer takes, once matched, and the elements of it that are still to be written. -/
  result : Option (List Byte)
  left : List Nat
  deriving DecidableEq, Repr

/-- What a member of another module has sent for its `coll` so far (R259, R330; log 24): the module, the member's index,
the contents of its group table, and the bytes of its send buffer. -/
structure Remote where
  src : Nat
  index : Nat
  contents : List Byte
  data : List Byte
  deriving DecidableEq, Repr

/-- A page migration (R239): the page, its new frame, its size and replicas, and the steps taken. -/
structure Migration where
  ctx : Nat
  page : Addr
  frame : Addr
  oldFrame : Addr
  size : Nat
  replicas : Nat
  drained : Bool
  deriving DecidableEq, Repr

/-- A line of the second-level cache: tags only, since it changes no value (R198). -/
structure Line where
  addr : Nat
  key : Nat
  ef : Bool
  used : Nat
  /-- It stands in a way that a retention register keeps for its range: 8 ctx + register (R199). -/
  kept : Option Nat
  deriving DecidableEq, Repr

end Sys2Proof.Machine
end

