-- ==== Sys2Proof/Machine/State.lean ====
section
/-! DEFINITION. The state of the Z8 module: everything the spec gives it, as plain data, and the machine right after
reset. -/

namespace Sys2Proof.Machine

/-- Why the machine stops with a fault. The phase-ending faults and traps of the spec are next states, not these. -/
inductive Fault where
  /-- Kept for a byte store that cannot address a place. No definition raises it. Safe. -/
  | noSuchPlace
  deriving DecidableEq, Repr

/-- Why a row has no meaning. -/
inductive Refusal where
  /-- Raised by an arm of `exec` for a row that is not modelled yet. Safe. -/
  | notModelled (mnemonic : String)
  deriving DecidableEq, Repr

structure State where
  /-- The cores, by global core identifier (R10); unlisted as `Core.reset`. -/
  cores : Store Core
  /-- The clusters, by 8 d + c; unlisted as `Cluster.reset`. -/
  clusters : Store Cluster
  /-- The dies 0 to 8; unlisted as `Die.reset`. -/
  dies : Store Die
  /-- HBM4E by place and the cellar by address, one byte a cell (R12, R200, R205). -/
  mem : Memory
  /-- The key generation under which a 64-byte unit was last written, by unit number (R206). -/
  keyTag : Store Nat
  /-- Words that fail ECC (R207). -/
  bad : List SoftPlace
  /-- Bytes of the cellar, from its first address, that the decoders claim (R200, R201). -/
  cellar : Nat
  /-- Lines of the second-level cache (R198). -/
  l2 : List Line
  hostMem : Memory
  contexts : Store Context
  fe : FrontEnd
  gov : Governor
  mgmt : Management
  ports : Store FabricPort
  boot : Boot
  spdm : Spdm
  colls : List Member
  remote : List Remote
  /-- Count records on their way (R316): receiver, sender, count, latency, and the tick in which it arrives. -/
  records : List (Nat × Nat × Nat × Nat × Nat)
  migrations : List Migration
  /-- Calls of `mapx` that have not returned (R310). -/
  mapxCalls : List MapxCall
  /-- The module's own fabric number, and the other modules that the fabric reaches (R257, R259). -/
  moduleNo : Nat
  reach : List Nat
  /-- Ticks since power-on. -/
  tick : Nat
  /-- The acting core. -/
  cur : Nat
  /-- Cores whose turn in this tick is still to come. -/
  turn : List Nat
  /-- The acting core has issued or ended a bundle in this tick. -/
  acted : Bool
  /-- Every core has had its turn in this tick: the front end and the module act. -/
  ended : Bool
  /-- The host's writes of this tick are being handled: completions and faults found from now on are handled in the next
  tick (R347). -/
  hostTurn : Bool
  /-- The end of the tick: its timers are being served, and those still to come. -/
  closing : Bool
  due : List Instr
  /-- Requests of the outside world that wait, in order, and the one that is answered. -/
  inputs : List Request
  req : Option Request
  /-- Free values used so far. -/
  free : Nat
  deriving DecidableEq, Repr

/-- The machine at power-on: nothing in memory, every core idle, boot at stage 0. -/
def State.reset : State where
  cores := []
  clusters := []
  dies := []
  mem := []
  keyTag := []
  bad := []
  cellar := 2 ^ 42
  l2 := []
  hostMem := []
  contexts := []
  fe := ⟨0, 0, [], [], 0, [], [], [], [], []⟩
  gov := ⟨[], [], 0, false⟩
  mgmt := ⟨[], false, false, 0, none, 0, [0], [], [], [], [], []⟩
  ports := []
  boot := ⟨false, 0, none, none, none, [], false, [], [], [], 0, [], []⟩
  spdm := ⟨false, false, false, []⟩
  colls := []
  remote := []
  records := []
  migrations := []
  mapxCalls := []
  moduleNo := 0
  reach := []
  tick := 0
  cur := 0
  turn := []
  acted := false
  ended := false
  hostTurn := false
  closing := false
  due := []
  inputs := []
  req := none
  free := 0

end Sys2Proof.Machine
end

