-- ==== Sys2Proof/Machine/Ops.lean ====
section
/-! DEFINITION. The named operations over the state that every meaning goes through: the acting core, registers, results
in flight, control registers, taking a fault and taking a trap. -/

namespace Sys2Proof.Machine

/-- The outcome of a row. -/
abbrev Out := Host.Outcome State Fault Refusal

/-! The acting core. -/

/-- A core by identifier. -/
def State.coreAt (s : State) (n : Nat) : Core := find Core.reset n s.cores
/-- Replace a core. -/
def State.setCoreAt (s : State) (n : Nat) (c : Core) : State := { s with cores := put n c s.cores }
/-- The acting core. -/
def State.core (s : State) : Core := s.coreAt s.cur
/-- Replace the acting core. -/
def State.setCore (s : State) (c : Core) : State := s.setCoreAt s.cur c
/-- Change the acting core. -/
def State.modCore (s : State) (g : Core → Core) : State := s.setCore (g s.core)
/-- Change a core by identifier. -/
def State.modCoreAt (s : State) (n : Nat) (g : Core → Core) : State := s.setCoreAt n (g (s.coreAt n))

/-- The cluster of a core, as 8 d + c, and its die (R10). -/
def clusterOf (core : Nat) : Nat := core / 8
def dieOf (core : Nat) : Nat := core / 64
/-- A cluster by number. -/
def State.clusterAt (s : State) (n : Nat) : Cluster := find Cluster.reset n s.clusters
/-- Replace a cluster. -/
def State.setClusterAt (s : State) (n : Nat) (c : Cluster) : State := { s with clusters := put n c s.clusters }
/-- Change a cluster. -/
def State.modClusterAt (s : State) (n : Nat) (g : Cluster → Cluster) : State := s.setClusterAt n (g (s.clusterAt n))
/-- The acting core's cluster. -/
def State.cluster (s : State) : Cluster := s.clusterAt (clusterOf s.cur)
/-- A die by identifier. -/
def State.dieAt (s : State) (n : Nat) : Die := find Die.reset n s.dies
/-- Replace a die. -/
def State.setDieAt (s : State) (n : Nat) (d : Die) : State := { s with dies := put n d s.dies }
/-- Change a die. -/
def State.modDieAt (s : State) (n : Nat) (g : Die → Die) : State := s.setDieAt n (g (s.dieAt n))

/-- Whether the bundle being issued belongs to the firmware context (R273). -/
def State.fwIssuing (s : State) : Bool := s.core.fw.issuing

/-- Change the bundle being issued. -/
def State.modIssue (s : State) (g : Issue → Issue) : State := s.modCore (fun c => { c with issue := g c.issue })
/-- Change the sequencing. -/
def State.modFlow (s : State) (g : Flow → Flow) : State := s.modCore (fun c => { c with flow := g c.flow })
/-- Change the memory side. -/
def State.modMem (s : State) (g : CoreMem → CoreMem) : State := s.modCore (fun c => { c with mem := g c.mem })
/-- Change the engines. -/
def State.modEng (s : State) (g : Engines → Engines) : State := s.modCore (fun c => { c with eng := g c.eng })
/-- Change the task. -/
def State.modTask (s : State) (g : Task → Task) : State := s.modCore (fun c => { c with task := g c.task })
/-- Change the firmware context. -/
def State.modFw (s : State) (g : Firmware → Firmware) : State := s.modCore (fun c => { c with fw := g c.fw })
/-- Change the loops. -/
def State.modLoops (s : State) (g : Loops → Loops) : State := s.modCore (fun c => { c with loops := g c.loops })
/-- Change the press. -/
def State.modPress (s : State) (g : Press → Press) : State := s.modCore (fun c => { c with press := g c.press })
/-- Change the registers. -/
def State.modRegs (s : State) (g : Regs → Regs) : State := s.modCore (fun c => { c with regs := g c.regs })
/-- Change the flight record. -/
def State.modFlight (s : State) (g : Flight → Flight) : State := s.modCore (fun c => { c with flight := g c.flight })

/-! Registers (R41, R42, R110). -/

/-- The register a name in a rotating window denotes (R110). -/
def rotate (rb : BitVec 4) (n : Nat) : Nat := if 32 ≤ n ∧ n < 48 then 32 + (n - 32 + rb.toNat) % 16 else n

/-- Read a scalar register by physical number: register 0 reads 0. -/
def Regs.readA (r : Regs) (n : Nat) : Word := if n = 0 then 0 else find 0 n r.a
/-- Write a scalar register by physical number: register 0 ignores writes. -/
def Regs.writeA (r : Regs) (n : Nat) (x : Word) : Regs := if n = 0 then r else { r with a := put n x r.a }
/-- Read a vector register by physical number. -/
def Regs.readV (r : Regs) (n : Nat) : Vec := find 0 n r.v
/-- Write a vector register by physical number. -/
def Regs.writeV (r : Regs) (n : Nat) (x : Vec) : Regs := { r with v := put n x r.v }
/-- Read a mask register: k0 reads all ones. -/
def Regs.readK (r : Regs) (n : Nat) : Word := if n = 0 then BitVec.allOnes 64 else find 0 n r.k
/-- Write a mask register: k0 ignores writes. -/
def Regs.writeK (r : Regs) (n : Nat) (x : Word) : Regs := if n = 0 then r else { r with k := put n x r.k }
/-- Read a control register that is held. -/
def Regs.readCsr (r : Regs) (n : Nat) : Word := find 0 n r.csr
/-- Write a control register that is held. -/
def Regs.writeCsr (r : Regs) (n : Nat) (x : Word) : Regs := { r with csr := put n x r.csr }

/-- The scalar register a field names, for the issuing context: an f register in a firmware bundle (R273). -/
def State.destA (s : State) (d : Reg) : Dest := if s.fwIssuing then .f d.toNat else .a (rotate s.core.regs.rb d.toNat)

/-- What a list of numbered values holds for a number. -/
def numbered {α : Type} (l : List (Nat × α)) (n : Nat) : Option α := (l.find? (fun p => p.1 == n)).map (fun p => p.2)

/-- What the operation that runs read at its first issue, when it is computed again (R270). -/
def State.recorded (s : State) : Option IssueReads := s.core.issue.again.map (fun g => g.entry.read)

/-- Read the scalar register a field names, as it stands (R46), or as it was read at the first issue (R270). -/
def State.readA (s : State) (r : Reg) : Word :=
  if s.fwIssuing then (if r = 0 then 0 else find 0 r.toNat s.core.fw.f)
  else (s.recorded.bind (fun x => numbered x.a r.toNat)).getD (s.core.regs.readA (rotate s.core.regs.rb r.toNat))

/-- Read the scalar register with a number that a multi-register operand names; numbers are taken modulo 64. -/
def State.readANum (s : State) (n : Nat) : Word := s.readA (BitVec.ofNat 6 n)

/-- Read the vector register a field names: a port gives the entry that the bundle popped (R224, R326). -/
def State.readV (s : State) (r : Reg) : Vec :=
  (s.recorded.bind (fun x => numbered x.v r.toNat)).getD
    (if 56 ≤ r.toNat then find 0 r.toNat s.core.issue.popped else s.core.regs.readV (rotate s.core.regs.rb r.toNat))

/-- Read the mask register a field names. -/
def State.readK (s : State) (k : BitVec 3) : Word :=
  (s.recorded.bind (fun x => numbered x.k k.toNat)).getD (s.core.regs.readK k.toNat)

/-- The steering bit of lane i. -/
def State.lane (s : State) (k : BitVec 3) (i : Nat) : Bool := (s.readK k).getLsbD i

/-- The steering bit of element j of width w (R107, R109). -/
def State.en (s : State) (k : BitVec 3) (w j : Nat) : Bool := s.lane k (laneOf w j)

/-- The rounding mode of `ctl.rm` (R45). -/
def State.rm (s : State) : Rounding :=
  roundingOf ((s.recorded.map (fun x => x.rm)).getD (s.core.regs.readCsr 0x001)).toNat

/-! Results in flight (R46, R47, R298). -/

/-- Whether the bundle being issued stands on an interlocked page (R298). -/
def State.interlocked (s : State) : Bool :=
  match s.core.issue.pos.ver.treat with
  | .interlocked => true
  | _ => false

/-- The delay bundles of the page (R49). -/
def State.delays (s : State) : Nat := if s.interlocked && !s.fwIssuing then 1 else 2

/-- A latency on vintage 3 and on vintage 2 (R55, R144, R183). -/
structure Latency where
  v3 : Nat
  v2 : Nat
  deriving DecidableEq, Repr

/-- A simple operation. -/
def lat1 : Latency := ⟨1, 1⟩

/-- A result as an entry: due at the end of bundle b + L - 1, or at its vintage landing. The result of an operation that
is computed again takes the place of its entry, ready after its real latency (R270). -/
def State.result (s : State) (slot : Nat) (d : Dest) (value en : Vec) (flags : FlagVec) (l : Latency) (ready : Bool) :
    Pending :=
  let c := s.core
  let b := if s.fwIssuing then c.fw.bundleNo else c.flow.bundleNo
  let il := s.interlocked && !s.fwIssuing
  match c.issue.again with
  | some g => { g.entry with value := value, en := en, flags := flags, ready := ready, readyTick := s.tick + g.entry.lat - 1 }
  | none =>
  { slot := slot, seq := c.issue.seq, dest := d, value := value, en := en, flags := flags,
    due := b + (if il then l.v2 else l.v3) - 1, ready := ready, readyTick := s.tick + l.v3 - 1,
    vintTick := s.tick + l.v2 - 1, interlocked := il,
    guarded := false, word := slotWord c.issue.word slot, lat := l.v3, read := c.issue.read, addr := c.issue.addr }

/-- Put a result in flight. -/
def State.land (s : State) (d : Dest) (value en : Vec) (flags : FlagVec) (l : Latency) (ready : Bool := true) : State :=
  let p := s.result s.core.issue.slot d value en flags l ready
  s.modCore (fun c =>
    let c := { c with issue := { c.issue with seq := c.issue.seq + 1 } }
    if c.fw.issuing then { c with fw := { c.fw with pend := c.fw.pend ++ [p] } }
    else { c with flow := { c.flow with pend := c.flow.pend ++ [p] } })

/-- The bits of a scalar result. -/
def scalarBits : Vec := BitVec.ofNat 2048 (2 ^ 64 - 1)

/-- Write a scalar register with latency l. -/
def State.landA (s : State) (d : Reg) (x : Word) (l : Latency) : State :=
  s.land (s.destA d) (x.setWidth 2048) scalarBits 0 l

/-- Write the enabled bits of a vector register. -/
def State.landV (s : State) (d : Reg) (x en : Vec) (flags : FlagVec) (l : Latency) : State :=
  s.land (.v (rotate s.core.regs.rb d.toNat)) x en flags l

/-- Write the enabled bits of a mask register. -/
def State.landK (s : State) (d : Nat) (x en : Word) (flags : FlagVec) (l : Latency) : State :=
  s.land (.k d) (x.setWidth 2048) (en.setWidth 2048) flags l

/-- Write a control register that is held. -/
def State.landCsr (s : State) (n : Nat) (x : Word) (l : Latency) : State :=
  s.land (.csr n) (x.setWidth 2048) scalarBits 0 l

/-! Loop levels and control registers that are computed (R43, R86). -/

/-- A loop level. -/
def Loops.level (l : Loops) (n : Nat) : LoopLevel := find LoopLevel.off n l.levels
/-- Replace a loop level. -/
def Loops.setLevel (l : Loops) (n : Nat) (x : LoopLevel) : Loops := { l with levels := put n x l.levels }
/-- Make a level inactive. -/
def Loops.end (l : Loops) (n : Nat) : Loops :=
  { l.setLevel n { l.level n with active := false, count := 0 } with order := l.order.filter (· != n) }

/-- Make every level inactive (R52). -/
def Loops.clear (l : Loops) : Loops :=
  { l with levels := l.levels.map (fun p => (p.1, { p.2 with active := false, count := 0 })), order := [], draining := none }

/-- `ctl.lc` n: 0 for an inactive level (R86). -/
def Loops.lc (l : Loops) (n : Nat) : BitVec 33 := if (l.level n).active then (l.level n).count else 0

/-- floor((t - stamp) * 0.9999) (R316). -/
def drifted (dt : Nat) : Nat := dt * 9999 / 10000

/-- Compute dies that bear on ring time: unfenced and at the nominal operating point (R316, R318). -/
def State.eligible (s : State) (d : Nat) : Bool := !(s.dieAt d).fenced && (s.dieAt d).point == 0

/-- The minimum of a list, if it has one. -/
def minOf : List Nat → Option Nat
  | [] => none
  | x :: r =>
    match minOf r with
    | none => some x
    | some y => some (min x y)

/-- The conservative estimate of ring time of a die (R316). -/
def State.ringEstimate (s : State) (d : Nat) : Nat :=
  let me := s.dieAt d
  let own := if s.eligible d then [me.count.toNat] else []
  let others := ((List.range 8).filter (fun j => j != d && s.eligible j)).map
    (fun j => find 0 j me.bound + drifted (me.count.toNat - find 0 j me.stamp))
  max me.floor ((minOf (own ++ others)).getD 0)

/-- Every die keeps what its estimate has reached: it never decreases (R317). -/
def State.keepEstimates (s : State) : State :=
  (List.range 8).foldl (fun (u : State) d => u.modDieAt d (fun x => { x with floor := s.ringEstimate d })) s

/-- Ring time: the smallest count of an eligible die (R316). -/
def State.ringTime (s : State) : Nat :=
  (minOf (((List.range 8).filter s.eligible).map (fun j => (s.dieAt j).count.toNat))).getD 0

/-- The bits of a user control register that are not reserved; the state space can hold others (R45, R85, R134, R277). -/
def csrMask (n : Nat) : Word :=
  if n = 0x001 then 0x3
  else if n = 0x002 then 0xF3
  else if n = 0x003 then 0x3FF
  else if n = 0x004 then 0x7FF0FFF
  else if 0x020 ≤ n ∧ n ≤ 0x02F then 0x1FFF
  else BitVec.allOnes 64

/-- The value `csrr` reads (R43): reserved bits read 0 (R85). -/
def State.readCsr (s : State) (n : Nat) : Word :=
  let c := s.core
  match n with
  | 0x000 => wordOf (s.ringEstimate (dieOf s.cur))
  | 0x007 => wordOf s.cur
  | 0x008 => wordOf (dieOf s.cur)
  | 0x009 => (c.issue.pos.ver.vint).setWidth 64
  | 0x030 => (c.loops.lc 0).setWidth 64
  | 0x031 => (c.loops.lc 1).setWidth 64
  | 0x032 => (c.loops.lc 2).setWidth 64
  | 0x033 => (c.loops.lc 3).setWidth 64
  | _ => c.regs.readCsr n &&& csrMask n

/-- Whether a format descriptor's fields agree (R133, R134). -/
def descriptorLegal (x : Word) : Bool :=
  let fmt := bits x 3 0
  let block := bits x 5 4
  let scale := bits x 6 6
  let trellis := bits x 8 7
  bits x 63 13 == 0 && fmt != 15 && block != 3 && decide (bits x 11 9 ≤ 4) &&
    (if fmt = 14 then block == 2 && scale == 1
     else if 4 ≤ fmt ∧ fmt ≤ 8 then decide (block ≤ 1) && scale == block && trellis == 0
     else block == 0 && scale == 0 && trellis == 0)

/-- Whether a value may be written to a control register: no reserved bit, no reserved field value (R43 to R45, R133,
R134, R278). -/
def csrValueLegal (n : Nat) (x : Word) : Bool :=
  if n = 0x001 then bits x 63 2 == 0
  else if n = 0x002 then bits x 3 2 == 0 && bits x 63 8 == 0
  else if n = 0x003 then bits x 63 10 == 0
  else if n = 0x004 then
    let base := bits x 11 0
    let depth := bits x 26 16
    bits x 15 12 == 0 && bits x 63 27 == 0 && decide (1 ≤ depth) && decide (depth ≤ 1024) && decide (base + depth ≤ 4096)
  else if 0x020 ≤ n ∧ n ≤ 0x02F then descriptorLegal x
  else if 0x030 ≤ n ∧ n ≤ 0x033 then bits x 63 33 == 0
  else if n = 0x100 then bits x 63 5 == 0
  else if n = 0x101 then bits x 63 16 == 0
  else if n = 0x102 then bits x 31 21 == 0
  else if n = 0x103 then bits x 63 11 == 0 && decide (bits x 10 0 ≤ 1024)
  else if 0x110 ≤ n ∧ n ≤ 0x113 then bits x 63 57 == 0
  else true

/-- Deliver a landed value to a control register. A write to the counter of an inactive level is discarded (R86); `ctl.task`
and `ctl.launch` hold 48 bits (R43, R45). Whether the level is active counts when the value lands: a `csrw` that issues with
a `loop` of its level writes the level that was set up (DESIGN CHOICE, log 86). -/
def Core.writeCsr (c : Core) (n : Nat) (x : Word) : Core :=
  if 0x030 ≤ n ∧ n ≤ 0x033 then
    let i := n - 0x030
    let l := c.loops.level i
    if l.active then { c with loops := c.loops.setLevel i { l with count := x.setWidth 33 } } else c
  else if n = 0x005 ∨ n = 0x006 then { c with regs := c.regs.writeCsr n (x &&& 0xFFFFFFFFFFFF) }
  else { c with regs := c.regs.writeCsr n x }

/-! Taking a fault and taking a trap (R265 to R270). -/

/-- The fault record W0 to W3 (R268). -/
def faultRecord (code slot : Nat) (fw imp cad fy : Bool) (tcode : Nat) (addr : Addr) (vaddr : Word) (core : Nat)
    (ring : Nat) : List Word :=
  [wordOf (code % 256 + place (slot % 16) 8 + place fw.toNat 12 + place imp.toNat 13 + place cad.toNat 14 +
      place fy.toNat 15 + place (tcode % 2 ^ 24) 16),
   addr.setWidth 64, vaddr, wordOf (core % 512 + place (ring % 2 ^ 32) 32)]

/-- Put a fault record into the state space (R268). -/
def Flight.setFault (f : Flight) (r : List Word) : Flight :=
  { f with fault := (List.range 4).zip r }

/-- Queue entries that go on after a fault: those that have been sent (R75, R105). -/
def sentEntries (q : List QueueEntry) : List QueueEntry :=
  q.filter (fun e => match e with
    | .access x => x.targets.isSome || x.bounced
    | .marker _ _ => true)

/-- End the phase with a fault: the record is written, the task stops, the bundle that raised it takes no effect, and
the register results still in flight are discarded; requests already sent go on (R75, R268, R333). The front end is told
by FAULT_REPORT. -/
def State.raise (s : State) (code slot : Nat) (addr : Addr) (vaddr : Word) (fw imp cad fy : Bool) (tcode : Nat) :
    State :=
  let r := faultRecord code slot fw imp cad fy tcode addr vaddr s.cur (s.ringEstimate (dieOf s.cur))
  s.modCore (fun c =>
    { c with
      flight := c.flight.setFault r
      issue := { Issue.none with seq := c.issue.seq }
      flow := { c.flow with pend := [], again := [], xfers := [], goto := none, wait := .none, finding := none, matched := [], noOps := false }
      loops := c.loops.clear
      press := { c.press with seqBeats := 0 }
      mem := { c.mem with loadQ := sentEntries c.mem.loadQ, storeQ := sentEntries c.mem.storeQ }
      eng := { c.eng with nests := [] }
      fw := { c.fw with mode := .idle, issuing := false, pend := [], xfers := [], event := none,
                        segment := none, bmaps := [], held := none }
      task := { c.task with status := .faulted, reported := false, preempt := false, leaveAsked := false } })

/-- Raise a fault at the bundle being issued. -/
def State.raiseHere (s : State) (code slot : Nat) (vaddr : Word) (tcode : Nat := 0) : State :=
  let i := s.core.issue
  if s.fwIssuing then s.raise code slot (BitVec.ofNat 48 s.core.fw.pc) vaddr true false false false tcode
  else s.raise code slot i.addr vaddr false false false false tcode

/-- An event for the firmware, behind those that wait (R274). -/
def State.queueEvent (s : State) (e : FwEvent) : State := s.modFw (fun f => { f with queue := f.queue ++ [e] })

/-- Stop for a recoverable trap: the finding is taken before the next bundle issues (R269). The first one reported
stays. -/
def State.report (s : State) (x : Finding) : State :=
  s.modFlow (fun f =>
    match f.finding, x with
    | none, _ => { f with finding := some x }
    | some (.trap _ _ _), .fault _ _ _ _ _ _ => { f with finding := some x }
    | some _, _ => f)

/-- Report a finding for a core (R265, R280). -/
def State.reportAt (s : State) (core : Nat) (x : Finding) : State :=
  { (({ s with cur := core } : State).report x) with cur := s.cur }

/-- A debug watch trap of the copy engine for a core: no access is made again to find it anew, so it waits while another
finding does (R280). -/
def State.reportMatch (s : State) (core : Nat) (x : Finding) : State :=
  if (s.coreAt core).flow.finding.isNone then s.reportAt core x
  else s.modCoreAt core (fun c =>
    if c.flow.finding = some x then c
    else { c with flow := { c.flow with matched := c.flow.matched.filter (· != x) ++ [x] } })

/-- What an operand check can answer (R75, R253, R267). -/
inductive Check where
  | fault (code : Nat) (vaddr : Word) (tcode : Nat)
  /-- A recoverable trap met by a table that an operand check reads (R257). -/
  | trap (cause : Nat) (vaddr : Word)
  | miss
  deriving DecidableEq, Repr

/-- A fault without an address. -/
def Check.code (c : Nat) : Check := .fault c 0 0

/-- Stop the bundle being issued for a trap found at issue: F is the bundle itself, and nothing in it takes effect
(R269). The core fetches it again after `resume`. -/
def State.trapHere (s : State) (cause slot : Nat) (vaddr : Word) : State :=
  let s := s.report (.trap cause slot vaddr)
  s.modCore (fun c =>
    { c with issue := { Issue.none with seq := c.issue.seq, setupSkip := c.issue.setupSkip }, flow := { c.flow with pos := c.issue.pos } })

/-- Take what a check answers, at the bundle being issued. -/
def State.takeCheck (s : State) (slot : Nat) (k : Check) : State :=
  match k with
  | .fault code vaddr tcode => s.raiseHere code slot vaddr tcode
  | .trap cause vaddr => s.trapHere cause slot vaddr
  | .miss => s.trapHere 0x04 slot 0

/-- The next state of a row. -/
def done (s : State) : Out := .next s

end Sys2Proof.Machine
end

