-- ==== Sys2Proof/Machine/Operands.lean ====
section
/-! DEFINITION. Operand forms: immediates, branch targets, effective addresses, barrier handles, format descriptors,
latencies, and the registers each operation reads and writes. -/

namespace Sys2Proof.Machine

/-! Immediates (R63, R64). -/

/-- The immediate of an AI operation, extended by `immx` of slot 1 when the operation stands in slot 0. -/
def State.immAI (s : State) (imm : BitVec 12) : Word :=
  match s.core.issue.immx with
  | some p => if s.core.issue.slot = 0 then (p ++ imm).signExtend 64 else imm.signExtend 64
  | none => imm.signExtend 64

/-- The immediate of `movi`, extended likewise. -/
def State.immAX (s : State) (imm : BitVec 18) : Word :=
  match s.core.issue.immx with
  | some p => if s.core.issue.slot = 0 then (p ++ imm).signExtend 64 else imm.signExtend 64
  | none => imm.signExtend 64

/-! Transfers (R88, R89). -/

/-- The target of a displacement as an exact integer. -/
def State.dispTarget {w : Nat} (s : State) (disp : BitVec w) : Int :=
  if s.fwIssuing then (s.core.fw.pc : Int) + 32 * disp.toInt else (s.core.issue.addr.toNat : Int) + 32 * disp.toInt

/-- R89: a displacement target above 2^48 - 32 or below 0 raises fault 0x05. -/
def dispCheck (t : Int) : Option Check :=
  if t < 0 ∨ (2 ^ 48 - 32 : Int) < t then some (.fault 0x05 (wordOfInt t) 0) else none

/-- R89: a register target with [63:48] nonzero raises fault 0x05, then one with [4:0] nonzero fault 0x11. -/
def targetCheck (t : Word) : Option Check :=
  if bits t 63 48 ≠ 0 then some (.fault 0x05 t 0)
  else if bits t 4 0 ≠ 0 then some (.fault 0x11 t 0)
  else none

/-! Addresses (R103, R208, R215). -/

/-- R103: the address of a scalar access with an offset. -/
def State.eaOff (s : State) (f : FormLD) : Word := s.readA f.base + f.imm.signExtend 64

/-- R103: an address check: [63:48] nonzero raises fault 0x05, misalignment fault 0x11. -/
def addrCheck (ea : Word) (size : Nat) : Option Check :=
  if bits ea 63 48 ≠ 0 then some (.fault 0x05 ea 0)
  else if ea.toNat % size ≠ 0 then some (.fault 0x11 ea 0)
  else none

/-- The log2 of the size of a vector element by wid (R208). -/
def widLog (wid : Nat) : Nat :=
  match wid % 4 with
  | 0 => 2
  | 1 => 1
  | 2 => 0
  | _ => 3

/-- The element size in bytes. -/
def lvSize (f : FormLV) : Nat := 2 ^ widLog f.ty.toNat

/-- The kinds of address a vector access makes (R208). -/
inductive VecMode where
  | unit | strided | indexed | one
  deriving DecidableEq, Repr

/-- R208: the address of element j. -/
def vecAddr (mode : VecMode) (base t : Word) (idx : Vec) (lg : Nat) (scaled : Bool) (j : Nat) : Word :=
  match mode with
  | .unit => base + t + wordOf (j * 2 ^ lg)
  | .strided => base + wordOf j * t
  | .indexed =>
    let i := BitVec.ofInt 64 (elem idx (8 * 2 ^ lg) j).toInt
    base + (if scaled then i <<< lg else i)
  | .one => base + t

/-- The elements a vector access makes, enabled ones only, in ascending order (R108, R209). `vldb` makes one, for its
lowest enabled element (R210). -/
def vecElems (mode : VecMode) (lg : Nat) (scaled : Bool) (o : MemOperands) : List MemElem :=
  let n := 256 / 2 ^ lg
  let w := 8 * 2 ^ lg
  let all := (List.range n).filter (fun j => o.mask.getLsbD (laneOf w j))
  let picked := if mode = .one then all.take 1 else all
  picked.map (fun j => ⟨j, vecAddr mode o.base o.t o.vidx lg scaled j, 2 ^ lg⟩)

/-- R209: the lowest-numbered failing element decides. -/
def elemsCheck : List MemElem → Option Check
  | [] => none
  | e :: r =>
    match addrCheck e.va e.size with
    | some c => some c
    | none => elemsCheck r

/-- The memory operands of an operation as read at issue. -/
def State.lvOperands (s : State) (f : FormLV) : MemOperands :=
  ⟨s.readA f.base, s.readA f.t, s.readA f.vd, s.readV f.vd, s.readV f.t, s.readK f.k⟩

/-- The memory operands of a scalar access with an offset: t carries the offset. -/
def State.ldOperands (s : State) (f : FormLD) : MemOperands :=
  ⟨s.readA f.base, f.imm.signExtend 64, s.readA f.d, 0, 0, 0⟩

/-- The memory operands of an atomic: data is x, t the comparison value (R216). -/
def State.amoOperands (s : State) (f : FormAMO) : MemOperands := ⟨s.readA f.base, s.readA f.d, s.readA f.s, 0, 0, 0⟩

/-- The size of `ldx` and `stx` kinds: log2 and sign (R103, R104). -/
def ldxKind (ty : BitVec 3) : Nat × Bool :=
  match ty.toNat with
  | 0 => (0, true)
  | 1 => (0, false)
  | 2 => (1, true)
  | 3 => (1, false)
  | 4 => (2, true)
  | 5 => (2, false)
  | _ => (3, false)

/-! Barrier handles (R98, R253). -/

/-- The depth of the window that bounds a barrier operand. -/
def State.barDepth (s : State) : Nat := bits (s.readCsr 0x004) 26 16

/-- R98: the handle of a relative number; none when it is outside the window. -/
def State.handle (s : State) (rel : BitVec 10) : Option Nat :=
  let depth := s.barDepth
  if depth = 0 ∨ depth ≤ rel.toNat then none
  else some (bits (s.readCsr 0x004) 11 0 + ((s.readCsr 0x003).toNat + rel.toNat) % depth)

/-- The context of a core, from `ctl.ctx` (R278). -/
def Core.ctxId (c : Core) : Nat := bits (c.regs.readCsr 0x102) 11 0

/-- A context that does not exist. -/
def Context.none : Context := ⟨0, 0, 0, 0, 0, 0, 1, 0, 0, [], Option.none, [], [], [], [], []⟩

/-- A context by identifier. -/
def State.ctxAt (s : State) (n : Nat) : Context := find Context.none n s.contexts
/-- Replace a context. -/
def State.setCtxAt (s : State) (n : Nat) (c : Context) : State := { s with contexts := put n c s.contexts }
/-- Change a context. -/
def State.modCtxAt (s : State) (n : Nat) (g : Context → Context) : State := s.setCtxAt n (g (s.ctxAt n))

/-- R253: the physical barrier of a handle; none when the table entry is invalid. Each context of a partition has a table
of its own, as R253 has it; the barrier table that R17 and R355 count among a partition's resources is the room for them
(DESIGN CHOICE, log 74). -/
def State.physBarrier (s : State) (h : Nat) : Option Nat :=
  let e := find 0 h (s.ctxAt s.core.ctxId).btab
  if e.getLsbD 10 then some (bits e 9 0) else none

/-- The checks of a barrier operand: the window, and last of all the table entry (R98, R249, R253). -/
def State.barCheck (s : State) (rel : BitVec 10) : Option Check :=
  match s.handle rel with
  | none => some (.code 0x07)
  | some h =>
    match s.physBarrier h with
    | none => some .miss
    | some _ => none

/-- The physical barrier of an operand that has passed its checks. -/
def State.barrierOf (s : State) (rel : BitVec 10) : Nat := ((s.handle rel).bind s.physBarrier).getD 0

/-! Formats through the format table (R135). -/

/-- R135: the descriptor that code 15 resolves to. -/
def State.descriptor (s : State) : Word :=
  let sel := bits (s.readCsr 0x002) 1 0
  let base := bits (s.readCsr 0x002) 7 4
  let j := ((s.core.loops.lc sel).toNat + base) % 16
  s.readCsr (0x020 + j)

/-- The rounding mode a descriptor names (R133). -/
def State.descRounding (s : State) (d : Word) : Rounding :=
  let m := bits d 11 9
  if m = 4 then s.rm else roundingOf m

/-! Latencies (R55, R144, R183). -/

/-- The latency of an operation on vintage 3 and vintage 2 pages. -/
def latency : Instr → Latency
  | .mul _ | .mulh _ | .mulhu _ | .madd _ => ⟨3, 3⟩
  | .div _ | .divu _ | .rem _ | .remu _ => ⟨18, 24⟩
  | .ldB _ | .ldBu _ | .ldH _ | .ldHu _ | .ldW _ | .ldWu _ | .ldD _ | .ldx _ => ⟨6, 4⟩
  | .vld _ | .vldEf _ | .vlds _ | .vldx _ | .vldb _ => ⟨6, 4⟩
  | .amoAdd _ | .amoFadd _ | .amoMin _ | .amoMax _ | .amoMinu _ | .amoMaxu _ | .amoAnd _ | .amoOr _ | .amoXor _
  | .amoSwap _ | .amoCas _ | .amoFmin _ | .amoFmax _ => ⟨6, 4⟩
  | .vfadd _ | .vfsub _ | .vfmul _ | .vfma _ | .vfms _ => ⟨4, 3⟩
  | .vfmin _ | .vfmax _ | .vfabs _ | .vfneg _ | .vfceq _ | .vfclt _ | .vfcle _ | .vfcun _ => ⟨2, 2⟩
  | .vfrcp _ | .vfrsq _ | .vfexp2 _ | .vflog2 _ => ⟨8, 8⟩
  | .vadd _ | .vsub _ | .vmul _ | .vmulh _ | .vmin _ | .vmax _ | .vminu _ | .vmaxu _ | .vand _ | .vor _ | .vxor _
  | .vshl _ | .vshr _ | .vsar _ | .vceq _ | .vclt _ | .vcltu _ | .vsel _ | .vaddsat _ | .vsubsat _ => ⟨2, 2⟩
  | .vperm _ | .vslide _ _ _ | .vslideR _ _ _ | .viota _ | .vbcast _ | .vmovs _ _ _ _ _ | .vinsl _ _ _ _ => ⟨2, 2⟩
  | .vredsum _ | .vredmax _ | .vredmin _ => ⟨6, 5⟩
  | .vcvt _ | .vcvts _ | .vmaxabs _ _ _ _ _ _ | .vdecb _ _ _ _ | .vdecbTab _ _ _ => ⟨3, 3⟩
  | .vsplit _ _ _ _ _ _ | .vsexp _ | .vscalb _ => ⟨4, 4⟩
  | .vflags _ _ | .vflagsSet _ _ => ⟨2, 2⟩
  | .pdrain _ _ _ _ _ _ _ => ⟨4, 4⟩
  | _ => lat1

/-! The registers an operation reads and writes, for ports (R42), the edge guard (R301), interlocked pages (R298) and
the register checks of a firmware bundle (R276). -/

/-- A destination or a source, by the name a field gives. -/
inductive RegName where
  | a (n : Nat)
  | v (n : Nat)
  | k (n : Nat)
  | csr (n : Nat)
  | trellis (t blk : Nat)
  | flags
  deriving DecidableEq, Repr

/-- Control registers a format field of 15 reads (R135). -/
def formatReads : List RegName :=
  [.csr 0x001, .csr 0x002, .csr 0x030, .csr 0x031, .csr 0x032, .csr 0x033] ++
    (List.range 16).map (fun j => .csr (0x020 + j))

/-- The control registers a barrier operand reads (R98). -/
def barReads : List RegName := [.csr 0x003, .csr 0x004]

def arReads (f : FormAR) : List RegName := [.a f.s.toNat, .a f.t.toNat]
def lvReads (f : FormLV) : List RegName := [.a f.base.toNat, .a f.t.toNat]
def vrReads2 (f : FormVR) : List RegName := [.v f.vs.toNat, .v f.vt.toNat, .k f.k.toNat]
def vrReads1 (f : FormVR) : List RegName := [.v f.vs.toNat, .k f.k.toNat]
def vrFpReads2 (f : FormVR) : List RegName := vrReads2 f ++ [.csr 0x001]

/-- The twelve registers of a layout record and the pair of its origin (R240, R243). -/
def recordReads (g o : Reg) : List RegName :=
  (List.range 12).map (fun i => .a (g.toNat + i)) ++ [.a o.toNat, .a (o.toNat + 1)] ++ formatReads

/-- The mask or control register destinations that a masked write keeps bits of are not reads. -/
def reads : Instr → List RegName
  | .add f | .sub f | .and f | .or f | .xor f | .andn f | .shl f | .shr f | .sar f | .min f | .max f | .minu f | .maxu f
  | .slt f | .sltu f | .seq f | .sne f | .mul f | .mulh f | .mulhu f | .div f | .divu f | .rem f | .remu f => arReads f
  | .clz f | .ctz f | .popc f => [.a f.s.toNat]
  | .addi f | .andi f | .ori f | .xori f | .slti f | .sltui f | .shli f | .shri f | .sari f => [.a f.s.toNat]
  | .movk f => [.a f.d.toNat]
  | .madd f | .sel f => [.a f.s.toNat, .a f.t.toNat, .a f.u.toNat]
  | .lea f => [.a f.s.toNat, .a f.t.toNat]
  | .bfx f | .bfxz f => [.a f.s.toNat]
  | .bfi f => [.a f.d.toNat, .a f.s.toNat]
  | .csrr f => [.csr f.imm.toNat]
  | .csrw f => [.a f.s.toNat]
  | .brEq f | .brNe f | .brLt f | .brGe f | .brLtu f | .brGeu f => [.a f.s.toNat, .a f.t.toNat]
  | .bz r _ | .bnz r _ => [.a r.toNat]
  | .jmpr r | .callr r => [.a r.toNat]
  | .ret => [.a 1]
  | .loop f => [.a f.cnt.toNat]
  | .alignr r => [.a r.toNat]
  | .bwait _ => barReads
  | .barm _ c _ => .a c.toNat :: barReads
  | .bbadv => [.csr 0x003]
  | .ldB f | .ldBu f | .ldH f | .ldHu f | .ldW f | .ldWu f | .ldD f | .pref f | .wbk f => [.a f.base.toNat]
  | .ldx f => lvReads f
  | .vld f | .vldEf f | .vldb f => .k f.k.toNat :: lvReads f
  | .vlds f => .k f.k.toNat :: lvReads f
  | .vldx f => [.a f.base.toNat, .v f.t.toNat, .k f.k.toNat]
  | .stB f | .stH f | .stW f | .stD f => [.a f.d.toNat, .a f.base.toNat]
  | .stx f => .a f.vd.toNat :: lvReads f
  | .vst f | .vstEf f | .vsts f | .vstmc f => [.v f.vd.toNat, .k f.k.toNat] ++ lvReads f
  | .vstx f => [.v f.vd.toNat, .a f.base.toNat, .v f.t.toNat, .k f.k.toNat]
  | .amoCas f => [.a f.d.toNat, .a f.base.toNat, .a f.s.toNat]
  | .amoAdd f | .amoFadd f | .amoMin f | .amoMax f | .amoMinu f | .amoMaxu f | .amoAnd f | .amoOr f | .amoXor f
  | .amoSwap f | .amoFmin f | .amoFmax f | .redAdd f | .redFadd f | .redMin f | .redMax f | .redMinu f | .redMaxu f
  | .redAnd f | .redOr f | .redXor f | .redFmin f | .redFmax f => [.a f.base.toNat, .a f.s.toNat]
  | .pin size base _ _ => [.a size.toNat, .a base.toNat]
  | .tsend vs _ _ => [.v vs.toNat]
  | .vfadd f | .vfsub f | .vfmul f | .vscalb f => vrFpReads2 f
  | .vfma f | .vfms f => vrReads2 f ++ [.v f.vd.toNat, .csr 0x001]
  | .vfmin f | .vfmax f | .vfceq f | .vfclt f | .vfcle f | .vfcun f | .vsexp f => vrReads2 f
  | .vfabs f | .vfneg f => vrReads1 f
  | .vfrcp f | .vfrsq f | .vfexp2 f | .vflog2 f => vrReads1 f ++ [.csr 0x001]
  | .vadd f | .vsub f | .vmul f | .vmulh f | .vmin f | .vmax f | .vminu f | .vmaxu f | .vand f | .vor f | .vxor f
  | .vshl f | .vshr f | .vsar f | .vceq f | .vclt f | .vcltu f | .vsel f | .vaddsat f | .vsubsat f | .vperm f => vrReads2 f
  | .vslide _ vs _ | .vslideR _ vs _ => [.v vs.toNat]
  | .viota f => [.k f.k.toNat]
  | .vbcast f => [.a f.vs.toNat, .k f.k.toNat]
  | .vmovs _ vs _ _ _ => [.v vs.toNat]
  | .vinsl _ vs _ _ => [.a vs.toNat]
  | .vredsum f => vrReads1 f ++ [.csr 0x001]
  | .vredmax f | .vredmin f => vrReads1 f
  | .kopAnd _ a b k | .kopOr _ a b k | .kopXor _ a b k | .kopAndn _ a b k => [.k a.toNat, .k b.toNat, .k k.toNat]
  | .kpop _ ks k | .kpopMv _ ks k | .kpopFf _ ks k => [.k ks.toNat, .k k.toNat]
  | .kfrom _ r | .kset _ r => [.a r.toNat]
  | .vcvt f => .v f.vs.toNat :: (if f.fsrc == 15 || f.fdst == 15 then formatReads else [])
  | .vcvts f =>
    [.v f.vs.toNat, .csr 0x001, .csr (0x010 + f.rm.toNat)] ++ (if f.fsrc == 15 || f.fdst == 15 then formatReads else [])
  | .vmaxabs fmt _ vs k _ _ => [.v vs.toNat, .k k.toNat] ++ (if fmt == 15 then formatReads else [])
  | .vdecb _ vs t _ => .v vs.toNat :: (List.range 8).map (fun b => .trellis t.toNat b)
  | .vdecbTab _ vs _ => [.v vs.toNat]
  | .vsplit _ vs ve _ _ _ => [.v vs.toNat, .v ve.toNat]
  | .vflags _ _ => [.flags]
  | .vflagsSet _ vs => [.v vs.toNat, .flags]
  | .ppush vs _ _ | .pfill vs _ | .pfillN vs _ => [.v vs.toNat]
  | .pexpRows vs _ _ | .pexpCols vs _ _ _ _ => [.v vs.toNat]
  | .cgoIn f | .cgoOut f | .cstart f | .cstartOut f => recordReads f.g f.o ++ barReads
  | .cseq _ c r => [.a c.toNat, .a r.toNat, .a (r.toNat + 1), .a (r.toNat + 2)]
  | .sbindIn f | .sbindOut f => recordReads f.g f.o
  | .collAllreduceSum f | .collAllreduceMax f | .collAllgather f | .collRscatterSum f | .collRscatterMax f
  | .collBcast f => .a f.g.toNat :: barReads
  | .tlbinv _ r _ | .csrwp r _ | .vinval r _ => [.a r.toNat]
  | .flread _ fi => [.a fi.toNat]
  | .flwrite fs fi => [.a fs.toNat, .a fi.toNat]
  | .bmap fh fe => [.a fh.toNat, .a fe.toNat]
  | _ => []

/-- The destinations an operation writes. -/
def writes : Instr → List RegName
  | .add f | .sub f | .and f | .or f | .xor f | .andn f | .shl f | .shr f | .sar f | .min f | .max f | .minu f | .maxu f
  | .slt f | .sltu f | .seq f | .sne f | .mul f | .mulh f | .mulhu f | .div f | .divu f | .rem f | .remu f | .clz f
  | .ctz f | .popc f => [.a f.d.toNat]
  | .addi f | .andi f | .ori f | .xori f | .slti f | .sltui f | .shli f | .shri f | .sari f => [.a f.d.toNat]
  | .movi f => [.a f.d.toNat]
  | .movk f => [.a f.d.toNat]
  | .madd f | .sel f | .lea f | .bfx f | .bfxz f | .bfi f => [.a f.d.toNat]
  | .csrr f => [.a f.d.toNat]
  | .csrw f => [.csr f.imm.toNat]
  | .call _ | .callr _ => [.a 1]
  | .loop f | .loopi f => [.csr (0x030 + f.lvl.toNat)]
  | .lbrk l => [.csr (0x030 + l.toNat)]
  | .bbadv => [.csr 0x003]
  | .ldB f | .ldBu f | .ldH f | .ldHu f | .ldW f | .ldWu f | .ldD f => [.a f.d.toNat]
  | .ldx f => [.a f.vd.toNat]
  | .vld f | .vldEf f | .vlds f | .vldx f | .vldb f => [.v f.vd.toNat]
  | .amoAdd _ | .amoFadd _ | .amoMin _ | .amoMax _ | .amoMinu _ | .amoMaxu _ | .amoAnd _ | .amoOr _ | .amoXor _
  | .amoSwap _ | .amoCas _ | .amoFmin _ | .amoFmax _ => [.a 63]
  | .vfadd f | .vfsub f | .vfmul f | .vfma f | .vfms f | .vfmin f | .vfmax f | .vfabs f | .vfneg f | .vfrcp f | .vfrsq f
  | .vfexp2 f | .vflog2 f | .vadd f | .vsub f | .vmul f | .vmulh f | .vmin f | .vmax f | .vminu f | .vmaxu f | .vand f
  | .vor f | .vxor f | .vshl f | .vshr f | .vsar f | .vsel f | .vaddsat f | .vsubsat f | .vperm f | .viota f | .vbcast f
  | .vredsum f | .vredmax f | .vredmin f | .vsexp f | .vscalb f => [.v f.vd.toNat]
  | .vfceq f | .vfclt f | .vfcle f | .vfcun f | .vceq f | .vclt f | .vcltu f => [.k f.vd.toNat]
  | .vslide vd _ _ | .vslideR vd _ _ | .vinsl vd _ _ _ | .vsplit vd _ _ _ _ _ | .vdecb vd _ _ _ => [.v vd.toNat]
  | .vmovs d _ _ _ _ => [.a d.toNat]
  | .kopAnd d _ _ _ | .kopOr d _ _ _ | .kopXor d _ _ _ | .kopAndn d _ _ _ => [.k d.toNat]
  | .kpop d _ _ | .kpopMv d _ _ | .kpopFf d _ _ => [.a d.toNat]
  | .kfrom d _ | .kset d _ => [.k d.toNat]
  | .vcvt f | .vcvts f => [.v f.vd.toNat]
  | .vmaxabs _ latch _ _ _ _ => [.csr (0x010 + latch.toNat)]
  | .vdecbTab blk _ t => [.trellis t.toNat blk.toNat]
  | .vflags vd _ | .vflagsSet vd _ => [.v vd.toNat, .flags]
  | .pdrain vd _ _ _ _ _ _ => [.v vd.toNat]
  | .pclrSt d _ => [.a d.toNat]
  | .csrrp d _ | .flread d _ => [.a d.toNat]
  | _ => []

/-- What an operation reads as it issues (R271). -/
def State.readsOf (s : State) (i : Instr) : IssueReads where
  a := (reads i).filterMap (fun n => match n with
    | .a k => some (k % 64, s.readANum k)
    | _ => none)
  v := (reads i).filterMap (fun n => match n with
    | .v k => some (k, s.readV (BitVec.ofNat 6 k))
    | _ => none)
  k := (reads i).filterMap (fun n => match n with
    | .k k => some (k, s.readK (BitVec.ofNat 3 k))
    | _ => none)
  rm := s.core.regs.readCsr 0x001

/-- Whether every operand of an operation stands in a record: registers and `ctl.rm` (R271, log 65). -/
def reissuable (i : Instr) : Bool :=
  (reads i).all (fun n => match n with
    | .a _ | .v _ | .k _ => true
    | .csr c => c == 0x001
    | .trellis _ _ | .flags => false) &&
  (match i with
   | .pdrain _ _ _ _ _ _ _ => false
   | _ => true)

end Sys2Proof.Machine
end

