-- ==== Sys2Proof/Machine/Memory.lean ====
section
/-! DEFINITION. The levels of memory: placement and the key of each unit (R205, R206), page tables and the caches of
translations (R202 to R204), the cluster cache (R197), the second-level cache (R198) and the cluster banks (R195). -/

namespace Sys2Proof.Machine

/-! Placement (R200, R205). -/

/-- The first address of the cellar, and the first reserved one. -/
def cellarBase : Nat := 0x010000000000
def reservedBase : Nat := 0x050000000000

/-- The partition of a context. -/
def State.partOf (s : State) (ctx : Nat) : Resources :=
  find ⟨[], [], [], [], [], [], []⟩ (s.ctxAt ctx).part s.mgmt.partitions

/-- The dies a partition stands on: its dies, or the one die of its clusters (R17). -/
def dieList (r : Resources) : List Nat :=
  (List.range 8).filter (fun d => r.dies.contains d || r.clusters.any (fun c => c / 8 == d))

/-- The clusters of a partition in ascending order (R17). -/
def clusterList (r : Resources) : List Nat :=
  (List.range 64).filter (fun c => r.dies.contains (c / 8) || r.clusters.contains c)

/-- The pseudo-channel sets of a partition in ascending order: all 8 of a whole die, and those named (R17). -/
def setList (r : Resources) : List Nat :=
  (List.range 64).filter (fun x => r.dies.contains (x / 8) || r.sets.contains x)

/-- R205: the place of a pool address, as set * 2^34 + pseudo-channel * 2^28 + row * 2^8 + byte. -/
def poolPlace (sets : List Nat) (seed : BitVec 32) (pa : Nat) : Option Nat :=
  let m := sets.length
  if m = 0 then none
  else
    let g := pa / 2 ^ 12
    let q := g / m
    let r := g % m
    if 2 ^ 22 ≤ q then none
    else
      let w := q / 4
      let h := ((w ^^^ seed.toNat) * 0x9E3779B1 % 2 ^ 32) / 2 ^ 16
      let set := sets.getD ((r + h) % m) 0
      let u := pa / 2 ^ 8 % 16
      let pc := (16 * (q % 4) + u) ^^^ (h % 64)
      some (set * 2 ^ 34 + pc * 2 ^ 28 + w * 2 ^ 8 + pa % 2 ^ 8)

/-- How an agent reaches memory: for a context, under a key, with a placement seed (R205, R206). -/
structure View where
  ctx : Nat
  key : Nat
  seed : BitVec 32
  deriving DecidableEq, Repr

/-- A key: a slot and its generation; never 0. -/
def keyFrom (slot gen : Nat) : Nat := 1 + slot + 256 * gen
/-- The slot of a key. -/
def keySlot (key : Nat) : Nat := (key - 1) % 256

/-- The key that a context reads and writes under (R206). -/
def State.keyOf (s : State) (ctx : Nat) : Nat := keyFrom (s.ctxAt ctx).key.toNat (s.ctxAt ctx).keyGen

/-- How the front end and the control OS reach a context's memory. -/
def State.ctxView (s : State) (ctx : Nat) : View := ⟨ctx, s.keyOf ctx, (s.ctxAt ctx).seed⟩

/-- How a core and its engines reach memory: context, key slot and seed stand in `ctl.ctx` (R278). -/
def State.coreView (s : State) (core : Nat) : View :=
  let x := (s.coreAt core).regs.readCsr 0x102
  let slot := bits x 19 12
  ⟨bits x 11 0, keyFrom slot (find 0 slot s.mgmt.keyGen), BitVec.ofNat 32 (bits x 63 32)⟩

/-- The device address of a physical address in a view; none where nothing stands (R200). -/
def State.addrIn (s : State) (v : View) (pa : Nat) : Option Nat :=
  if pa < cellarBase then poolPlace (setList (s.partOf v.ctx)) v.seed pa
  else if pa < min reservedBase (cellarBase + s.cellar) then some pa
  else none

/-- The device address of a physical address in a context. -/
def State.devAddr (s : State) (ctx pa : Nat) : Option Nat := s.addrIn (s.ctxView ctx) pa

/-! Keys and errors (R206, R207). -/

/-- A byte of HBM4E or the cellar as a key reads it: the byte of a unit written under another key is a free value. A
unit that nothing has written reads as memory holds it. -/
def State.devByte (s : State) (key a : Nat) : Byte :=
  let b := readByte s.mem a
  let t := find 0 (a / 64) s.keyTag
  if t = 0 ∨ t = key then b else Config.foreignByte key a b

/-- Write a byte under a key. The rest of a unit of another key is decrypted and encrypted again with it. -/
def State.devWrite (s : State) (key a : Nat) (b : Byte) : State :=
  let u := a / 64
  let t := find 0 u s.keyTag
  if t = key then { s with mem := writeByte s.mem a b }
  else
    let old := (List.range 64).map (fun i => s.devByte key (64 * u + i))
    { s with mem := writeByte (writeBytes s.mem (64 * u) old) a b, keyTag := put u key s.keyTag }

/-- Write bytes upward under a key. -/
def State.devWrites (s : State) (key a : Nat) : List Byte → State
  | [] => s
  | b :: r => (s.devWrite key a b).devWrites key (a + 1) r

/-- Whether n bytes from an address meet word w. -/
def meetsWord (w a n : Nat) : Bool := decide (w ≤ (a + n - 1) / 8) && decide (a / 8 ≤ w)

/-- Whether a range meets a word of HBM4E or the cellar that fails ECC (R207). -/
def State.badRange (s : State) (a n : Nat) : Bool :=
  s.bad.any (fun p => match p with
    | .memory w => meetsWord w a n
    | _ => false)

/-- Whether a read through the second-level cache meets a word that fails ECC, in it or below it. -/
def State.badLine (s : State) (a n : Nat) : Bool :=
  s.badRange a n || s.bad.any (fun p => match p with
    | .line w => meetsWord w a n
    | _ => false)

/-- Whether a read of a cluster's banks meets a word that fails ECC: as a block of its cache, by device address, or as a
scratchpad or FIFO bank, by window offset. -/
def State.badCached (s : State) (cl a n : Nat) : Bool :=
  s.bad.any (fun p => match p with
    | .cached c w => c == cl && meetsWord w a n
    | _ => false)
def State.badBank (s : State) (cl off n : Nat) : Bool :=
  s.bad.any (fun p => match p with
    | .bank c w => c == cl && meetsWord w off n
    | _ => false)

/-- Whether a place is a copy of a word of memory. -/
def copyOfWord (w : Nat) (p : SoftPlace) : Bool :=
  match p with
  | .line x | .cached _ x => x == w
  | _ => false

/-- R207: words of memory are retired: cached copies are dropped, and every later read fails. The second-level lines of the
physical address pa are among the copies. -/
def State.retire (s : State) (a pa n : Nat) : State :=
  let ws := (List.range ((a + n - 1) / 8 + 1 - a / 8)).map (fun i => a / 8 + i)
  { s with
    bad := ws.foldl (fun l w => .memory w :: l.filter (fun p => p != .memory w && !copyOfWord w p)) s.bad
    l2 := s.l2.filter (fun l => l.addr != pa / 128)
    clusters := s.clusters.map (fun p => (p.1, { p.2 with cache := ws.foldl (fun c w => drop (w / 2) c) p.2.cache })) }

/-- The words of a range that fail: the range itself cut down to them. -/
def State.retireBad (s : State) (a pa n : Nat) (bad : State → Nat → Nat → Bool) : State :=
  (List.range ((a + n - 1) / 8 + 1 - a / 8)).foldl
    (fun (u : State) i => if bad s (8 * (a / 8 + i)) 8 then u.retire (8 * (a / 8 + i)) pa 8 else u) s

/-- R207: an error that no access of a core meets, as in a write-back or a prefetch: it ends a task of the context that runs
or has halted and is not complete, and so its phase; else a phase of the context that still runs; where none runs it is
recorded as the context's last fault, which the summary snapshot shows (log 75). -/
def State.contextError (s : State) (ctx : Nat) : State :=
  match s.cores.find? (fun p => p.2.ctxId == ctx && (p.2.task.status == .running || p.2.task.status == .halted)) with
  | some p => s.reportAt p.1 (.fault 0x0D 0xF p.2.flow.pos.ver.page 0 true 0)
  | none =>
    match s.fe.phases.find? (fun p => p.2.ctx == ctx && (!p.2.timed || p.2.start.isSome)) with
    | some (id, p) =>
      let rec_ := faultRecord 0x0D 0xF false true false false 0 p.node 0 0 s.ringTime
      { s with fe := { s.fe with phases := put id { p with fault := some (p.fault.getD rec_) } s.fe.phases } }
    | none => s.modCtxAt ctx (fun c =>
        { c with lastFault := faultRecord 0x0D 0xF false true false false 0 0 0 0 s.ringTime })

/-! The second-level cache: tags only (R198, R199). -/

/-- The home slice of a physical address: the XOR of its seven groups. -/
def homeSlice (pa : Nat) : Nat :=
  (pa / 2 ^ 7 % 64) ^^^ (pa / 2 ^ 13 % 64) ^^^ (pa / 2 ^ 19 % 64) ^^^ (pa / 2 ^ 25 % 64) ^^^ (pa / 2 ^ 31 % 64) ^^^
    (pa / 2 ^ 37 % 64) ^^^ (pa / 2 ^ 43 % 32)

/-- The set of a physical address in its slice. -/
def l2Set (pa : Nat) : Nat := pa / 2 ^ 7 % 8192

/-- The retention registers in effect of the contexts of a partition (R199), each with its number 8 ctx + register. -/
def State.retainers (s : State) (part : Nat) : List (Nat × Retention) :=
  (s.contexts.filter (fun c => c.2.part == part)).flatMap (fun c =>
    (c.2.retain.filter (fun p => p.2.active && decide (0 < p.2.ways))).map (fun p => (8 * c.1 + p.1, p.2)))

/-- Whether the range of a retention register holds a line. -/
def Retention.holds (r : Retention) (line : Nat) : Bool :=
  r.ranges.any (fun x => decide (x.1 ≤ line * 128) && decide (line * 128 < x.1 + x.2))

/-- The victim of a list of lines: evict-first before others, least recently used among equals. -/
def l2Victim : List Line → Option Line
  | [] => none
  | x :: r =>
    match l2Victim r with
    | none => some x
    | some y =>
      if x.ef && !y.ef then some x else if y.ef && !x.ef then some y else if x.used < y.used then some x else some y

/-- Whether a line lies in the slice and set of a physical address, and belongs to a partition: its key slot does (R198). -/
def Line.peer (l : Line) (r : Resources) (pa : Nat) : Bool :=
  r.keys.contains (keySlot l.key) && homeSlice (l.addr * 128) == homeSlice pa && l2Set (l.addr * 128) == l2Set pa

/-- The lines that leave a set so that at most n of some ordinary ones stay, newest first. -/
def linesOut (n : Nat) : Nat → List Line → List Line
  | 0, _ => []
  | k + 1, l =>
    if l.length ≤ n then []
    else
      match l2Victim l with
      | none => []
      | some v => v :: linesOut n k (l.erase v)

/-- The retention register that takes a new line into one of its ways: one of the context whose range holds it and whose
ways in the set are not all taken (R199). Where the registers of several contexts of a partition ask for more ways together
than it has, those of a set go to the lines that come first, and one way of the w stays for ordinary lines (DESIGN CHOICE,
log 87). -/
def keeperOf (regs : List (Nat × Retention)) (ctx line w : Nat) (peers : List Line) : Option Nat :=
  if w ≤ peers.countP (fun l => l.kept.isSome) + 1 then none
  else
    (regs.find? (fun r => r.1 / 8 == ctx && r.2.holds line && decide (peers.countP (fun l => l.kept == some r.1) < r.2.ways))).map
      (fun r => r.1)

/-- Whether the second-level cache holds the line of a physical address for a key. -/
def State.l2Hit (s : State) (key pa : Nat) : Bool := s.l2.any (fun l => l.addr == pa / 128 && l.key == key)

/-- A line is used. A new one goes into a way that a retention register keeps for its range, or into one of the ways that
the registers leave, whose lines it may drive out (R198, R199). A hit keeps its way; a partition without a way places no
line. -/
def State.touchLine (s : State) (v : View) (pa : Nat) (ef : Bool) : State :=
  let line := pa / 128
  let same (l : Line) : Bool := l.addr == line && l.key == v.key
  let here := s.l2.filter (fun l => !same l)
  match s.l2.find? same with
  | some l => { s with l2 := { l with ef := l.ef || ef, used := s.tick } :: here }
  | none =>
    let r := s.partOf v.ctx
    let regs := s.retainers (s.ctxAt v.ctx).part
    let peers := here.filter (fun l => l.peer r pa)
    let free := peers.filter (fun l => l.kept.isNone)
    let w := r.ways.length
    let room := max 1 (w - (regs.map (fun x => x.2.ways)).sum)
    let keeper := keeperOf regs v.ctx line w peers
    let out := linesOut (if keeper.isSome then room else room - 1) free.length free
    if w = 0 then s else { s with l2 := ⟨line, v.key, ef, s.tick, keeper⟩ :: here.filter (fun l => !out.contains l) }

/-- A retention register takes effect: lines of its range that stand in the cache are in its ways, as many of each set as
it has, and no more than leave one way of the partition for ordinary lines (R199, log 87). -/
def State.retainLines (s : State) (ctx reg : Nat) (r : Retention) : State :=
  let id := 8 * ctx + reg
  let step (l : List Line) (x : Line) : List Line :=
    let peer (y : Line) : Bool := y.peer (s.partOf ctx) (x.addr * 128)
    let mine := l.countP (fun y => peer y && y.kept == some id)
    let others := s.l2.countP (fun y => peer y && y.kept.isSome)
    if x.kept.isNone && keySlot x.key == (s.ctxAt ctx).key.toNat && r.holds x.addr && decide (mine < r.ways) &&
        decide (mine + others + 1 < (s.partOf ctx).ways.length) then l ++ [{ x with kept := some id }]
    else l ++ [x]
  { s with l2 := s.l2.foldl step [] }

/-- A retention register is released or written anew: its lines are ordinary. -/
def State.releaseLines (s : State) (ctx reg : Nat) : State :=
  { s with l2 := s.l2.map (fun l => if l.kept = some (8 * ctx + reg) then { l with kept := none } else l) }

/-- The ways of a partition have become fewer: of each set as many of its lines stay as it has ways, the victims of R198
leaving (DESIGN CHOICE, log 88). -/
def State.trimLines (s : State) (r : Resources) : State :=
  { s with l2 := s.l2.filter (fun x =>
      let peers := s.l2.filter (fun l => l.peer r (x.addr * 128))
      !(linesOut r.ways.length peers.length peers).contains x) }

/-! Meters (R345). -/

/-- The resources metered. -/
def meterHbm : Nat := 0
def meterCellar : Nat := 1
def meterLink : Nat := 2
def meterFabric : Nat := 3
def meterEth : Nat := 4
def meterHost : Nat := 5

/-- Who makes a request: the load queue, store queue, copy engine, collective and stream ports of a core, and the front end. -/
def whoLoad (core : Nat) : Nat := 16 * core
def whoStore (core : Nat) : Nat := 16 * core + 1
def whoCopy (core : Nat) : Nat := 16 * core + 2
def whoColl (core : Nat) : Nat := 16 * core + 3
def whoStream (core port : Nat) : Nat := 16 * core + 4 + port % 4
def whoFetch (core : Nat) : Nat := 16 * core + 8
def whoFrontEnd : Nat := 16 * 512

/-- A resource that is not metered. -/
def Meter.off : Meter := ⟨0, 0, 0, []⟩

/-- Whether a request may proceed: its resource is unmetered, or tokens are left and no request that arrived before it is
held there. -/
def State.meterOpen (s : State) (who ctx res : Nat) : Bool :=
  let m := find Meter.off res (s.ctxAt ctx).meters
  m.rate == 0 || (decide (0 < m.tokens) && (m.held.isEmpty || m.held.head? == some who))

/-- Take the tokens of a request, which is held no longer. -/
def State.meterTake (s : State) (who ctx res n : Nat) : State :=
  let m := find Meter.off res (s.ctxAt ctx).meters
  if m.rate = 0 then s
  else s.modCtxAt ctx (fun c =>
    { c with meters := put res { m with tokens := m.tokens - (n : Int), held := m.held.erase who } c.meters })

/-- Take the tokens of n bytes; who is held at the meter stays there. -/
def State.meterCount (s : State) (ctx res n : Nat) : State :=
  let m := find Meter.off res (s.ctxAt ctx).meters
  if m.rate = 0 then s
  else s.modCtxAt ctx (fun c => { c with meters := put res { m with tokens := m.tokens - (n : Int) } c.meters })

/-- Take the tokens of some costs: meter and bytes. -/
def State.countAll (s : State) (ctx : Nat) (costs : List (Nat × Nat)) : State :=
  costs.foldl (fun (s : State) x => s.meterCount ctx x.1 x.2) s

/-- Whether the meters of some costs are open to a request. -/
def State.openAll (s : State) (who ctx : Nat) (costs : List (Nat × Nat)) : Bool := costs.all (fun x => s.meterOpen who ctx x.1)

/-- The meters of some costs at which a request is held. -/
def State.closedAt (s : State) (who ctx : Nat) (costs : List (Nat × Nat)) : List Nat :=
  (costs.map (fun x => x.1)).filter (fun r => !s.meterOpen who ctx r)

/-- The die whose stack, or whose cellar port, holds a device address: the cache die is 8 (R8, R12). -/
def homeDie (a : Nat) : Nat := if cellarBase ≤ a then 8 else a / 2 ^ 37

/-- The resource that counts bytes at a device address. -/
def meterOf (a : Nat) : Nat := if cellarBase ≤ a then meterCellar else meterHbm

/-- Whether two dies are ring neighbours. -/
def ringNeighbours (a b : Nat) : Bool := (a + 1) % 8 == b || (b + 1) % 8 == a

/-- Whether the ring link of two neighbours is open: neither die is fenced (R20). -/
def State.ringOpen (s : State) (a b : Nat) : Bool := ringNeighbours a b && !(s.dieAt a).fenced && !(s.dieAt b).fenced

/-- The links that bytes cross between a compute die and the stack of a device address (R9): none to its own, one to the
cache die and to a ring neighbour whose link is open, two to any other. -/
def State.stackLinks (s : State) (die a : Nat) : Nat :=
  let h := homeDie a
  if h = die then 0 else if h = 8 ∨ s.ringOpen die h = true then 1 else 2

/-- The links that bytes cross between a compute die and a device address by way of its home slice (R9, R192): one to the
cache die, and one more to a stack of HBM4E. -/
def sliceLinks (a : Nat) : Nat := if homeDie a = 8 then 1 else 2

/-- What n bytes at a device address cost on that way: meter and bytes, once for each link (R345). -/
def sliceCosts (a n : Nat) : List (Nat × Nat) := [(meterOf a, n), (meterLink, n * sliceLinks a)]

/-- The requests held for a context, given as requester and meter, join the meters in order of arrival; a requester of the
range that is held no longer leaves (R345). -/
def State.holdAt (s : State) (ctx lo hi : Nat) (held : List (Nat × Nat)) : State :=
  s.modCtxAt ctx (fun c => { c with meters := c.meters.map (fun p =>
    let mine := (held.filter (fun x => x.2 == p.1)).map (fun x => x.1)
    let stay := p.2.held.filter (fun w => decide (w < lo) || decide (hi ≤ w) || mine.contains w)
    (p.1, { p.2 with held := stay ++ (mine.eraseDups.filter (fun w => !stay.contains w)) })) })

/-- Whether any meter of a context counts. -/
def State.metered (s : State) (ctx : Nat) : Bool := (s.ctxAt ctx).meters.any (fun p => p.2.rate != 0)

/-- The links between dies that n bytes cross on their way from a die to an optical die's ports: none from the two compute
dies it is bridged to, one from the cache die, two from any other (R9). -/
def fabricLinks (die port : Nat) : Nat := if die < 8 ∧ die / 2 = port / 4 then 0 else if die = 8 then 1 else 2

/-! Cluster banks (R194, R195). -/

/-- The scratchpad window. -/
def windowBase : Nat := 0xFFFF00000000
def windowEnd : Nat := 0xFFFF00800000

/-- Whether an address lies in the window. -/
def inWindow (a : Nat) : Bool := decide (windowBase ≤ a) && decide (a < windowEnd)

/-- The mode of a bank, and the modes that pending switches give it, in order. -/
def Cluster.mode (c : Cluster) (bank : Nat) : BankMode := find .cache bank c.modes
def Cluster.coming (c : Cluster) (bank : Nat) : List BankMode :=
  (c.switching.filter (fun x => x.mask.getLsbD bank)).map (fun x => x.mode)

/-- Banks in cache mode. -/
def Cluster.cacheBanks (c : Cluster) : Nat := (List.range 16).countP (fun b => c.mode b == .cache)

/-- What a window access to a bank finds at its issue (R195, R196): the bank serves it, it waits for a switch into
scratchpad mode, or fault 0x04. -/
inductive BankFinding where
  | ok | waits | fault
  deriving DecidableEq, Repr

/-- R195, R196: the last switch decides what mode the bank will be in; until every switch asked for is done, an access
waits, unless none of them changes a mode. -/
def Cluster.bankFinding (c : Cluster) (bank : Nat) : BankFinding :=
  let modes := c.mode bank :: c.coming bank
  if modes.getLast? ≠ some .spad then .fault else if modes.all (· == .spad) then .ok else .waits

/-- Whether a bank serves an access that was issued once so many switches had been asked for: it is in scratchpad mode, and
none of those that is still to come changes that (R196). -/
def Cluster.bankServes (c : Cluster) (asked bank : Nat) : Bool :=
  c.mode bank == .spad && c.switching.all (fun x => !x.mask.getLsbD bank || decide (asked < x.number) || x.mode == .spad)

/-! The cluster cache (R197, R230). -/

/-- No block. -/
def CacheBlock.empty : CacheBlock := ⟨0, 0, 0, false, 0, 0, [], 0, 0⟩

/-- Byte i of a block. -/
def CacheBlock.byte (b : CacheBlock) (i : Nat) : Byte := b.data.extractLsb' (8 * i) 8

/-- Put a byte into a block's data. -/
def setByte128 (d : BitVec 128) (i : Nat) (x : Byte) : BitVec 128 :=
  (d &&& ~~~((255 : BitVec 128) <<< (8 * i))) ||| (x.setWidth 128 <<< (8 * i))

/-- Bytes of a block that are dirty and whose words do not fail. -/
def State.writable (s : State) (cl blk : Nat) (b : CacheBlock) : List Nat :=
  (List.range 16).filter (fun i => b.dirty.getLsbD i && !s.badCached cl (16 * blk + i) 1)

/-- The context that a cluster serves. -/
def State.clusterCtx (s : State) (cl : Nat) : Nat := (s.clusterAt cl).ctx.getD 0

/-- What the write-back of a block costs its context (R345). -/
def State.blockCosts (s : State) (cl blk : Nat) : List (Nat × Nat) :=
  match find? blk (s.clusterAt cl).cache with
  | none => []
  | some b => match s.writable cl blk b with
    | [] => []
    | is => sliceCosts (16 * blk) is.length

/-- Whether a block may be written back: it has nothing to write, or its meters are open to the request (R345). -/
def State.blockOpen (s : State) (who cl blk : Nat) : Bool := s.openAll who (s.clusterCtx cl) (s.blockCosts cl blk)

/-- Write the dirty bytes of a block back to its home slice; the block stays, clean (R197, R214). The meters count them
(log 44). Words of it that fail are retired, and nothing of them is written (R207). -/
def State.writeBack (s : State) (cl blk : Nat) : State :=
  let c := s.clusterAt cl
  match find? blk c.cache with
  | none => s
  | some b =>
    let s' := (s.writable cl blk b).foldl (fun (s : State) i => s.devWrite b.key (16 * blk + i) (b.byte i)) s
    let s' := s'.setClusterAt cl
      { s'.clusterAt cl with cache := put blk { b with dirty := 0, owners := [] } (s'.clusterAt cl).cache }
    let ctx := s.clusterCtx cl
    let s' := s'.countAll ctx (s.blockCosts cl blk)
    if s.badCached cl (16 * blk) 16 then
      (s'.retireBad (16 * blk) b.pa 16 (fun s a n => s.badCached cl a n)).contextError ctx
    else s'

/-- Write back a list of blocks. -/
def State.writeBacks (s : State) (cl : Nat) (blks : List Nat) : State := blks.foldl (fun s b => s.writeBack cl b) s

/-- Write back those of a list of blocks whose meters are open (R345). -/
def State.writeBackOpen (s : State) (who cl : Nat) (blks : List Nat) : State :=
  blks.foldl (fun (s : State) b => if s.blockOpen who cl b then s.writeBack cl b else s) s

/-- Whether some of a list of blocks can be written back now, or there is none. -/
def State.someOpen (s : State) (who cl : Nat) (blks : List Nat) : Bool := blks.isEmpty || blks.any (s.blockOpen who cl)

/-- The blocks of a cluster with dirty bytes, by a predicate. -/
def Cluster.dirtyBlocks (c : Cluster) (p : Nat → CacheBlock → Bool) : List Nat :=
  (c.cache.filter (fun e => e.2.dirty != 0 && p e.1 e.2)).map (fun e => e.1)

/-- All of them. -/
def Cluster.allDirty (c : Cluster) : List Nat := c.dirtyBlocks (fun _ _ => true)

/-- Write back every dirty byte of a cluster whose meters are open (R345). -/
def State.flushOpen (s : State) (who cl : Nat) : State := s.writeBackOpen who cl (s.clusterAt cl).allDirty

/-- Drop the blocks of a cluster. -/
def State.dropCache (s : State) (cl : Nat) : State := s.modClusterAt cl (fun c => { c with cache := [] })

/-- The victim of a full cache: evict-first blocks first, then least recently used (R197). -/
def cacheVictim : Store CacheBlock → Option Nat
  | [] => none
  | (k, b) :: r =>
    match cacheVictim r with
    | none => some k
    | some j =>
      let c := find CacheBlock.empty j r
      if b.ef && !c.ef then some k else if c.ef && !b.ef then some j else if b.used ≤ c.used then some k else some j

/-- The block that a new one drives out: the capacity is 32,768 words of 16 bytes a bank. -/
def Cluster.evicts (c : Cluster) (blk : Nat) : Option Nat :=
  if (find? blk c.cache).isSome ∨ c.cache.length < 32768 * c.cacheBanks then none else cacheVictim c.cache

/-- Make room for a new block. -/
def State.makeRoom (s : State) (cl blk : Nat) : State :=
  match (s.clusterAt cl).evicts blk with
  | none => s
  | some v => (s.writeBack cl v).modClusterAt cl (fun c => { c with cache := drop v c.cache })

/-- Fill a block from its home slice: bytes that are dirty stay. -/
def State.fillBlock (s : State) (cl : Nat) (v : View) (blk pa : Nat) (ef : Bool) : State :=
  let key := v.key
  let s := (s.makeRoom cl blk).touchLine v pa ef
  let c := s.clusterAt cl
  let b := find CacheBlock.empty blk c.cache
  let data := (List.range 16).foldl
    (fun d i => if b.dirty.getLsbD i then d else setByte128 d i (s.devByte key (16 * blk + i))) b.data
  s.setClusterAt cl { c with
    stamp := c.stamp + 1
    cache := put blk { b with data := data, valid := BitVec.allOnes 16, ef := b.ef || ef, filled := c.stamp,
                              used := c.stamp, key := key, pa := pa / 16 * 16 } c.cache }

/-- Whether a block serves n bytes from byte i without a refill. -/
def CacheBlock.serves (b : CacheBlock) (refill i n : Nat) : Bool :=
  (List.range n).all (fun j => b.dirty.getLsbD (i + j)) ||
    (decide (refill ≤ b.filled) && (List.range n).all (fun j => b.valid.getLsbD (i + j)))

/-- Read n bytes, within one 16-byte word, on the path of a plain access of a core (R192). The block is filled on a
miss. Answers the bytes, or none for an uncorrectable error, whose words are retired (R207). -/
def State.readPlain (s : State) (core : Nat) (v : View) (a pa n : Nat) (ef : Bool) : State × Option (List Byte) :=
  let cl := clusterOf core
  let key := v.key
  let c := s.clusterAt cl
  if c.cacheBanks = 0 then
    if s.badLine a n then (s.retireBad a pa n State.badLine, none)
    else (s.touchLine v pa ef, some ((List.range n).map (fun i => s.devByte key (a + i))))
  else if s.badCached cl a n then (s.retireBad a pa n (fun s a n => s.badCached cl a n), none)
  else
    let blk := a / 16
    let b := find CacheBlock.empty blk c.cache
    if b.serves (s.coreAt core).mem.refill (a % 16) n then
      let s := s.setClusterAt cl { c with
        stamp := c.stamp + 1, cache := put blk { b with used := c.stamp, ef := b.ef || ef } c.cache }
      (s, some ((List.range n).map (fun i => b.byte (a % 16 + i))))
    else if s.badLine a n then (s.retireBad a pa n State.badLine, none)
    else
      let s := s.fillBlock cl v blk pa ef
      let b := find CacheBlock.empty blk (s.clusterAt cl).cache
      (s, some ((List.range n).map (fun i => b.byte (a % 16 + i))))

/-- Write bytes, within one 16-byte word, on the path of a plain access of a core (R192, R197). -/
def State.writePlain (s : State) (core : Nat) (v : View) (a pa : Nat) (bs : List Byte) (ef : Bool) : State :=
  let cl := clusterOf core
  let key := v.key
  if (s.clusterAt cl).cacheBanks = 0 then (s.touchLine v pa ef).devWrites key a bs
  else
    let blk := a / 16
    let s := s.makeRoom cl blk
    let c := s.clusterAt cl
    let b := find CacheBlock.empty blk c.cache
    let b := bs.zipIdx.foldl
      (fun (b : CacheBlock) (p : Byte × Nat) =>
        let i := a % 16 + p.2
        { b with data := setByte128 b.data i p.1, valid := b.valid ||| ((1 : BitVec 16) <<< i),
                 dirty := b.dirty ||| ((1 : BitVec 16) <<< i) }) b
    let owners := if b.owners.contains core then b.owners else core :: b.owners
    let b := { b with ef := b.ef || ef, used := c.stamp, key := key, owners := owners, pa := pa / 16 * 16 }
    s.setClusterAt cl { c with stamp := c.stamp + 1, cache := put blk b c.cache }

/-- Write back and drop the block of an address before an atomic goes to the home slice (R192). -/
def State.dropBlock (s : State) (core a : Nat) : State :=
  let cl := clusterOf core
  (s.writeBack cl (a / 16)).modClusterAt cl (fun c => { c with cache := drop (a / 16) c.cache })

/-! Page tables (R202, R203). -/

/-- How an access uses a page. -/
inductive AccessKind where
  | read | write | fetch
  deriving DecidableEq, Repr

/-- What a translation finds (R203). -/
inductive Xlat where
  | ok (p : PageInfo)
  | fault (code : Nat)
  | trap (cause : Nat)
  /-- A moving page: the not-present trap for an exposed slot, a pause for an engine and for a bounced atomic. -/
  | moving
  deriving DecidableEq, Repr

/-- Read 8 bytes at a physical address as a walker does: fault 0x05 where nothing stands, 0x0D for a word that fails ECC
(R200, R207). -/
def State.readPhys64 (s : State) (v : View) (pa : Nat) : Except Nat Word :=
  match s.addrIn v pa with
  | none => .error 0x05
  | some a =>
    if s.badRange a 8 then .error 0x0D
    else .ok (wordOf (leValue ((List.range 8).map (fun i => s.devByte v.key (a + i)))))

/-- Bits of an entry that are reserved in every entry (R202). -/
def pteReserved (e : Word) : Bool := bits e 11 11 != 0 || bits e 63 56 != 0

/-- The page of a leaf entry (R202). -/
def leafInfo (e : Word) (va size : Nat) : PageInfo :=
  { vpage := BitVec.ofNat 48 (va / size * size), size := size, frame := BitVec.ofNat 48 (place (bits e 47 12) 12),
    r := e.getLsbD 1, w := e.getLsbD 2, x := e.getLsbD 3, ms := e.getLsbD 4, tier := e.getLsbD 5, rep := e.getLsbD 6,
    cow := e.getLsbD 7, vint := BitVec.ofNat 8 (bits e 55 48) }

/-- A leaf entry: reserved bits and a misaligned frame raise fault 0x05, MOV is found next (R201, R203). -/
def leafResult (e : Word) (va size : Nat) : Xlat :=
  let p := leafInfo e va size
  if pteReserved e || p.frame.toNat % size != 0 then .fault 0x05
  else if e.getLsbD 8 then .moving
  else .ok p

/-- The last level: an entry with P64, its own or that of the group's first entry, is one of 16 that form a 64 KiB page,
and the first entry holds its fields; the other fifteen are read for V alone (R202). -/
def State.walkLast (s : State) (v : View) (va table : Nat) : Xlat :=
  let i := va / 2 ^ 12 % 512
  match s.readPhys64 v (table + 8 * i) with
  | .error c => .fault c
  | .ok e =>
    if !(e.getLsbD 0) then .trap 0x02
    else
      match s.readPhys64 v (table + 8 * (i / 16 * 16)) with
      | .error c => .fault c
      | .ok g =>
        if e.getLsbD 10 || (g.getLsbD 0 && g.getLsbD 10) then
          if !(g.getLsbD 0) then .trap 0x02
          else if g.getLsbD 9 then leafResult g va (2 ^ 16)
          else .fault 0x05
        else if e.getLsbD 9 then leafResult e va (2 ^ 12)
        else .fault 0x05

/-- Walk levels 0 to 2, then the last. -/
def State.walkFrom (s : State) (v : View) (va : Nat) : Nat → Nat → Xlat
  | 0, table => s.walkLast v va table
  | n + 1, table =>
    -- n + 1 levels above the last: level 2 - n
    let sh := 21 + 9 * n
    match s.readPhys64 v (table + 8 * (va / 2 ^ sh % 512)) with
    | .error c => .fault c
    | .ok e =>
      if !(e.getLsbD 0) then .trap 0x02
      else if e.getLsbD 9 then (if n = 2 then .fault 0x05 else leafResult e va (2 ^ sh))
      else if pteReserved e || bits e 8 1 != 0 || bits e 55 48 != 0 then .fault 0x05
      else s.walkFrom v va n (place (bits e 47 12) 12)

/-- The walk of an address from the root of a view's context. -/
def State.walkIn (s : State) (v : View) (va : Nat) : Xlat := s.walkFrom v va 3 (s.ctxAt v.ctx).root.toNat

/-- The walk of an address of a context. -/
def State.walk (s : State) (ctx va : Nat) : Xlat := s.walkIn (s.ctxView ctx) va

/-- The entries that a walk reads below a table, by device address: of the last level the page's own, and the first of its
group where that forms a 64 KiB page (R202). -/
def State.walkReads (s : State) (v : View) (va : Nat) : Nat → Nat → List Nat
  | 0, table =>
    let i := va / 2 ^ 12 % 512
    let g := i / 16 * 16
    let large (j : Nat) : Bool := match s.readPhys64 v (table + 8 * j) with
      | .ok e => e.getLsbD 0 && e.getLsbD 10
      | .error _ => false
    (if i ≠ g ∧ (large i || large g) = true then [i, g] else [i]).filterMap (fun j => s.addrIn v (table + 8 * j))
  | n + 1, table =>
    let at_ := table + 8 * (va / 2 ^ (21 + 9 * n) % 512)
    (s.addrIn v at_).toList ++
      (match s.readPhys64 v at_ with
       | .ok e => if e.getLsbD 0 && !e.getLsbD 9 then s.walkReads v va n (place (bits e 47 12) 12) else []
       | .error _ => [])

/-- What a walk of a view costs its context: eight bytes an entry (R345, log 44). -/
def State.walkCosts (s : State) (v : View) (va : Nat) : List (Nat × Nat) :=
  (s.walkReads v va 3 (s.ctxAt v.ctx).root.toNat).flatMap (fun a => sliceCosts a 8)

/-- An entry that covers an address. -/
def tlbHit (ctx va : Nat) (l : List TlbEntry) : Option PageInfo :=
  (l.find? (fun e => e.ctx == ctx && decide (e.info.vpage.toNat ≤ va) &&
    decide (va < e.info.vpage.toNat + e.info.size))).map (fun e => e.info)

/-- Put an entry in front of a cache of n entries; the oldest falls out. -/
def tlbPut (n : Nat) (e : TlbEntry) (l : List TlbEntry) : List TlbEntry := (e :: l.filter (· != e)).take n

/-- What the translation of an address of a core costs: nothing where its caches hold it, or in the window (R204, R345). -/
def State.xlatCosts (s : State) (core ctx va : Nat) : List (Nat × Nat) :=
  if inWindow va ∨ (tlbHit ctx va (s.coreAt core).mem.utlb).isSome ∨ (tlbHit ctx va (s.clusterAt (clusterOf core)).tlb).isSome then []
  else s.walkCosts { s.coreView core with ctx := ctx } va

/-- Translate an address for a core: its micro-TLB, the cluster's TLB, then a walk, whose result both keep and whose bytes
are counted (R204, R345). -/
def State.translate (s : State) (core ctx va : Nat) : State × Xlat :=
  match tlbHit ctx va (s.coreAt core).mem.utlb with
  | some p => (s, .ok p)
  | none =>
    match tlbHit ctx va (s.clusterAt (clusterOf core)).tlb with
    | some p => (s.modCoreAt core (fun c => { c with mem := { c.mem with utlb := tlbPut 64 ⟨ctx, p⟩ c.mem.utlb } }), .ok p)
    | none =>
      let v : View := { s.coreView core with ctx := ctx }
      let x := s.walkIn v va
      let s := s.countAll ctx (s.walkCosts v va)
      match x with
      | .ok p =>
        let s := s.modCoreAt core (fun c => { c with mem := { c.mem with utlb := tlbPut 64 ⟨ctx, p⟩ c.mem.utlb } })
        (s.modClusterAt (clusterOf core) (fun c => { c with tlb := tlbPut 2048 ⟨ctx, p⟩ c.tlb }), .ok p)
      | x => (s, x)

/-- The permission of an access on a page (R203). -/
def permission (k : AccessKind) (p : PageInfo) : Xlat :=
  match k with
  | .read => if p.r then .ok p else .fault 0x04
  | .write => if !p.w then .fault 0x04 else if p.cow then .trap 0x03 else .ok p
  | .fetch => if p.x then .ok p else .fault 0x04

/-- The member index of a die in its partition (R203). -/
def memberIndex (r : Resources) (die : Nat) : Nat := ((dieList r).findIdx? (· == die)).getD 0

/-- The physical addresses of an address on a page: its replica, or every replica (R203, R212). -/
def physOf (p : PageInfo) (va : Nat) (replicas : List Nat) : List Nat :=
  let off := va - p.vpage.toNat
  if p.rep then replicas.map (fun i => p.frame.toNat + i * p.size + off) else [p.frame.toNat + off]

/-- Translate an element of an access of a core: the places of its first byte. All replicas are named for `vstmc`. The
physical address alone says what stands there: a tier bit that disagrees with it has no effect (DESIGN CHOICE, log 89). -/
def State.translateElem (s : State) (core ctx : Nat) (k : AccessKind) (all : Bool) (e : MemElem) :
    State × Except Xlat Target :=
  let va := e.va.toNat
  if inWindow va then (s, .ok ⟨e, [.bank (va - windowBase)], false, 0⟩)
  else
    let (s, x) := s.translate core ctx va
    let v := s.coreView core
    let r := s.partOf ctx
    match x with
    | .ok p =>
      match permission k p with
      | .ok p =>
        let ids := if all then List.range (dieList r).length else [memberIndex r (dieOf core)]
        let pas := physOf p va ids
        let places := pas.map (fun pa => (s.addrIn v pa).map (fun a => Place.mem a pa))
        if places.all (fun x => x.isSome) then (s, .ok ⟨e, places.filterMap id, p.ms, v.key⟩) else (s, .error (.fault 0x05))
      | x => (s, .error x)
    | x => (s, .error x)

/-- Translate elements in order: the targets, and the findings with the elements they belong to. -/
def State.translateElems (s : State) (core ctx : Nat) (k : AccessKind) (all : Bool) :
    List MemElem → State × List Target × List (MemElem × Xlat)
  | [] => (s, [], [])
  | e :: r =>
    match s.translateElem core ctx k all e with
    | (s, .ok t) =>
      let (s, ts, fs) := s.translateElems core ctx k all r
      (s, t :: ts, fs)
    | (s, .error x) =>
      let (s, ts, fs) := s.translateElems core ctx k all r
      (s, ts, (e, x) :: fs)

/-! Reading and writing places. -/

/-- Read the bytes of one element at a place, under a key; none for an uncorrectable error. -/
def State.readPlace (s : State) (core key : Nat) (p : Place) (n : Nat) (ms ef : Bool) : State × Option (List Byte) :=
  match p with
  | .bank off =>
    if s.badBank (clusterOf core) off n then (s, none)
    else (s, some (readBytes (s.clusterAt (clusterOf core)).sram off n))
  | .mem a pa =>
    if ms then
      if s.badRange a n then (s.retireBad a pa n State.badRange, none)
      else (s, some ((List.range n).map (fun i => s.devByte key (a + i))))
    else s.readPlain core { s.coreView core with key := key } a pa n ef

/-- Whole words of a bank that are written hold good data again. -/
def mendBank (cl off n : Nat) (l : List SoftPlace) : List SoftPlace :=
  l.filter (fun p => match p with
    | .bank c w => !(c == cl && decide (off ≤ 8 * w) && decide (8 * w + 8 ≤ off + n))
    | _ => true)

/-- Write the bytes of one element at a place, under a key. -/
def State.writePlace (s : State) (core key : Nat) (p : Place) (bs : List Byte) (ms ef : Bool) : State :=
  match p with
  | .bank off =>
    { s.modClusterAt (clusterOf core) (fun c => { c with sram := writeBytes c.sram off bs }) with
      bad := mendBank (clusterOf core) off bs.length s.bad }
  | .mem a pa => if ms then s.devWrites key a bs else s.writePlain core { s.coreView core with key := key } a pa bs ef

/-- Write an element at every place of its target (R212). -/
def State.writeTarget (s : State) (core : Nat) (t : Target) (bs : List Byte) (ef : Bool) : State :=
  t.places.foldl (fun s p => s.writePlace core t.key p bs t.ms ef) s

/-! Package scope: what the front end, engines and collectives read and write (R234, R235, R341). -/

/-- What a read of a context's memory at package scope meets: its bytes, a page that moves, or a fault (R203, R207). -/
inductive Fetched where
  | ok (bs : List Byte)
  | pause
  | fault (code : Nat)
  deriving DecidableEq, Repr

/-- Put a byte in front of what was read. -/
def Fetched.cons (b : Byte) : Fetched → Fetched
  | .ok bs => .ok (b :: bs)
  | x => x

/-- Read bytes of a view's memory at package scope, through the home slices. A page that is not there is fault 0x05
(R341), a word that fails ECC fault 0x0D (R207). Dirty bytes of cluster caches are not seen (R227). -/
def State.fetchIn (s : State) (v : View) (va : Nat) : Nat → Fetched
  | 0 => .ok []
  | n + 1 =>
    match s.walkIn v va with
    | .ok p =>
      match s.addrIn v ((physOf p va [0]).headD 0) with
      | some a => if s.badLine a 1 then .fault 0x0D else (s.fetchIn v (va + 1) n).cons (s.devByte v.key a)
      | none => .fault 0x05
    | .moving => .pause
    | .fault c => .fault c
    | .trap _ => .fault 0x05

/-- Read bytes of a context's memory so. -/
def State.fetchVa (s : State) (ctx va n : Nat) : Fetched := s.fetchIn (s.ctxView ctx) va n

/-- The bytes read. -/
def Fetched.bytes : Fetched → Option (List Byte)
  | .ok bs => some bs
  | _ => none

/-- The bytes, where they can be read. -/
def State.readVa (s : State) (ctx va n : Nat) : Option (List Byte) := (s.fetchVa ctx va n).bytes

/-- Write bytes of a context's memory at package scope; none where an address does not translate. -/
def State.writeVa (s : State) (ctx va : Nat) : List Byte → Option State
  | [] => some s
  | b :: r =>
    match s.walk ctx va with
    | .ok p =>
      match s.devAddr ctx ((physOf p va [0]).headD 0) with
      | some a => (s.devWrite (s.keyOf ctx) a b).writeVa ctx (va + 1) r
      | none => none
    | _ => none

/-- A 32-bit word of a context's memory at package scope. -/
def State.readVa32 (s : State) (ctx va : Nat) : Option (BitVec 32) :=
  (s.readVa ctx va 4).map (fun bs => BitVec.ofNat 32 (leValue bs))

end Sys2Proof.Machine
end

