-- ==== Sys2Proof/Machine/Checks.lean ====
section
/-! DEFINITION. What a bundle is checked for before it issues (R75, R76): legality by context, vintage and feature mask,
the operand checks of every operation, and watches. Every meaning of a slot operation stands behind `guarded`. -/

namespace Sys2Proof.Machine

/-! Legality that needs the state (R64, R72, R73, R273, R276, R279). -/

/-- R72: the operations of the firmware context alone. -/
def fwOnly : Instr → Bool
  | .resume | .fwtake | .fwyield _ _ | .tlbinv _ _ _ | .csrwp _ _ | .csrrp _ _ | .flread _ _ | .flwrite _ _
  | .vinval _ _ | .bmap _ _ => true
  | _ => false

/-- R273: the opcodes a firmware bundle may hold. -/
def fwOpcode : Instr → Bool
  | .nop => true
  | .add _ | .sub _ | .and _ | .or _ | .xor _ | .andn _ | .shl _ | .shr _ | .sar _ | .min _ | .max _ | .minu _ | .maxu _
  | .slt _ | .sltu _ | .seq _ | .sne _ | .mul _ | .mulh _ | .mulhu _ | .div _ | .divu _ | .rem _ | .remu _ | .clz _
  | .ctz _ | .popc _ | .addi _ | .andi _ | .ori _ | .xori _ | .slti _ | .sltui _ | .shli _ | .shri _ | .sari _ | .movi _
  | .movk _ | .immx _ | .madd _ | .lea _ | .sel _ | .bfx _ | .bfxz _ | .bfi _ => true
  | .brEq _ | .brNe _ | .brLt _ | .brGe _ | .brLtu _ | .brGeu _ | .bz _ _ | .bnz _ _ | .jmp _ | .call _ | .jmpr _
  | .callr _ | .ret => true
  | .ldB _ | .ldBu _ | .ldH _ | .ldHu _ | .ldW _ | .ldWu _ | .ldD _ | .stB _ | .stH _ | .stW _ | .stD _ => true
  | i => fwOnly i

/-- R276: every register field names f0 to f31. -/
def fwFields (i : Instr) : Bool :=
  (reads i ++ writes i).all (fun r => match r with | .a n => decide (n < 32) | _ => true)

/-- R278: the bit of `ctl.feat` that an opcode needs. -/
def featBit : Instr → Option Nat
  | .pset _ _ _ _ | .ppush _ _ _ | .pfill _ _ | .pfillN _ _ | .pacc _ _ _ | .pshift _ _ _ | .pdrain _ _ _ _ _ _ _
  | .pclr _ _ _ | .pclrSt _ _ | .pexpRows _ _ _ | .pexpCols _ _ _ _ _ => some 0
  | .align _ | .alignr _ | .realign | .tsend _ _ _ => some 1
  | .collAllreduceSum _ | .collAllreduceMax _ | .collAllgather _ | .collRscatterSum _ | .collRscatterMax _
  | .collBcast _ => some 2
  | .vstmc _ => some 3
  | .amoAdd _ | .amoFadd _ | .amoMin _ | .amoMax _ | .amoMinu _ | .amoMaxu _ | .amoAnd _ | .amoOr _ | .amoXor _
  | .amoSwap _ | .amoCas _ | .amoFmin _ | .amoFmax _ => some 4
  | .redAdd _ | .redFadd _ | .redMin _ | .redMax _ | .redMinu _ | .redMaxu _ | .redAnd _ | .redOr _ | .redXor _
  | .redFmin _ | .redFmax _ => some 4
  | _ => none

/-- R73: the opcodes that vintage 2 lacks. -/
def vintage3Only : Instr → Bool
  | .immx _ | .vsplit _ _ _ _ _ _ | .vsexp _ | .vscalb _ | .pdrain _ _ _ _ _ _ _ | .pexpRows _ _ _
  | .pexpCols _ _ _ _ _ | .align _ | .alignr _ | .realign | .tsend _ _ _ | .vstmc _ => true
  | _ => false

/-- R64: the partners of `immx`. -/
def immxPartner : Instr → Bool
  | .addi _ | .andi _ | .ori _ | .xori _ | .slti _ | .sltui _ | .movi _ => true
  | _ => false

/-- R64: `immx` stands in slot 1 beside a partner in slot 0. -/
def immxPlaced (b : Bundle) (slot : Nat) : Instr → Bool
  | .immx _ =>
    slot == 1 && (match decodeSlot 0 (slotWord b 0) with | .ok i => immxPartner i | .error _ => false)
  | _ => true

/-- Legality of an operation in a slot of the bundle being issued, beside `Instr.wellFormed`. -/
def legalHere (i : Instr) (slot : Nat) (s : State) : Bool :=
  immxPlaced s.core.issue.word slot i &&
    (if s.fwIssuing then decide (slot ≤ 4) && fwOpcode i && fwFields i
     else
       !fwOnly i &&
         (match featBit i with | some k => (s.core.regs.readCsr 0x100).getLsbD k | none => true) &&
         !(s.interlocked && (slot == 1 || slot == 6 || vintage3Only i)))

/-! The elements of a memory operation (R103, R104, R208, R215). -/

/-- The operands a memory operation reads at issue. -/
def memOperands (i : Instr) (s : State) : MemOperands :=
  match i with
  | .ldB f | .ldBu f | .ldH f | .ldHu f | .ldW f | .ldWu f | .ldD f | .pref f | .stB f | .stH f | .stW f | .stD f
  | .wbk f => s.ldOperands f
  | .ldx f | .vld f | .vldEf f | .vlds f | .vldx f | .vldb f | .stx f | .vst f | .vstEf f | .vsts f | .vstx f
  | .vstmc f => s.lvOperands f
  | .amoAdd f | .amoFadd f | .amoMin f | .amoMax f | .amoMinu f | .amoMaxu f | .amoAnd f | .amoOr f | .amoXor f
  | .amoSwap f | .amoCas f | .amoFmin f | .amoFmax f | .redAdd f | .redFadd f | .redMin f | .redMax f | .redMinu f
  | .redMaxu f | .redAnd f | .redOr f | .redXor f | .redFmin f | .redFmax f => s.amoOperands f
  | _ => ⟨0, 0, 0, 0, 0, 0⟩

/-- One scalar element. -/
def oneElem (va : Word) (size : Nat) : List MemElem := [⟨0, va, size⟩]

/-- The bytes of an atomic (R215). -/
def amoSize (f : FormAMO) : Nat := if f.w64 then 8 else 4

/-- The elements of an access, from its operands. -/
def opElems (i : Instr) (o : MemOperands) : List MemElem :=
  match i with
  | .ldB _ | .ldBu _ | .stB _ => oneElem (o.base + o.t) 1
  | .ldH _ | .ldHu _ | .stH _ => oneElem (o.base + o.t) 2
  | .ldW _ | .ldWu _ | .stW _ => oneElem (o.base + o.t) 4
  | .ldD _ | .stD _ => oneElem (o.base + o.t) 8
  | .pref _ | .wbk _ => oneElem (o.base + o.t) 1
  | .ldx f => oneElem (o.base + (o.t <<< (ldxKind f.ty).1)) (2 ^ (ldxKind f.ty).1)
  | .stx f => oneElem (o.base + (o.t <<< f.ty.toNat)) (2 ^ f.ty.toNat)
  | .vld f | .vldEf f | .vst f | .vstEf f | .vstmc f => vecElems .unit (widLog f.ty.toNat) false o
  | .vlds f | .vsts f => vecElems .strided (widLog f.ty.toNat) false o
  | .vldx f | .vstx f => vecElems .indexed (widLog f.ty.toNat) (f.ty.getLsbD 2) o
  | .vldb f => vecElems .one (widLog f.ty.toNat) false o
  | .amoAdd f | .amoFadd f | .amoMin f | .amoMax f | .amoMinu f | .amoMaxu f | .amoAnd f | .amoOr f | .amoXor f
  | .amoSwap f | .amoCas f | .amoFmin f | .amoFmax f | .redAdd f | .redFadd f | .redMin f | .redMax f | .redMinu f
  | .redMaxu f | .redAnd f | .redOr f | .redXor f | .redFmin f | .redFmax f => oneElem o.base (amoSize f)
  | _ => []

/-- What an operation does to memory: whether it reads and whether it writes (R203, R218, R280). -/
def memUse : Instr → Bool × Bool
  | .ldB _ | .ldBu _ | .ldH _ | .ldHu _ | .ldW _ | .ldWu _ | .ldD _ | .ldx _ | .vld _ | .vldEf _ | .vlds _ | .vldx _
  | .vldb _ => (true, false)
  | .stB _ | .stH _ | .stW _ | .stD _ | .stx _ | .vst _ | .vstEf _ | .vsts _ | .vstx _ | .vstmc _ => (false, true)
  | .amoAdd _ | .amoFadd _ | .amoMin _ | .amoMax _ | .amoMinu _ | .amoMaxu _ | .amoAnd _ | .amoOr _ | .amoXor _
  | .amoSwap _ | .amoCas _ | .amoFmin _ | .amoFmax _ | .redAdd _ | .redFadd _ | .redMin _ | .redMax _ | .redMinu _
  | .redMaxu _ | .redAnd _ | .redOr _ | .redXor _ | .redFmin _ | .redFmax _ => (true, true)
  | _ => (false, false)

/-! Ports (R42, R224, R326). -/

/-- A stream port of a core. -/
def Engines.stream (e : Engines) (n : Nat) : Stream := find Stream.off n e.streams

/-- The window offset of entry k of a stream in its bank (log 20). -/
def Stream.place (x : Stream) (k : Nat) : Nat := x.bank * 2 ^ 19 + 256 * (k % 2048)

/-- The stream or landing ports among named registers. -/
def portsIn (l : List RegName) : List Nat :=
  l.filterMap (fun r => match r with | .v n => if 56 ≤ n then some n else none | _ => none)

/-- R42, R224: the check of one port named as a source. -/
def Engines.readPort (e : Engines) (n : Nat) : Bool :=
  60 ≤ n || (let st := e.stream (n - 56)
             st.bound && !st.drain && decide (st.taken < st.total))

/-- R42, R224: the check of one port named as a destination. -/
def Engines.writePort (e : Engines) (n : Nat) : Bool :=
  n < 60 && (let st := e.stream (n - 56)
             st.bound && st.drain)

/-- The port checks of an operation: a landing port in a free launch, then misuse. -/
def portCheck (i : Instr) (s : State) : Option Check :=
  let rs := portsIn (reads i)
  let ws := portsIn (writes i)
  if !s.core.task.timed && (rs ++ ws).any (fun n => decide (60 ≤ n)) then some (.code 0x0F)
  else if rs.all s.core.eng.readPort && ws.all s.core.eng.writePort then none
  else some (.code 0x10)

/-! The layout record and the origins (R240 to R243). -/

/-- R242: the element size of a format code. -/
def esizeOf (code : Nat) : Option Nat :=
  match code with
  | 0 | 13 => some 8
  | 1 | 12 => some 4
  | 2 | 3 | 14 => some 2
  | 4 | 5 | 6 | 7 | 8 | 9 | 10 | 11 => some 1
  | _ => none

/-- A format code, with 15 resolved through the format table. -/
def State.resolveCode (s : State) (code : Nat) : Nat := if code = 15 then bits s.descriptor 3 0 else code

/-- The reserved bits of a record's words. -/
def recordReserved (w : Nat → Word) : Bool :=
  bits (w 0) 63 48 != 0 || bits (w 3) 39 39 != 0 || bits (w 3) 63 42 != 0 || bits (w 4) 63 40 != 0 ||
    bits (w 5) 63 40 != 0 || bits (w 6) 63 40 != 0 || bits (w 7) 63 40 != 0 || bits (w 9) 63 48 != 0 ||
    bits (w 10) 63 60 != 0 || bits (w 11) 63 40 != 0

/-- R241: the checks of a record, by the rows of its table. For a stream, `tile` is false and the local fields are
ignored (R222). -/
def layoutOf (w : Nat → Word) (code : Nat) (tile : Bool) : Except Check Layout :=
  let rank := bits (w 3) 38 36
  let edge := bits (w 3) 41 40
  let ilv := bits (w 10) 59 56
  let lbase := bits (w 10) 31 0
  let rpitch := bits (w 10) 55 32
  let ppitch := bits (w 11) 23 0
  let bmask : BitVec 16 := BitVec.ofNat 16 (bits (w 11) 39 24)
  let strides := [bits (w 4) 39 0, bits (w 5) 39 0, bits (w 6) 39 0, bits (w 7) 39 0]
  if recordReserved w || rank == 0 || decide (6 ≤ rank) || edge == 3 || (tile && decide (3 ≤ ilv)) then
    .error (.code 0x06)
  else
    match esizeOf code with
    | none => .error (.code 0x06)
    | some e =>
      if tile && ((ilv == 1 && bmask == 0) || (ilv == 2 && (lbase % 32 != 0 || rpitch % 256 != 0))) then
        .error (.code 0x06)
      else if bits (w 0) 47 0 % e != 0 || (strides.take (rank - 1)).any (fun x => x % e != 0) ||
          (tile && (lbase % e != 0 || rpitch % e != 0 || ppitch % e != 0)) then .error (.code 0x11)
      else
        let keep (l : List Nat) (d : Nat) : List Nat := l.zipIdx.map (fun p => if p.2 < rank then p.1 else d)
        .ok { base := BitVec.ofNat 48 (bits (w 0) 47 0)
              extents := keep [bits (w 1) 31 0, bits (w 1) 63 32, bits (w 2) 31 0, bits (w 2) 63 32, bits (w 3) 31 0] 1
              rank := rank, esize := e, edge := edge, strides := strides
              windows := keep [bits (w 8) 15 0, bits (w 8) 31 16, bits (w 8) 47 32, bits (w 8) 63 48,
                bits (w 9) 15 0] 1
              fill := BitVec.ofNat 32 (bits (w 9) 47 16)
              lbase := if tile then lbase else 0
              rpitch := if tile then rpitch else 0
              ilv := if tile then ilv else 0
              ppitch := if tile then ppitch else 0
              bmask := if tile then bmask else 0 }

/-- The record in registers g to g + 11. -/
def State.readLayout (s : State) (g : Reg) (tile : Bool) : Except Check Layout :=
  let w := fun n => s.readANum (g.toNat + n)
  layoutOf w (s.resolveCode (bits (w 3) 35 32)) tile

/-- R243: the origins in registers o and o + 1; those of dimensions at or above the rank are 0. -/
def State.readOrigin (s : State) (o : Reg) (rank : Nat) : Except Check (List Int) :=
  let a := s.readANum o.toNat
  let b := s.readANum (o.toNat + 1)
  if bits b 63 63 ≠ 0 then .error (.code 0x06)
  else
    let os := [sextNat 32 (bits a 31 0), sextNat 32 (bits a 63 32), sextNat 21 (bits b 20 0), sextNat 21 (bits b 41 21),
      sextNat 21 (bits b 62 42)]
    .ok (os.zipIdx.map (fun p => if p.2 < rank then p.1 else 0))

/-- The record and the origins of an operation. -/
def State.readTile (s : State) (g o : Reg) (tile : Bool) : Except Check (Layout × List Int) :=
  match s.readLayout g tile with
  | .error c => .error c
  | .ok lay =>
    match s.readOrigin o lay.rank with
    | .error c => .error c
    | .ok os => .ok (lay, os)

/-- The check an `Except` carries. -/
def failure {α : Type} : Except Check α → Option Check
  | .error c => some c
  | .ok _ => none

/-- The first check that fails. -/
def firstCheck : List (Option Check) → Option Check
  | [] => none
  | some c :: _ => some c
  | none :: r => firstCheck r

/-- R249: record, origins, handle window, table entry. -/
def State.copyCheck (s : State) (f : FormCG) : Option Check := firstCheck [failure (s.readTile f.g f.o true), s.barCheck f.bar]

/-- R251: a fifth nest raises fault 0x06, behind the record and the origins. -/
def State.nestCheck (s : State) (f : FormCG) : Option Check :=
  firstCheck [failure (s.readTile f.g f.o true), if 4 ≤ s.core.eng.nests.length then some (.code 0x06) else none,
    s.barCheck f.bar]

/-- The cores of a cluster. -/
def clusterCores (cl : Nat) : List Nat := (List.range 8).map (fun i => 8 * cl + i)

/-- Whether a bank backs a bound port of a core of the cluster. An unbound drain port backs none: the engine holds the
entries that are still to be written (R225). -/
def State.bankBound (s : State) (cl bank : Nat) : Bool :=
  (clusterCores cl).any (fun c => (s.coreAt c).eng.streams.any (fun p => p.2.bound && p.2.bank == bank))

/-- R222. A record that fails its checks comes before a port or a bank that does (DESIGN CHOICE, log 92). -/
def State.bindCheck (s : State) (f : FormSB) : Option Check :=
  firstCheck [failure (s.readTile f.g f.o false),
    if (s.core.eng.stream f.port.toNat).bound then some (.code 0x10) else none,
    if s.cluster.mode f.bank.toNat ≠ .fifo then some (.code 0x10) else none,
    if s.bankBound (clusterOf s.cur) f.bank.toNat then some (.code 0x10) else none]

/-- R196: a bank leaves FIFO mode only when no port is bound to it. -/
def State.bankCheck (s : State) (mask : BitVec 16) (mode : BitVec 2) : Option Check :=
  if mode ≠ 2 ∧ (List.range 16).any (fun b => mask.getLsbD b && s.bankBound (clusterOf s.cur) b) then some (.code 0x10)
  else none

/-- R250. -/
def State.cseqCheck (s : State) (c r : Reg) : Option Check :=
  if bits (s.readA c) 63 32 ≠ 0 ∨ bits (s.readANum (r.toNat + 1)) 63 63 ≠ 0 ∨ bits (s.readANum (r.toNat + 2)) 63 32 ≠ 0
  then some (.code 0x06) else none

/-! Group tables (R257, R259). -/

/-- A group table. -/
structure Group where
  n : Nat
  root : Nat
  cnt : Nat
  send : Addr
  recv : Addr
  /-- Core and module of each member. -/
  members : List (Nat × Nat)
  deriving DecidableEq, Repr

/-- Read 64-byte blocks of a context's memory as a core sees them at issue, on pages that allow it: a page that is not
there takes the not-present trap, other findings are faults (log 16). -/
def State.readAllowed (s : State) (allowed : PageInfo → Bool) (core ctx va : Nat) : Nat → Except Check (List Byte)
  | 0 => .ok []
  | n + 1 =>
    let v : View := { s.coreView core with ctx := ctx }
    match s.walkIn v va with
    | .ok p =>
      if !allowed p then .error (.fault 0x04 (wordOf va) 0)
      else
        match s.addrIn v ((physOf p va [memberIndex (s.partOf ctx) (dieOf core)]).headD 0) with
        | none => .error (.fault 0x05 (wordOf va) 0)
        | some a =>
          if s.badLine a 64 then .error (.fault 0x0D (wordOf va) 0)
          else
            match s.readAllowed allowed core ctx (va + 64) n with
            | .ok r => .ok ((List.range 64).map (fun i => s.devByte v.key (a + i)) ++ r)
            | .error c => .error c
    | .fault c => .error (.fault c (wordOf va) 0)
    | .trap c => .error (.trap c (wordOf va))
    | .moving => .error (.trap 0x02 (wordOf va))

/-- Read blocks of readable pages. -/
def State.readBlocks (s : State) (core ctx va n : Nat) : Except Check (List Byte) := s.readAllowed (fun p => p.r) core ctx va n

/-- What reading n blocks of 64 bytes of a core's memory costs, with the walk to the first (R345, log 44). -/
def State.tableCosts (s : State) (core ctx va n : Nat) : List (Nat × Nat) :=
  let v : View := { s.coreView core with ctx := ctx }
  s.walkCosts v va ++ (List.range n).flatMap (fun i => match s.walkIn v (va + 64 * i) with
    | .ok p => ((s.addrIn v ((physOf p (va + 64 * i) [memberIndex (s.partOf ctx) (dieOf core)]).headD 0)).map
        (fun a => sliceCosts a 64)).getD []
    | _ => [])

/-- n bytes of a table from byte i, as a number. -/
def fieldAt (bs : List Byte) (i n : Nat) : Nat := leValue ((bs.drop i).take n)

/-! Rewrite descriptors (R291 to R293). -/

/-- The address of the rewrite descriptor of a page (R291). -/
def descriptorAddr (page : Addr) : Nat := 0xE00000000000 + 256 * (page.toNat / 4096)

/-- The words of a descriptor, header and reserved tail, and its landing map (R293). -/
def descriptorParts (bs : List Byte) : List Word × List Byte :=
  ((List.range 8).map (fun i => wordOf (fieldAt bs (8 * i) 8)) ++ (List.range 8).map (fun i => wordOf (fieldAt bs (192 + 8 * i) 8)),
   (bs.drop 64).take 128)

/-- R293: the treatment a descriptor gives; none when it is invalid. -/
def descriptorTreatment (page : Addr) (vint : Nat) (d : List Word × List Byte) : Option Treatment :=
  let w (i : Nat) : Word := d.1.getD i 0
  let mode := bits (w 0) 57 56
  let sound := bits (w 0) 63 58 == 0 && bits (w 0) 47 0 == page.toNat && bits (w 0) 55 48 == vint &&
    bits (w 1) 63 56 == 0 && bits (w 2) 63 55 == 0 && bits (w 3) 63 32 == 0 && (List.range 12).all (fun i => w (4 + i) == 0)
  if !sound then none
  else if mode = 1 ∧ vint = 2 ∧ w 1 = 0 ∧ w 2 = 0 ∧ d.2.all (· == 0) = true then some .interlocked
  else if mode = 2 ∧ (vint = 1 ∨ vint = 2) then
    some (.racked ((w 1).setWidth 48) ((w 2).setWidth 48) (bits (w 1) 55 48) (bits (w 2) 54 48) d.2 ((w 3).setWidth 32))
  else none

/-- What finding that treatment costs (R345). -/
def State.treatmentCosts (s : State) (core : Nat) (page : Addr) (vint : Nat) : List (Nat × Nat) :=
  if ((find? page.toNat (s.coreAt core).mem.descs).bind (descriptorTreatment page vint)).isSome then []
  else s.tableCosts core (s.coreAt core).ctxId (descriptorAddr page) 4

/-- The treatment of a page whose vintage is not 3: the cached descriptor, or the one in memory, which is cached when it
is valid (R292). -/
def State.treatmentOf (s : State) (core : Nat) (page : Addr) (vint : Nat) : State × Option Treatment :=
  match (find? page.toNat (s.coreAt core).mem.descs).bind (descriptorTreatment page vint) with
  | some t => (s, some t)
  | none =>
    let ctx := (s.coreAt core).ctxId
    match s.readBlocks core ctx (descriptorAddr page) 4 with
    | .error _ => (s, none)
    | .ok bs =>
      let s := s.countAll ctx (s.tableCosts core ctx (descriptorAddr page) 4)
      let d := descriptorParts bs
      match descriptorTreatment page vint d with
      | none => (s, none)
      | some t =>
        (s.modCoreAt core (fun c => { c with mem := { c.mem with descs := put page.toNat d c.mem.descs } }), some t)

/-! Members (R257). -/

/-- The members of a table: none when an entry has a reserved bit. -/
def groupMembers (bs : List Byte) (n : Nat) : Option (List (Nat × Nat)) :=
  (List.range n).mapM (fun m =>
    let e := fieldAt bs (8 * m) 8
    if e / 2 ^ 9 % 2 ^ 7 = 0 ∧ e / 2 ^ 32 = 0 then some (e % 2 ^ 9, e / 2 ^ 16 % 2 ^ 16) else none)

/-- R256: the element size of a `coll` type. -/
def collSize (ty : BitVec 2) : Nat := if ty = 1 then 2 else 4

/-- The group table of a `coll` of element size e, with the checks of R259 at issue. The root is checked for `bcast` alone
(R257). -/
def State.readGroup (s : State) (a : Word) (e : Nat) (bcast : Bool) : Except Check Group :=
  if bits a 63 48 ≠ 0 then .error (.fault 0x05 a 0)
  else if a.toNat % 64 ≠ 0 then .error (.fault 0x11 a 0)
  else
    match s.readBlocks s.cur s.core.ctxId a.toNat 1 with
    | .error c => .error c
    | .ok h =>
      let n := fieldAt h 0 4
      let cnt := fieldAt h 8 8
      if n < 2 ∨ 1024 < n ∨ cnt < 1 ∨ 2 ^ 32 < cnt ∨ fieldAt h 22 2 ≠ 0 ∨ fieldAt h 30 2 ≠ 0 ∨ fieldAt h 32 32 ≠ 0 ∨
          (bcast = true ∧ n ≤ fieldAt h 4 4) then .error (.code 0x06)
      else
        match s.readBlocks s.cur s.core.ctxId (a.toNat + 64) ((n + 7) / 8) with
        | .error c => .error c
        | .ok b =>
          match groupMembers b n with
          | none => .error (.code 0x06)
          | some ms =>
            let g : Group := ⟨n, fieldAt h 4 4, cnt, BitVec.ofNat 48 (fieldAt h 16 6), BitVec.ofNat 48 (fieldAt h 24 6), ms⟩
            if !decide ms.Nodup || !ms.contains (s.cur, s.moduleNo) then .error (.code 0x06)
            else if ms.any (fun m => if m.2 = s.moduleNo then (s.dieAt (dieOf m.1)).fenced else !s.reach.contains m.2)
              then .error (.code 0x05)
            else if g.send.toNat % e ≠ 0 then .error (.fault 0x11 (g.send.setWidth 64) 0)
            else if g.recv.toNat % e ≠ 0 then .error (.fault 0x11 (g.recv.setWidth 64) 0)
            else .ok g

/-- What reading the group table at an address costs (R345). -/
def State.groupCosts (s : State) (a : Word) : List (Nat × Nat) :=
  if bits a 63 48 ≠ 0 ∨ a.toNat % 64 ≠ 0 then []
  else
    match s.readBlocks s.cur s.core.ctxId a.toNat 1 with
    | .error _ => []
    | .ok h => s.tableCosts s.cur s.core.ctxId a.toNat (1 + (min 1024 (fieldAt h 0 4) + 7) / 8)

/-- R256, R259, R337: the checks of a `coll`; `perMember` says that the send buffer holds n · c elements (R258). -/
def State.collCheck (s : State) (f : FormCO) (perMember bcast : Bool) : Option Check :=
  let t := s.core.task
  if !t.timed && !t.leave then some (.code 0x0A)
  else
    match s.readGroup (s.readA f.g) (collSize f.ty) bcast with
    | .error c => some c
    | .ok g =>
      let held := (if perMember then g.n else 1) * g.cnt * collSize f.ty
      if t.timed && decide (1024 * t.burst < held) then some (.code 0x0A) else s.barCheck f.bar

/-! Formats through the table (R160, R162, R163), pins, timed operations and `resume`. -/

/-- R160. -/
def State.cvtCheck (s : State) (f : FormVC) : Option Check :=
  if (f.fsrc = 15 ∨ f.fdst = 15) ∧ bits s.descriptor 3 0 = 14 then some (.code 0x06) else none

/-- R163: a descriptor must have block = 1, which makes it a block element format. -/
def State.cvtsCheck (s : State) (f : FormVC) : Option Check :=
  if (f.fsrc = 15 ∨ f.fdst = 15) ∧ bits s.descriptor 5 4 ≠ 1 then some (.code 0x06) else none

/-- R162. -/
def State.maxabsCheck (s : State) (fmt : BitVec 4) : Option Check :=
  if fmt = 15 ∧ bits s.descriptor 5 4 ≠ 1 then some (.code 0x06) else none

/-- R219. -/
def State.pinCheck (s : State) (size base : Reg) : Option Check :=
  if s.readA size = 0 then none
  else if 2 ^ 30 < (s.readA size).toNat then some (.code 0x06)
  else if bits (s.readA base) 63 48 ≠ 0 then some (.fault 0x05 (s.readA base) 0)
  else none

/-- R322. -/
def State.alignCheck (s : State) : Option Check := if s.core.task.timed then none else some (.code 0x0F)

/-- The die mask of the phase that a core's task belongs to. -/
def State.phaseMask (s : State) (core : Nat) : BitVec 8 :=
  match find? (s.coreAt core).task.launch s.fe.launches with
  | none => 0
  | some l =>
    match find? l.phase s.fe.phases with
    | none => 0
    | some p => p.mask

/-- R324. -/
def State.tsendCheck (s : State) (die : BitVec 3) : Option Check :=
  if !s.core.task.timed then some (.code 0x0F)
  else if (s.phaseMask s.cur).getLsbD die.toNat && !(s.dieAt die.toNat).fenced then none
  else some (.code 0x05)

/-- The numbers of the user control registers that travel with a task (R285). -/
def savedCsrs : List Nat :=
  [0x001, 0x002, 0x003, 0x004, 0x010, 0x011, 0x012, 0x013, 0x005, 0x006] ++ (List.range 16).map (fun j => 0x020 + j)

/-- R271: a flight-record entry with no reserved field set. -/
def Flight.entryLegal (f : Flight) (i : Nat) : Bool :=
  let w0 := find 0 (128 * i) f.words
  let w1 := find 0 (128 * i + 1) f.words
  bits w0 39 33 == 0 && bits w0 49 48 != 3 && bits w0 63 56 == 0 && bits w1 63 9 == 0

/-- The delay bundles D of the page of bundle F (R49, R272): of its version where its place is kept, and otherwise of the
treatment that its page has. -/
def State.delaysOfF (s : State) : Nat :=
  let c := s.core
  let treat : Option Treatment := match c.fw.posF with
    | some p => some p.ver.treat
    | none =>
      let page : Addr := BitVec.ofNat 48 (c.flight.bundleF.toNat / 4096 * 4096)
      match s.walkIn (s.coreView s.cur) page.toNat with
      | .ok p => if p.vint = 3 then none else (s.treatmentOf s.cur page p.vint.toNat).2
      | _ => none
  if treat = some .interlocked then 1 else 2

/-- R271, R272, R285: what `resume` checks. -/
def State.resumeCheck (s : State) : Option Check :=
  let f := s.core.flight
  let n := f.xferCount.toNat
  let words := [f.xfer0, f.xfer1].take n
  let cd (x : Word) : Bool := let c := bits x 49 48; decide (1 ≤ c) && decide (c ≤ s.delaysOfF) && bits x 63 50 == 0
  if (List.range f.count).all f.entryLegal && decide (n ≤ 2) && words.all cd &&
      savedCsrs.all (fun k => let x := s.core.regs.readCsr k; csrValueLegal k x || (k == 0x004 && x == 0))
  then none else some (.code 0x06)

/-! The operand checks (R75). -/

/-- The operand check of each operation, its first failure; the barrier-table miss comes last. A `barm` whose count and whose
handle both fail raises 0x06, for the count (DESIGN CHOICE, log 93). -/
def operandCheck (i : Instr) (s : State) : Option Check :=
  match i with
  | .csrr f => if csrPrivileged f.imm then some (.code 0x03) else none
  | .csrw f =>
    if csrPrivileged f.imm then some (.code 0x03)
    else if csrValueLegal f.imm.toNat (s.readA f.s) then none else some (.code 0x06)
  | .csrwp fs num => if csrValueLegal num.toNat (s.readA fs) then none else some (.code 0x06)
  | .brEq f | .brNe f | .brLt f | .brGe f | .brLtu f | .brGeu f => dispCheck (s.dispTarget f.disp)
  | .bz _ d | .bnz _ d => dispCheck (s.dispTarget d)
  | .jmp d | .call d => dispCheck (s.dispTarget d)
  | .jmpr r | .callr r => targetCheck (s.readA r)
  | .ret => targetCheck (s.readA 1)
  | .loop f => if bits (s.readA f.cnt) 63 32 ≠ 0 then some (.code 0x06) else none
  | .trap code => some (.fault 0x0C 0 code.toNat)
  | .align _ | .realign => s.alignCheck
  | .alignr r => firstCheck [s.alignCheck, if bits (s.readA r) 63 40 ≠ 0 then some (.code 0x06) else none]
  | .bwait bar => s.barCheck bar
  | .barm bar c _ => firstCheck [if bits (s.readA c) 63 48 ≠ 0 then some (.code 0x06) else none, s.barCheck bar]
  | .ldB _ | .ldBu _ | .ldH _ | .ldHu _ | .ldW _ | .ldWu _ | .ldD _ | .ldx _ | .vld _ | .vldEf _ | .vlds _ | .vldx _
  | .vldb _ | .stB _ | .stH _ | .stW _ | .stD _ | .stx _ | .vst _ | .vstEf _ | .vsts _ | .vstx _ | .vstmc _
  | .amoAdd _ | .amoFadd _ | .amoMin _ | .amoMax _ | .amoMinu _ | .amoMaxu _ | .amoAnd _ | .amoOr _ | .amoXor _
  | .amoSwap _ | .amoCas _ | .amoFmin _ | .amoFmax _ | .redAdd _ | .redFadd _ | .redMin _ | .redMax _ | .redMinu _
  | .redMaxu _ | .redAnd _ | .redOr _ | .redXor _ | .redFmin _ | .redFmax _ => elemsCheck (opElems i (memOperands i s))
  | .pin size base _ _ => s.pinCheck size base
  | .tsend _ die _ => s.tsendCheck die
  | .vcvt f => s.cvtCheck f
  | .vcvts f => s.cvtsCheck f
  | .vmaxabs fmt _ _ _ _ _ => s.maxabsCheck fmt
  | .pacc mask _ _ => if s.core.task.timed && decide (s.core.task.duty < countOnes mask) then some (.code 0x0A) else none
  | .pdrain _ _ _ _ fmt d _ =>
    if (fmt = 0 ∨ fmt = 1) ∧ s.core.press.s.toNat < d.toNat then some (.code 0x06) else none
  | .cgoIn f | .cgoOut f => s.copyCheck f
  | .cseq _ c r => s.cseqCheck c r
  | .cstart f | .cstartOut f => s.nestCheck f
  | .sbindIn f | .sbindOut f => s.bindCheck f
  | .bank mask mode => s.bankCheck mask mode
  | .collRscatterSum f | .collRscatterMax f => s.collCheck f true false
  | .collAllreduceSum f | .collAllreduceMax f | .collAllgather f => s.collCheck f false false
  | .collBcast f => s.collCheck f false true
  | .resume => s.resumeCheck
  | .bmap _ fe => if bits (s.readA fe) 63 11 ≠ 0 then some (.code 0x06) else none
  | _ => none

/-- The encoding check of an operation in a slot (R75): legality of the word, then of the place. -/
def encCheck (i : Instr) (slot : Nat) (s : State) : Bool := i.wellFormed && legalHere i slot s

/-- R207: whether a register that an operation reads fails ECC, or the entry of a stream port in its bank; window names are
rotated. -/
def readsStruck (i : Instr) (s : State) : Bool :=
  !s.fwIssuing && !s.bad.isEmpty && (reads i).any (fun n => match n with
    | .a k => s.bad.contains (.scalar s.cur (rotate s.core.regs.rb (k % 64)))
    | .v k =>
      if k < 56 then s.bad.contains (.vector s.cur (rotate s.core.regs.rb k))
      else
        let x := s.core.eng.stream (k - 56)
        decide (k < 60) && decide (x.taken < x.filled) && s.badBank (clusterOf s.cur) (x.place x.taken) 256
    | .k k => s.bad.contains (.mask s.cur k)
    | _ => false)

/-- Every check of an operation in the slot that runs: encoding, registers that fail ECC (log 75), ports, operands. The
ports come before the operand checks: a `tsend` of a free launch that names an unbound port raises 0x10 (DESIGN CHOICE,
log 73). An operation that is issued again in hidden issue has passed them at its first issue, and is computed from what it
read then (R265, R270). -/
def opCheck (i : Instr) (s : State) : Option Check :=
  if s.core.issue.again.isSome then none
  else if encCheck i s.core.issue.slot s then
    if readsStruck i s then some (.code 0x0D) else firstCheck [portCheck i s, operandCheck i s]
  else some (.code 0x01)

/-- Run an operation behind its checks: the first failure is taken, and then the operation has no effect. -/
def guarded (i : Instr) (s : State) (k : State → State) : Out :=
  match opCheck i s with
  | some c => .next (s.takeCheck s.core.issue.slot c)
  | none => .next (k s)

/-! Watches (R280). -/

/-- The kinds of access a watch can match. -/
inductive WatchKind where
  | read | write | fetch
  deriving DecidableEq, Repr

/-- Whether a watch register matches n bytes from an address. -/
def watchMatches (x : Word) (kind : WatchKind) (engine : Bool) (va n : Nat) : Bool :=
  let lg := bits x 51 48 + 3
  let lo := bits x 47 0 / 2 ^ lg * 2 ^ lg
  let on := match kind with
    | .read => x.getLsbD 52
    | .write => x.getLsbD 53
    | .fetch => x.getLsbD 54
  x.getLsbD 56 && on && (!engine || x.getLsbD 55) && decide (va < lo + 2 ^ lg) && decide (lo < va + n)

/-- Whether any watch of a core matches. -/
def Core.watched (c : Core) (kind : WatchKind) (engine : Bool) (va n : Nat) : Bool :=
  (List.range 4).any (fun i => watchMatches (c.regs.readCsr (0x110 + i)) kind engine va n)

/-- Whether a debugger is attached. -/
def Core.debugged (c : Core) : Bool := (c.regs.readCsr 0x102).getLsbD 20

/-- The address of the first element of an operation that a watch matches at issue. -/
def watchHit (i : Instr) (s : State) : Option Word :=
  let u := memUse i
  if u.1 || u.2 then
    ((opElems i (memOperands i s)).find? (fun e =>
      (u.1 && s.core.watched .read false e.va.toNat e.size) ||
        (u.2 && s.core.watched .write false e.va.toNat e.size))).map (fun e => e.va)
  else none

end Sys2Proof.Machine
end

