-- ==== Sys2Proof/Machine/Flags.lean ====
section
/-! DEFINITION. The flags of an operation: which flags of which lanes a result carries to `vflags` (R109, R126). -/

namespace Sys2Proof.Machine

/-- The flags a vector result carries: those of its enabled elements, each in the lane that steers it; none under nf. -/
def gatherFlags (nf : Bool) (w : Nat) (on : Nat → Bool) (f : Nat → BitVec 5) (n : Nat) : FlagVec :=
  if nf then 0 else laneFlags w (fun j => if on j then f j else 0) n

/-- `vflags` after a landing: flags only accumulate (R126). -/
def Regs.orFlags (r : Regs) (x : FlagVec) : Regs := { r with vflags := r.vflags ||| x }

/-- `vflags` after a clear and restore: bits kept, bits set (R170). -/
def Regs.setFlags (r : Regs) (keep on : FlagVec) : Regs := { r with vflags := (r.vflags &&& keep) ||| on }

/-- The flag bits of every lane chosen by a five-bit mask. -/
def everyLane (m : BitVec 5) : FlagVec := laneFlags 32 (fun _ => m) 64

/-- The flags as a register shows them: lane i's five bits in the low bits of lane i (R170). -/
def flagsAsVec (x : FlagVec) : Vec := vecOf 32 (fun i => (flagsOfLane x i).setWidth 32) 64

/-- Flags from the low five bits of each lane. -/
def flagsFromVec (v : Vec) : FlagVec := laneFlags 32 (fun i => (elem v 32 i).setWidth 5) 64

end Sys2Proof.Machine
end

