-- ==== Sys2Proof/Machine/Version.lean ====
section
/-! DEFINITION. Versions of a canonical page and places in them (R293 to R297, R313). -/

namespace Sys2Proof.Machine

/-- The place in the sequence that a byte of a landing map names; none for 0xFF (R294). -/
def landingIndex (ncount : Nat) (b : Byte) : Option Nat :=
  if b.toNat < 0x80 then some b.toNat else if b.toNat < 0xFF then some (ncount + (b.toNat - 0x80)) else none

/-- The landings of a map, as place in the sequence and canonical bundle. -/
def landings (ncount : Nat) (map : List Byte) : List (Nat × Nat) :=
  map.zipIdx.filterMap (fun p => (landingIndex ncount p.1).map (fun i => (i, p.2)))

/-- The landing of the greatest place among those at or before a place: its canonical bundle (R295). -/
def anchorOf (l : List (Nat × Nat)) (idx : Nat) : Nat :=
  (l.foldl (fun (best : Nat × Nat) p => if p.1 ≤ idx ∧ best.1 ≤ p.1 then p else best) (0, 0)).2

/-- The canonical address of a place: its own bundle, or its anchor in a racked version (R295, R296). -/
def Pos.addr (p : Pos) : Addr :=
  match p.ver.treat with
  | .racked _ _ n _ map _ => p.ver.page + BitVec.ofNat 48 (32 * anchorOf (landings n map) p.idx)
  | _ => p.ver.page + BitVec.ofNat 48 (32 * p.idx)

/-- The canonical address of the bundle that issues next. -/
def Flow.nextAddr (f : Flow) : Addr :=
  match f.goto with
  | some a => a
  | none => f.pos.addr

/-- The place n bundles later in the version's sequence. -/
def Pos.plus (p : Pos) (n : Nat) : Pos := { p with idx := p.idx + n }

/-- Where a bundle of a version is held: the address of its bytes; none for a padding place (R295). -/
def Pos.bundleAddr (p : Pos) : Option Addr :=
  match p.ver.treat with
  | .racked nat annex n a _ _ =>
    if p.idx < n then some (nat + BitVec.ofNat 48 (32 * p.idx))
    else if p.idx < n + a then some (annex + BitVec.ofNat 48 (32 * (p.idx - n)))
    else none
  | _ => some (p.ver.page + BitVec.ofNat 48 (32 * p.idx))

/-- What follows a place in fetch order: a place of the version, or the canonical address of the next page. -/
def Pos.next (p : Pos) : Pos ⊕ Addr :=
  let full := match p.ver.treat with
    | .racked _ _ n a _ _ => decide (n = 128 ∧ a = 0)
    | _ => true
  if p.idx = 127 ∧ full = true then .inr (p.ver.page + 4096) else .inl (p.plus 1)

/-- The place of a canonical bundle in a version; none where a racked version has no landing there (R296). -/
def Version.enter (v : Version) (c : Nat) : Option Pos :=
  match v.treat with
  | .racked _ _ n _ map _ => ((map[c]?).bind (landingIndex n)).map (fun i => ⟨v, i⟩)
  | _ => some ⟨v, c⟩

/-- The version number of a racked version, 0 otherwise (R313). -/
def Version.number (v : Version) : BitVec 32 :=
  match v.treat with
  | .racked _ _ _ _ _ n => n
  | _ => 0

end Sys2Proof.Machine
end

