-- ==== Sys2Proof/Machine/ScalarMem.lean ====
section
/-! DEFINITION. Scalar loads and stores, prefetch and write-back (R103 to R105, R213, R214), and how any access enters
its queue (R228). -/

namespace Sys2Proof.Machine

/-- The queue entry of an operation as it issues. -/
def State.accessOf (s : State) (i : Instr) : Access :=
  let c := s.core
  let o := memOperands i s
  { slot := c.issue.slot, seq := c.issue.seq, instr := i, word := slotWord c.issue.word c.issue.slot, ops := o
    addr := if s.fwIssuing then BitVec.ofNat 48 c.fw.pc else c.issue.addr
    bundle := if s.fwIssuing then c.fw.bundleNo else c.flow.bundleNo
    elems := opElems i o, targets := none, physical := s.fwIssuing, bounced := false, failed := false
    asked := s.cluster.asked }

/-- R195, R196: an access that touches a bank which does not serve the window at its issue raises fault 0x04, found
after issue; the access is not sent. -/
def State.bankIssue (s : State) (x : Access) : State × Access :=
  let bad (e : MemElem) : Bool := inWindow e.va.toNat &&
    decide (s.cluster.bankFinding ((e.va.toNat - windowBase) / 2 ^ 19) = .fault)
  match if x.physical then none else x.elems.find? bad with
  | none => (s, x)
  | some e => (s.report (.fault 0x04 x.slot x.addr e.va false 0), { x with failed := true })

/-- Put an access into the load queue, and its result in flight without a value. An access without an enabled element
makes no access and lands nothing (R209). -/
def State.enqueueLoad (s : State) (i : Instr) (d : Dest) (en : Vec) : State :=
  let x := s.accessOf i
  if x.elems.isEmpty then s
  else
    let (s, x) := s.bankIssue x
    (s.modMem (fun c => { c with loadQ := c.loadQ ++ [.access x] })).land d 0 en 0 (latency i) (ready := false)

/-- Put an access into the store queue. -/
def State.enqueueStore (s : State) (i : Instr) : State :=
  let x := s.accessOf i
  if x.elems.isEmpty then s
  else
    let (s, x) := if (memUse i).2 then s.bankIssue x else (s, x)
    (s.modMem (fun c => { c with storeQ := c.storeQ ++ [.access x] })).modIssue (fun c => { c with seq := c.seq + 1 })

/-- Put an atomic into the store queue, and its return into a63 in flight (R215, R217). -/
def State.enqueueAtomic (s : State) (i : Instr) : State :=
  let (s, x) := s.bankIssue (s.accessOf i)
  (s.modMem (fun c => { c with storeQ := c.storeQ ++ [.access x] })).land (s.destA 63) 0 scalarBits 0 (latency i)
    (ready := false)

/-- A scalar load into the register a field names. -/
def State.runLoad (s : State) (i : Instr) (d : Reg) : Out := guarded i s (fun s => s.enqueueLoad i (s.destA d) scalarBits)

/-- A store. -/
def State.runStore (s : State) (i : Instr) : Out := guarded i s (fun s => s.enqueueStore i)

def execLdB (f : FormLD) (s : State) : Out := s.runLoad (.ldB f) f.d
def execLdBu (f : FormLD) (s : State) : Out := s.runLoad (.ldBu f) f.d
def execLdH (f : FormLD) (s : State) : Out := s.runLoad (.ldH f) f.d
def execLdHu (f : FormLD) (s : State) : Out := s.runLoad (.ldHu f) f.d
def execLdW (f : FormLD) (s : State) : Out := s.runLoad (.ldW f) f.d
def execLdWu (f : FormLD) (s : State) : Out := s.runLoad (.ldWu f) f.d
def execLdD (f : FormLD) (s : State) : Out := s.runLoad (.ldD f) f.d
def execLdx (f : FormLV) (s : State) : Out := s.runLoad (.ldx f) f.vd
def execStB (f : FormLD) (s : State) : Out := s.runStore (.stB f)
def execStH (f : FormLD) (s : State) : Out := s.runStore (.stH f)
def execStW (f : FormLD) (s : State) : Out := s.runStore (.stW f)
def execStD (f : FormLD) (s : State) : Out := s.runStore (.stD f)
def execStx (f : FormLV) (s : State) : Out := s.runStore (.stx f)

/-- R213: bring a line into the second-level cache, and its words into the cluster cache if there is one. The request
is dropped where the address is out of range, in the window, not translated at once or on an MS page; a walk that meters
hold up is not done at once. What it brings is counted (R345, log 44). An uncorrectable error is retired, and ends the
context's running phase or is recorded (R207). -/
def State.prefetch (s : State) (ea : Word) : State :=
  let line := ea.toNat / 128 * 128
  let ctx := s.core.ctxId
  if bits ea 63 48 ≠ 0 ∨ inWindow ea.toNat ∨ s.openAll (whoLoad s.cur) ctx (s.xlatCosts s.cur ctx line) = false then s
  else
    match s.translateElem s.cur ctx .read false ⟨0, wordOf line, 128⟩ with
    | (s', .ok ⟨_, [.mem a pa], false, _⟩) =>
      let v := s.coreView s.cur
      if s'.badLine a 128 then (s'.retireBad a pa 128 State.badLine).contextError ctx
      else
        let s' := s'.countAll ctx (if s'.l2Hit v.key pa then (if s'.cluster.cacheBanks = 0 then [] else [(meterLink, 128)]) else sliceCosts a 128)
        if s'.cluster.cacheBanks = 0 then s'.touchLine v pa false
        else (List.range 8).foldl
          (fun (s : State) i => s.fillBlock (clusterOf s.cur) v (a / 16 + i) (pa + 16 * i) false) s'
    | _ => s

def execPref (f : FormLD) (s : State) : Out := guarded (.pref f) s (fun s => s.prefetch (s.eaOff f))

/-- R214: the write-back travels in the store queue. -/
def execWbk (f : FormLD) (s : State) : Out := s.runStore (.wbk f)

end Sys2Proof.Machine
end

