-- ==== Sys2Proof/Machine/Atomic.lean ====
section
/-! DEFINITION. Atomics, reductions and retention (R215 to R219, R199). -/

namespace Sys2Proof.Machine

/-- An atomic: its effect on memory comes when it is performed (ATOMIC_EXECUTION). -/
def State.runAmo (s : State) (i : Instr) : Out := guarded i s (fun s => s.enqueueAtomic i)

def execAmoAdd (f : FormAMO) (s : State) : Out := s.runAmo (.amoAdd f)
def execAmoFadd (f : FormAMO) (s : State) : Out := s.runAmo (.amoFadd f)
def execAmoMin (f : FormAMO) (s : State) : Out := s.runAmo (.amoMin f)
def execAmoMax (f : FormAMO) (s : State) : Out := s.runAmo (.amoMax f)
def execAmoMinu (f : FormAMO) (s : State) : Out := s.runAmo (.amoMinu f)
def execAmoMaxu (f : FormAMO) (s : State) : Out := s.runAmo (.amoMaxu f)
def execAmoAnd (f : FormAMO) (s : State) : Out := s.runAmo (.amoAnd f)
def execAmoOr (f : FormAMO) (s : State) : Out := s.runAmo (.amoOr f)
def execAmoXor (f : FormAMO) (s : State) : Out := s.runAmo (.amoXor f)
def execAmoSwap (f : FormAMO) (s : State) : Out := s.runAmo (.amoSwap f)
def execAmoCas (f : FormAMO) (s : State) : Out := s.runAmo (.amoCas f)
def execAmoFmin (f : FormAMO) (s : State) : Out := s.runAmo (.amoFmin f)
def execAmoFmax (f : FormAMO) (s : State) : Out := s.runAmo (.amoFmax f)
def execRedAdd (f : FormAMO) (s : State) : Out := s.runStore (.redAdd f)
def execRedFadd (f : FormAMO) (s : State) : Out := s.runStore (.redFadd f)
def execRedMin (f : FormAMO) (s : State) : Out := s.runStore (.redMin f)
def execRedMax (f : FormAMO) (s : State) : Out := s.runStore (.redMax f)
def execRedMinu (f : FormAMO) (s : State) : Out := s.runStore (.redMinu f)
def execRedMaxu (f : FormAMO) (s : State) : Out := s.runStore (.redMaxu f)
def execRedAnd (f : FormAMO) (s : State) : Out := s.runStore (.redAnd f)
def execRedOr (f : FormAMO) (s : State) : Out := s.runStore (.redOr f)
def execRedXor (f : FormAMO) (s : State) : Out := s.runStore (.redXor f)
def execRedFmin (f : FormAMO) (s : State) : Out := s.runStore (.redFmin f)
def execRedFmax (f : FormAMO) (s : State) : Out := s.runStore (.redFmax f)

/-- The functions of R216. -/
inductive AmoOp where
  | add | fadd | min | max | minu | maxu | and | or | xor | swap | cas | fmin | fmax
  deriving DecidableEq, Repr

/-- The function of an atomic or reduction. -/
def amoOpOf : Instr → Option AmoOp
  | .amoAdd _ | .redAdd _ => some .add
  | .amoFadd _ | .redFadd _ => some .fadd
  | .amoMin _ | .redMin _ => some .min
  | .amoMax _ | .redMax _ => some .max
  | .amoMinu _ | .redMinu _ => some .minu
  | .amoMaxu _ | .redMaxu _ => some .maxu
  | .amoAnd _ | .redAnd _ => some .and
  | .amoOr _ | .redOr _ => some .or
  | .amoXor _ | .redXor _ => some .xor
  | .amoSwap _ => some .swap
  | .amoCas _ => some .cas
  | .amoFmin _ | .redFmin _ => some .fmin
  | .amoFmax _ | .redFmax _ => some .fmax
  | _ => none

/-- R216: the new memory value, from the old value m, the operand x and the comparison value c, all w bits wide. The
floating functions round to nearest even and touch no flag. -/
def amoValue (op : AmoOp) (w m x c : Nat) : Nat :=
  let f := if w = 64 then f64Format else f32Format
  let sx := sextNat w x
  let sm := sextNat w m
  match op with
  | .add => (m + x) % 2 ^ w
  | .fadd => (fAdd f .rne m x).1
  | .min => if sx < sm then x else m
  | .max => if sm < sx then x else m
  | .minu => min m x
  | .maxu => max m x
  | .and => m &&& x
  | .or => m ||| x
  | .xor => m ^^^ x
  | .swap => x
  | .cas => if m = c then x else m
  | .fmin => (fMinMax f false m x).1
  | .fmax => (fMinMax f true m x).1

/-! Retention (R199, R219). -/

/-- Put a line range behind those found, joined with the last one where they meet. -/
def addRange (l : List (Nat × Nat)) (a n : Nat) : List (Nat × Nat) :=
  match l.reverse with
  | (b, m) :: r => if b + m = a then (r.reverse) ++ [(b, m + n)] else l ++ [(a, n)]
  | [] => [(a, n)]

/-- The physical ranges of n virtual pages of 4 KiB, clipped to a virtual range; pages that are not present or lie in
the window are skipped, and so are pages whose walk ends in a fault (DESIGN CHOICE, log 91). -/
def State.pinRanges (s : State) (ctx lo hi : Nat) : Nat → Nat → List (Nat × Nat) → List (Nat × Nat)
  | 0, _, acc => acc
  | n + 1, page, acc =>
    let va := max lo (4096 * page)
    let top := min hi (4096 * page + 4096)
    let acc :=
      if inWindow va ∨ top ≤ va then acc
      else
        match s.walkIn (s.coreView s.cur) va with
        | .ok p => addRange acc ((physOf p va [memberIndex (s.partOf ctx) (dieOf s.cur)]).headD 0) (top - va)
        | _ => acc
    s.pinRanges ctx lo hi n (page + 1) acc

/-- The ways the retention registers of a context may still take: the context's allocation less one, less what the
other registers hold (R199). Each context of a partition is limited alone (DESIGN CHOICE, log 87). -/
def State.waysLeft (s : State) (ctx slot : Nat) : Nat :=
  let all := (s.partOf ctx).ways.length
  let used := (((s.ctxAt ctx).retain.filter (fun p => p.1 != slot)).map (fun p => p.2.ways)).sum
  all - 1 - used

/-- Write a retention register. -/
def State.setRetention (s : State) (ctx slot : Nat) (r : Retention) : State :=
  s.modCtxAt ctx (fun c => { c with retain := put slot r c.retain })

/-- Clear a retention register: its lines become ordinary (R199). -/
def State.clearRetention (s : State) (ctx slot : Nat) : State :=
  (s.releaseLines ctx slot).modCtxAt ctx (fun c => { c with retain := drop slot c.retain })

/-- R219: `pin` holds the physical lines found at issue, and takes effect by RETENTION_TAKES_EFFECT; a size of 0 clears
the register. -/
def State.pinLines (s : State) (size base : Word) (ways slot : Nat) : State :=
  let ctx := s.core.ctxId
  if size = 0 then s.clearRetention ctx slot
  else
    let lo := base.toNat / 128 * 128
    let hi := min (2 ^ 48) ((base.toNat + size.toNat + 127) / 128 * 128)
    let pages := (hi - 1) / 4096 - lo / 4096 + 1
    let rs := s.pinRanges ctx lo hi pages (lo / 4096) []
    let s := if s.metered ctx then (List.range pages).foldl
        (fun (s : State) i => s.countAll ctx (s.walkCosts (s.coreView s.cur) (4096 * (lo / 4096 + i)))) s
      else s
    (s.releaseLines ctx slot).setRetention ctx slot ⟨rs, min ways (s.waysLeft ctx slot), false⟩

def execPin (size base : Reg) (ways : BitVec 4) (slot : BitVec 3) (s : State) : Out :=
  guarded (.pin size base ways slot) s (fun s => s.pinLines (s.readA size) (s.readA base) ways.toNat slot.toNat)
def execUnpin (slot : BitVec 3) (s : State) : Out :=
  guarded (.unpin slot) s (fun s => s.clearRetention s.core.ctxId slot.toNat)

/-- Retention asked for takes effect (R199, R219). -/
def execRetentionTakesEffect (s : State) : Out :=
  let new := s.contexts.flatMap (fun p => (p.2.retain.filter (fun q => !q.2.active)).map (fun q => (p.1, q.1, q.2)))
  let s := { s with contexts := s.contexts.map (fun p =>
    (p.1, { p.2 with retain := p.2.retain.map (fun q => (q.1, { q.2 with active := true })) })) }
  done (new.foldl (fun (s : State) x => s.retainLines x.1 x.2.1 x.2.2) s)

end Sys2Proof.Machine
end

