-- ==== Sys2Proof/Machine/Flit.lean ====
section
/-! DEFINITION. Flits of the scale-up fabric (R330): their fields, their CRC, and putting one on a port; the meters (R345). -/

namespace Sys2Proof.Machine

/-- One bit of the reflected IEEE 802.3 CRC. -/
def crcBit (x : BitVec 32) : BitVec 32 := if x.getLsbD 0 then (x >>> 1) ^^^ 0xEDB88320 else x >>> 1

/-- n bits of the CRC. -/
def crcBits (x : BitVec 32) : Nat → BitVec 32
  | 0 => x
  | n + 1 => crcBits (crcBit x) n

/-- The CRC register after a byte string. -/
def crcFrom (x : BitVec 32) : List Byte → BitVec 32
  | [] => x
  | b :: r => crcFrom (crcBits (x ^^^ b.setWidth 32) 8) r

/-- CRC-32 with the IEEE 802.3 polynomial. -/
def crc32 (bs : List Byte) : BitVec 32 := ~~~(crcFrom (BitVec.allOnes 32) bs)

/-- The fields of a flit. -/
structure Flit where
  type : Nat
  last : Bool
  src : Nat
  dst : Nat
  len : Nat
  addr : Nat
  part : Nat
  seq : BitVec 32
  tag : Nat
  payload : List Byte
  deriving DecidableEq, Repr

/-- Bytes 0 to 251. -/
def Flit.body (f : Flit) : List Byte :=
  leBytes f.type 1 ++ leBytes f.last.toNat 1 ++ leBytes f.src 2 ++ leBytes f.dst 2 ++ leBytes f.len 2 ++
    leBytes f.addr 6 ++ leBytes f.part 2 ++ leBytes f.seq.toNat 4 ++ leBytes f.tag 4 ++ List.replicate 4 0 ++
    (f.payload ++ List.replicate 224 0).take 224

/-- The 256 bytes on the link. -/
def Flit.encode (f : Flit) : Vec := vecOfBytes (f.body ++ leBytes (crc32 f.body).toNat 4)

/-- Read the fields. -/
def flitOf (v : Vec) : Flit :=
  let b := vecBytes v 256
  let at_ (i n : Nat) : Nat := fieldAt' b i n
  { type := at_ 0 1, last := at_ 1 1 % 2 == 1, src := at_ 2 2, dst := at_ 4 2, len := at_ 6 2, addr := at_ 8 6
    part := at_ 14 2, seq := BitVec.ofNat 32 (at_ 16 4), tag := at_ 20 4, payload := (b.drop 28).take 224 }
where
  /-- n bytes from byte i, little-endian. -/
  fieldAt' (bs : List Byte) (i n : Nat) : Nat := leValue ((bs.drop i).take n)

/-- Whether the CRC of a flit is good. -/
def flitGood (v : Vec) : Bool :=
  let b := vecBytes v 256
  crc32 (b.take 252) == BitVec.ofNat 32 (leValue (b.drop 252))

/-- A fabric port. -/
def State.port (s : State) (n : Nat) : FabricPort := find ⟨0, 0, [], [], 0, 0, 0, 0, [], []⟩ n s.ports
/-- Replace a fabric port. -/
def State.setPort (s : State) (n : Nat) (p : FabricPort) : State := { s with ports := put n p s.ports }

/-- Put a flit that carries a sequence number on a port; it is kept until it is acknowledged (R331). -/
def State.sendFlit (s : State) (n : Nat) (f : Flit) : State :=
  let p := s.port n
  let v := ({ f with seq := p.next, src := s.moduleNo }).encode
  s.setPort n { p with next := p.next + 1, retry := p.retry ++ [v], sent := p.sent ++ [v] }

/-- Put a flit of link control on a port: an acknowledge or a retry request names a sequence number of the other direction,
in its tag; it has a number of its own like every flit (R330, R331; log 37). -/
def State.sendControl (s : State) (n type dst part : Nat) (seq : BitVec 32) : State :=
  s.sendFlit n ⟨type, true, s.moduleNo, dst, 0, 0, part, 0, seq.toNat, []⟩

/-- Whether a flit is one of link control. -/
def Flit.control (f : Flit) : Bool := f.type == 5 || f.type == 6

/-- Whether everything a port has sent but link control is acknowledged. -/
def FabricPort.acked (p : FabricPort) : Bool := p.retry.all (fun v => (flitOf v).control)

/-- Send a message in flits of at most 224 bytes, from an offset or address upward; a message without bytes has no flit. -/
def State.sendMessage (s : State) (n type dst part tag : Nat) : Nat → Nat → List Byte → State
  | 0, _, _ => s
  | _, _, [] => s
  | k + 1, addr, bs =>
    let here := bs.take 224
    let s := s.sendFlit n ⟨type, decide (bs.length ≤ 224), s.moduleNo, dst, here.length, addr, part, 0, tag, here⟩
    if bs.length ≤ 224 then s else s.sendMessage n type dst part tag k (addr + 224) (bs.drop 224)

/-- The fabric port a partition sends on: its first (R18). -/
def State.sendPort (s : State) (ctx : Nat) : Nat := (s.partOf ctx).fabricPorts.headD 0

/-! The ways of requests through the meters (R345). -/

/-- How a request uses memory: it reads, it writes, or it writes past the cluster's cache. -/
inductive MemUse where
  | read | write | through
  deriving DecidableEq, Repr

/-- What n bytes at a place cost when a core reads or writes them there, each link that they cross counted, as R192 and R9
give the way (R345, log 44): a bank and the cluster's own cache count nothing; past them a plain access goes to the home
slice, and on to memory unless it reads a line that the second-level cache holds; an access to a memory-side page goes from
die to die. -/
def State.placeCosts (s : State) (core : Nat) (t : Target) (use : MemUse) : Place → List (Nat × Nat)
  | .bank _ => []
  | .mem a pa =>
    let n := t.elem.size
    let c := s.clusterAt (clusterOf core)
    if t.ms then
      (meterOf a, n) :: (match s.stackLinks (dieOf core) a with
        | 0 => []
        | k => [(meterLink, n * k)])
    else if c.cacheBanks ≠ 0 ∧ (use = .write ∨ (use = .read ∧
        (find CacheBlock.empty (a / 16) c.cache).serves (s.coreAt core).mem.refill (a % 16) n = true)) then []
    else if use = .read ∧ s.l2Hit t.key pa = true then [(meterLink, n)]
    else sliceCosts a n

/-- What a plain access costs beside its own bytes: the dirty bytes of the block that its block drives out of the cluster
cache, or, where it goes past that cache, those of its own block (R192, R197). -/
def State.sideCosts (s : State) (core : Nat) (t : Target) (use : MemUse) : Place → List (Nat × Nat)
  | .bank _ => []
  | .mem a _ =>
    let cl := clusterOf core
    let c := s.clusterAt cl
    if t.ms || c.cacheBanks == 0 then []
    else
      (if use = .through then s.blockCosts cl (a / 16) else []) ++ ((c.evicts (a / 16)).map (s.blockCosts cl)).getD []

/-- Whether the meters that count bytes for an access at a place are open to a request. -/
def State.placeOpen (s : State) (who core : Nat) (t : Target) (use : MemUse) (p : Place) : Bool :=
  s.openAll who (s.coreAt core).ctxId (s.placeCosts core t use p ++ s.sideCosts core t use p)

/-- Charge the meters that count bytes at a target. -/
def State.chargeTarget (s : State) (who core : Nat) (t : Target) (use : MemUse) : State :=
  (t.places.flatMap (s.placeCosts core t use)).foldl
    (fun (s : State) x => s.meterTake who (s.coreAt core).ctxId x.1 x.2) s

/-- The meters that a request is held at. -/
def State.closedMeters (s : State) (who core : Nat) (t : Target) (use : MemUse) : List Nat :=
  s.closedAt who (s.coreAt core).ctxId (t.places.flatMap (fun p => s.placeCosts core t use p ++ s.sideCosts core t use p))

/-- METER_REFILL: every 1,024 ticks (R345). -/
def execMeterRefill (s : State) : Out :=
  done { s with contexts := s.contexts.map (fun p =>
    (p.1, { p.2 with meters := p.2.meters.map (fun q =>
      (q.1, if q.2.rate = 0 then q.2 else { q.2 with tokens := min (q.2.burst : Int) (q.2.tokens + (q.2.rate : Int)) })) })) }

end Sys2Proof.Machine
end

