-- ==== Sys2Proof/Machine/MemEvents.lean ====
section
/-! DEFINITION. The events of the load and store queues (R192, R203, R227 to R239): translation, data arrival, writes
performed, atomics executed, bounced and re-issued, and the markers of `mark`. -/

namespace Sys2Proof.Machine

/-! The queues (R228). -/

/-- Whether an access waits for its translation. -/
def Access.untranslated (x : Access) : Bool := x.targets.isNone && !x.failed && !x.bounced

/-- The access of an entry. -/
def entryAccess : QueueEntry → Option Access
  | .access x => some x
  | .marker _ _ => none

/-- The accesses of a queue. -/
def queueAccesses (q : List QueueEntry) : List Access := q.filterMap entryAccess

/-- The entry of a queue that goes next: the first one, unless it has failed (R228, R229). -/
def headOf (q : List QueueEntry) : Option QueueEntry :=
  match q with
  | [] => none
  | .marker c b :: _ => some (.marker c b)
  | .access x :: _ => if x.failed then none else some (.access x)

/-- Replace an access in a queue. -/
def setAccess (q : List QueueEntry) (seq : Nat) (f : Access → Access) : List QueueEntry :=
  q.map (fun e => match e with
    | .access x => if x.seq = seq then .access (f x) else e
    | .marker _ _ => e)

/-- Drop an access from a queue. -/
def dropAccess (q : List QueueEntry) (seq : Nat) : List QueueEntry :=
  q.filter (fun e => match e with
    | .access x => x.seq != seq
    | .marker _ _ => true)

/-! Translation (R203, R209, R218). -/

/-- An atomic or a reduction. -/
def isAtomic (i : Instr) : Bool := (amoOpOf i).isSome

/-- Translate one access: its targets, and the findings of its elements in ascending order. A write-back finds
nothing: it does nothing where its address does not translate (R214). An atomic needs R and W (R218). -/
def State.translateAccess (s : State) (core : Nat) (x : Access) : State × List Target × List (MemElem × Xlat) :=
  let ctx := (s.coreAt core).ctxId
  if x.physical then
    let v := s.coreView core
    x.elems.foldl
      (fun (r : State × List Target × List (MemElem × Xlat)) e =>
        match s.addrIn v e.va.toNat with
        | some a => (r.1, r.2.1 ++ [⟨e, [.mem a e.va.toNat], true, v.key⟩], r.2.2)
        | none => (r.1, r.2.1, r.2.2 ++ [(e, .fault 0x05)])) (s, [], [])
  else
    match x.instr with
    | .wbk _ => (s, [], [])
    | .vstmc _ => s.translateElems core ctx .write true x.elems
    | i =>
      if isAtomic i then
        match s.translateElems core ctx .read false x.elems with
        | (s, _, []) => s.translateElems core ctx .write false x.elems
        | r => r
      else s.translateElems core ctx (if (memUse i).2 then .write else .read) false x.elems

/-- Report what an element met. -/
def State.reportXlat (s : State) (core : Nat) (x : Access) (f : MemElem × Xlat) : State :=
  let tell (k : Finding) : State := { (({ s with cur := core } : State).report k) with cur := s.cur }
  match f.2 with
  | .ok _ => s
  | .fault c => tell (.fault c x.slot x.addr f.1.va false 0)
  | .trap c => tell (.trap c x.slot f.1.va)
  | .moving => tell (.trap 0x02 x.slot f.1.va)

/-- The bytes a store puts into element e. -/
def storeBytes (x : Access) (e : MemElem) : List Byte :=
  match x.instr with
  | .vst _ | .vstEf _ | .vsts _ | .vstx _ | .vstmc _ => ((vecBytes x.ops.vdata 256).drop (e.size * e.idx)).take e.size
  | _ => leBytes x.ops.data.toNat e.size

/-- Evict-first forms (R210). -/
def isEvictFirst : Instr → Bool
  | .vldEf _ | .vstEf _ => true
  | _ => false

/-- Whether a finding ends the phase. -/
def isFaultXlat : Xlat → Bool
  | .fault _ => true
  | _ => false

/-- R209: the other elements of a vector store that ends its phase in translation that are written all the same: a free
choice for each (log 12). -/
def State.chooseSome (s : State) : List Target → State × List Target
  | [] => (s, [])
  | t :: r =>
    let (u, l) := ({ s with free := s.free + 1 } : State).chooseSome r
    (u, if Config.freeChoice s.free then t :: l else l)

/-- Settle a translation: the access with its targets, or failed with its findings reported. A fault of a firmware
access ends the phase at once (R276). The elements that a vector store writes although it ends its phase are sent, and
written in their turn behind the stores and marks that it comes behind (R209, R228, R229). -/
def State.settle (s : State) (core : Nat) (x : Access) : State × Access :=
  match s.translateAccess core x with
  | (s, ts, []) => (s, { x with targets := some ts, bounced := false })
  | (s, ts, f :: r) =>
    let s := if x.physical then
        { (({ s with cur := core } : State).raise 0x05 x.slot x.addr f.1.va true false false false 0) with cur := s.cur }
      else (f :: r).foldl (fun s g => s.reportXlat core x g) s
    if (f :: r).any (fun g => isFaultXlat g.2) && 1 < x.elems.length && (memUse x.instr).2 && !isAtomic x.instr then
      let (s, ts) := s.chooseSome ts
      (s, { x with targets := some ts, bounced := false })
    else (s, { x with failed := true })

/-- Who makes the request of an access, and how it uses memory. -/
def whoOf (core : Nat) (i : Instr) : Nat := if (memUse i).2 then whoStore core else whoLoad core
def useOf (i : Instr) : MemUse := if isAtomic i then .through else if (memUse i).2 then .write else .read

/-- What the translation of an access costs (R345). -/
def State.accessWalks (s : State) (core : Nat) (x : Access) : List (Nat × Nat) :=
  let ctx := (s.coreAt core).ctxId
  if x.physical || !s.metered ctx then [] else x.elems.flatMap (fun e => s.xlatCosts core ctx e.va.toNat)

/-- Whether an access may be translated: its walks are not held up (R345). -/
def State.walksOpen (s : State) (core : Nat) (x : Access) : Bool :=
  s.openAll (whoOf core x.instr) (s.coreAt core).ctxId (s.accessWalks core x)

/-- Translate the accesses of a queue that wait, in order, as long as there is room for their requests and no meter holds
their walks up. -/
def State.settleQueue (s : State) (core room : Nat) : List QueueEntry → State × List QueueEntry
  | [] => (s, [])
  | .marker c b :: r =>
    let (s, q) := s.settleQueue core room r
    (s, .marker c b :: q)
  | .access x :: r =>
    if !x.untranslated then
      let (s, q) := s.settleQueue core room r
      (s, .access x :: q)
    else if x.elems.length ≤ room ∧ s.walksOpen core x = true then
      let (s, y) := s.settle core x
      let (s, q) := s.settleQueue core (room - x.elems.length) r
      (s, .access y :: q)
    else (s, .access x :: r)

/-- The requests that a core may have outstanding (R13). -/
def requestLimit : Nat := 2048

/-- The requests of a queue that have been sent and not performed: one for each element (log 66). -/
def sentRequests (q : List QueueEntry) : Nat :=
  ((queueAccesses q).map (fun x => if x.targets.isSome then x.elems.length else 0)).sum

/-- The requests that a core may still send (R13). -/
def CoreMem.room (m : CoreMem) : Nat := requestLimit - (sentRequests m.loadQ + sentRequests m.storeQ)

/-- Whether the first access of a queue that waits for its translation may be sent. -/
def State.maySend (s : State) (core : Nat) (q : List QueueEntry) : Bool :=
  match (queueAccesses q).find? Access.untranslated with
  | some x => decide (x.elems.length ≤ (s.coreAt core).mem.room) && s.walksOpen core x
  | none => false

/-- PAGE_WALK_COMPLETE: the accesses of the acting core that wait are translated, loads first, as long as fewer than 2,048
requests are outstanding (R13); findings are reported. -/
def execPageWalkComplete (s : State) : Out :=
  let core := s.cur
  let (s, l) := s.settleQueue core s.core.mem.room s.core.mem.loadQ
  let s := s.modMem (fun c => { c with loadQ := l })
  let (s, st) := s.settleQueue core s.core.mem.room s.core.mem.storeQ
  let s := s.modMem (fun c => { c with storeQ := st })
  done (if s.core.task.status = .faulted then
      s.modMem (fun c => { c with loadQ := sentEntries c.loadQ, storeQ := sentEntries c.storeQ })
    else s)

/-! When an access may be performed. -/

/-- Whether a copy uses a bank of a cluster in this tick (R54, R195). -/
def State.bankBusy (s : State) (cl bank : Nat) : Bool :=
  let c := s.clusterAt cl
  c.busyTick == s.tick && c.busy.contains bank

/-- The banks that n bytes from an offset lie in. -/
def banksOf (off n : Nat) : List Nat := [off / 2 ^ 19, (off + n - 1) / 2 ^ 19]

/-- Whether the places of a target serve an access: banks that have taken the modes asked for before its issue and that no
copy uses (R54, R196), meters open (R345). -/
def State.placeServes (s : State) (core : Nat) (x : Access) (t : Target) : Place → Bool
  | .bank off =>
    let cl := clusterOf core
    (banksOf off t.elem.size).all (fun b => (s.clusterAt cl).bankServes x.asked b && !s.bankBusy cl b)
  | p => s.placeOpen (whoOf core x.instr) core t (useOf x.instr) p

/-- Whether every place of an access serves. -/
def State.accessServes (s : State) (core : Nat) (x : Access) : Bool :=
  (x.targets.getD []).all (fun t => t.places.all (s.placeServes core x t))

/-- R54, R195: whether a scratchpad access of a core waits for a copy that uses its bank. -/
def State.bankConflict (s : State) (core : Nat) : Bool :=
  (queueAccesses ((s.coreAt core).mem.loadQ ++ (s.coreAt core).mem.storeQ)).any (fun x =>
    (x.targets.getD []).any (fun t => t.places.any (fun p => match p with
      | .bank off => (banksOf off t.elem.size).any (s.bankBusy (clusterOf core))
      | .mem _ _ => false)))

/-- The 16-byte words of an access: by virtual address, and by place. -/
def Access.words (x : Access) : List Nat := x.elems.map (fun e => e.va.toNat / 16)
def Access.placeWords (x : Access) : List (Bool × Nat) :=
  (x.targets.getD []).flatMap (fun t => t.places.map (fun p => match p with
    | .bank off => (true, off / 16)
    | .mem a _ => (false, a / 16)))

/-- Whether two accesses touch one 16-byte word. -/
def sameWord (x y : Access) : Bool :=
  x.words.any (fun w => y.words.contains w) || x.placeWords.any (fun w => y.placeWords.contains w)

/-- Whether an access comes behind one of the core's other context: it was issued later, and the other, which has not failed,
goes to one of its words or to places that are not known yet (R228, R273). -/
def behindOther (x y : Access) : Bool :=
  decide (y.seq < x.seq) && !y.failed && (y.targets.isNone || x.placeWords.any (fun w => y.placeWords.contains w))

/-- R228, R48: a load comes behind an earlier store to one of its words. -/
def loadBehind (x y : Access) : Bool :=
  if y.physical = x.physical then decide (y.bundle < x.bundle) && sameWord x y else behindOther x y

/-- R228, R48: a store comes behind a load of its bundle or an earlier one to one of its words. -/
def storeBehind (x y : Access) : Bool :=
  if y.physical = x.physical then decide (y.bundle ≤ x.bundle) && sameWord x y else behindOther x y

/-- A load waits for the stores that it comes behind. -/
def Core.loadFree (c : Core) (x : Access) : Bool := (queueAccesses c.mem.storeQ).all (fun y => !loadBehind x y)

/-- A store waits for the loads that it comes behind. -/
def Core.storeFree (c : Core) (x : Access) : Bool := (queueAccesses c.mem.loadQ).all (fun y => !storeBehind x y)

/-! What a failed access holds up (R228, R229, R269). -/

/-- A name for an entry among both queues: two markers of one `mark` share it. -/
def QueueEntry.key : QueueEntry → Nat
  | .access x => 2 * x.seq
  | .marker _ b => 2 * b + 1

/-- The keys of the entries of a queue from the first that cannot go on: one that has failed, that comes behind a held
access of the other queue, or whose key is held already. -/
def heldFrom (behind : Access → Bool) (keys : List Nat) : Bool → List QueueEntry → List Nat
  | _, [] => []
  | held, e :: r =>
    let held := held || keys.contains e.key || (match e with
      | .access x => x.failed || behind x
      | .marker _ _ => false)
    if held then e.key :: heldFrom behind keys held r else heldFrom behind keys held r

/-- One round: what is held given the keys found to be held so far. -/
def CoreMem.holdRound (m : CoreMem) (keys : List Nat) : List Nat :=
  let held (q : List QueueEntry) : List Access := (queueAccesses q).filter (fun y => keys.contains (2 * y.seq))
  heldFrom (fun x => (held m.storeQ).any (loadBehind x)) keys false m.loadQ ++
    heldFrom (fun x => (held m.loadQ).any (storeBehind x)) keys false m.storeQ

/-- The keys of the entries that a failed access holds up in the two queues, itself among them: none of them has been
performed, and none can be before the failed access is made again. -/
def CoreMem.heldKeys (m : CoreMem) : List Nat :=
  if (queueAccesses (m.loadQ ++ m.storeQ)).any (fun x => x.failed) then
    (m.loadQ ++ m.storeQ).foldl (fun keys _ => m.holdRound keys) []
  else []

/-- The user accesses of a queue that are held up. -/
def CoreMem.held (m : CoreMem) (q : List QueueEntry) : List Access :=
  (queueAccesses q).filter (fun x => !x.physical && m.heldKeys.contains (2 * x.seq))

/-- The user accesses of a core to the window that are not performed: those of its queues, and those that a record took out
of them. -/
def Core.windowAccesses (c : Core) : List Access :=
  (queueAccesses (c.mem.loadQ ++ c.mem.storeQ ++ c.flight.queueL ++ c.flight.queueS)).filter (fun x => !x.physical)

/-- Whether an access touches one of some banks. -/
def Access.touches (x : Access) (banks : Nat → Bool) : Bool :=
  x.elems.any (fun e => inWindow e.va.toNat && banks ((e.va.toNat - windowBase) / 2 ^ 19))

/-- The scratchpad banks that a switch takes away (R196). -/
def Cluster.switched (c : Cluster) (x : BankSwitch) (b : Nat) : Bool :=
  x.mask.getLsbD b && c.mode b == .spad && x.mode != .spad

/-- Whether a switch comes after an access: it was asked for later, and takes a bank of it away (R196). -/
def Cluster.awaits (c : Cluster) (x : BankSwitch) (y : Access) : Bool := decide (y.asked < x.number) && y.touches (c.switched x)

/-- Whether the oldest bank switch of a core's cluster is kept back by an access that is held up. -/
def State.switchHeld (s : State) (core : Nat) : Bool :=
  let cl := clusterOf core
  let c := s.clusterAt cl
  match c.switching with
  | [] => false
  | x :: _ => (clusterCores cl).any (fun n =>
      let m := (s.coreAt n).mem
      (m.held (m.loadQ ++ m.storeQ)).any (c.awaits x))

/-- Whether an access of a core waits for a bank switch that is kept back so. -/
def State.waitsForSwitch (s : State) (core : Nat) (x : Access) : Bool :=
  s.switchHeld core && x.touches (fun b => !(s.clusterAt (clusterOf core)).bankServes x.asked b)

/-- Accesses that wait for something are not sent after all: they are made again with the access that failed. -/
def Core.failWaiting (c : Core) (waits : Access → Bool) : Core :=
  let fail (e : QueueEntry) : QueueEntry := match e with
    | .access x => if !x.physical && waits x then .access { x with failed := true } else e
    | .marker _ _ => e
  { c with mem := { c.mem with loadQ := c.mem.loadQ.map fail, storeQ := c.mem.storeQ.map fail } }

/-- The access of a result that is held up, if it is. -/
def CoreMem.heldAccess (m : CoreMem) (seq : Nat) : Option Access :=
  (m.held (m.loadQ ++ m.storeQ)).find? (fun x => x.seq == seq)

/-- Charge the meters of a performed access (R345). -/
def State.charge (s : State) (core : Nat) (x : Access) : State :=
  (x.targets.getD []).foldl (fun (s : State) t => s.chargeTarget (whoOf core x.instr) core t (useOf x.instr)) s

/-! Loads (R103, R210). -/

/-- Read the elements of an access in order; none when one meets an uncorrectable error, whose address comes with it. -/
def State.readTargets (s : State) (core : Nat) (ef physical : Bool) :
    List Target → State × Except Word (List (MemElem × List Byte))
  | [] => (s, .ok [])
  | t :: r =>
    match t.places with
    | [] => s.readTargets core ef physical r
    | p :: _ =>
      match s.readPlace core t.key p t.elem.size (t.ms || physical) ef with
      | (s, none) => (s, .error t.elem.va)
      | (s, some bs) =>
        match s.readTargets core ef physical r with
        | (s, .ok l) => (s, .ok ((t.elem, bs) :: l))
        | (s, .error e) => (s, .error e)

/-- The sign-extending scalar loads. -/
def signedLoad : Instr → Bool
  | .ldB _ | .ldH _ | .ldW _ => true
  | .ldx f => (ldxKind f.ty).2
  | _ => false

/-- The value a load lands, from the bytes of its elements. -/
def loadValue (i : Instr) (l : List (MemElem × List Byte)) : Vec :=
  match i with
  | .vld f | .vldEf f | .vlds f | .vldx f =>
    let lg := widLog f.ty.toNat
    l.foldl (fun (v : Vec) p => v ||| ((BitVec.ofNat 2048 (leValue p.2)) <<< (8 * 2 ^ lg * p.1.idx))) 0
  | .vldb f =>
    let w := 8 * 2 ^ widLog f.ty.toNat
    match l with
    | p :: _ => vecOf w (fun _ => BitVec.ofNat w (leValue p.2)) (2048 / w)
    | [] => 0
  | _ =>
    match l with
    | p :: _ =>
      let n := p.2.length
      let x := leValue p.2
      let y : Word := if signedLoad i then BitVec.ofInt 64 (sextNat (8 * n) x) else wordOf x
      y.setWidth 2048
    | [] => 0

/-- The value of a result in flight arrives. -/
def deliver (l : List Pending) (seq : Nat) (v : Vec) (tick : Nat) : List Pending :=
  l.map (fun p => if p.seq = seq then { p with value := v, ready := true, readyTick := tick } else p)

/-- Deliver a value to the acting core. -/
def State.arrive (s : State) (x : Access) (v : Vec) : State :=
  s.modCore (fun c =>
    if x.physical then { c with fw := { c.fw with pend := deliver c.fw.pend x.seq v s.tick } }
    else { c with flow := { c.flow with pend := deliver c.flow.pend x.seq v s.tick } })

/-- An uncorrectable error of an access of the acting core (R207); one of a firmware access ends the phase with fw = 1
(R268). -/
def State.memError (s : State) (x : Access) (va : Word) : State :=
  if x.physical then s.raise 0x0D x.slot x.addr va true false false false 0
  else s.report (.fault 0x0D x.slot x.addr va false 0)

/-- LOAD_DATA_ARRIVAL: the load at the head of the acting core's load queue is performed and its data arrives (R54, R103,
R210). -/
def execLoadDataArrival (s : State) : Out :=
  match headOf s.core.mem.loadQ with
  | some (.access x) =>
    let s := s.charge s.cur x
    let s := s.modMem (fun c => { c with loadQ := dropAccess c.loadQ x.seq })
    match s.readTargets s.cur (isEvictFirst x.instr) x.physical (x.targets.getD []) with
    | (s, .ok l) => done (s.arrive x (loadValue x.instr l))
    | (s, .error va) => done (s.memError x va)
  | _ => done s

/-! Stores (R104, R211, R212). -/

/-- WRITE_PERFORMED: the store at the head of the acting core's store queue is written at its place, element by element
in ascending order (R227, R231). -/
def execWritePerformed (s : State) : Out :=
  match headOf s.core.mem.storeQ with
  | some (.access x) =>
    let s := s.charge s.cur x
    let s := s.modMem (fun c => { c with storeQ := dropAccess c.storeQ x.seq })
    done ((x.targets.getD []).foldl
      (fun (s : State) t => s.writeTarget s.cur t (storeBytes x t.elem) (isEvictFirst x.instr)) s)
  | _ => done s

/-! Atomics (R192, R215 to R217, R239). -/

/-- Apply an atomic to the word at a place, under a key: the old value; none for an uncorrectable error. A page without MS
sends it to the home slice, past the cluster cache. -/
def State.applyAtomic (s : State) (core key : Nat) (op : AmoOp) (n x c : Nat) (p : Place) (ms : Bool) : State × Option Nat :=
  match p with
  | .bank off =>
    if s.badBank (clusterOf core) off n then (s, none)
    else
      let m := leValue (readBytes (s.clusterAt (clusterOf core)).sram off n)
      (s.writePlace core key p (leBytes (amoValue op (8 * n) m x c) n) false false, some m)
  | .mem a pa =>
    let s := if ms then s else (s.dropBlock core a).touchLine { s.coreView core with key := key } pa false
    let bad : State → Nat → Nat → Bool := if ms then State.badRange else State.badLine
    if bad s a n then (s.retireBad a pa n bad, none)
    else
      let m := leValue ((List.range n).map (fun i => s.devByte key (a + i)))
      (s.devWrites key a (leBytes (amoValue op (8 * n) m x c) n), some m)

/-- ATOMIC_EXECUTION: the atomic or reduction at the head of the acting core's store queue is applied, once, and an
`amo` returns the old word (R215 to R217). -/
def execAtomicExecution (s : State) : Out :=
  match headOf s.core.mem.storeQ with
  | some (.access x) =>
    match amoOpOf x.instr, x.targets with
    | some op, some (t :: _) =>
      let s := s.charge s.cur x
      let s := s.modMem (fun c => { c with storeQ := dropAccess c.storeQ x.seq })
      let n := t.elem.size
      let low (w : Word) : Nat := w.toNat % 2 ^ (8 * n)
      match s.applyAtomic s.cur t.key op n (low x.ops.data) (low x.ops.t) (t.places.headD (.bank 0)) t.ms with
      | (s, some m) => done (s.arrive x ((wordOf m).setWidth 2048))
      | (s, none) => done (s.memError x t.elem.va)
    | _, _ => done s
  | _ => done s

/-- Whether a physical address lies in the old frames of a migration. -/
def Migration.leaves (m : Migration) (pa : Nat) : Bool :=
  decide (m.oldFrame.toNat ≤ pa) && decide (pa < m.oldFrame.toNat + m.size * m.replicas)

/-- Whether an access has been translated to the old frames of a migration. -/
def Access.leaves (x : Access) (m : Migration) : Bool :=
  (x.targets.getD []).any (fun t => t.places.any (fun p => match p with
    | .bank _ => false
    | .mem _ pa => m.leaves pa))

/-- Whether a translated access reaches a home that has drained (R239): an atomic comes back from it, and any other access
waits to be translated again. -/
def State.bounces (s : State) (core : Nat) (x : Access) : Bool :=
  s.migrations.any (fun m => m.ctx == (s.coreAt core).ctxId && m.drained && x.leaves m)

/-- R239: the new entry of a page is installed: queued accesses that were translated to the old frames are translated again,
atomics as bounced ones. -/
def Core.retranslate (c : Core) (m : Migration) : Core :=
  let again (e : QueueEntry) : QueueEntry := match e with
    | .access x => if x.leaves m then .access { x with targets := none, bounced := isAtomic x.instr } else e
    | .marker _ _ => e
  if c.ctxId = m.ctx then { c with mem := { c.mem with loadQ := c.mem.loadQ.map again, storeQ := c.mem.storeQ.map again } }
  else c

/-- ATOMIC_BOUNCE: an atomic that reaches the old home after the drain comes back, and keeps its place (R239). -/
def execAtomicBounce (s : State) : Out :=
  match headOf s.core.mem.storeQ with
  | some (.access x) =>
    done (s.modMem (fun c =>
      { c with storeQ := setAccess c.storeQ x.seq (fun y => { y with targets := none, bounced := true }) }))
  | _ => done s

/-- Whether a bounced atomic finds its page still moving. -/
def State.stillMoving (s : State) (core : Nat) (x : Access) : Bool :=
  (s.translateAccess core x).2.2.any (fun f => f.2 == .moving)

/-- ATOMIC_REISSUE: a bounced atomic is translated again; while the page moves it waits (R239). -/
def execAtomicReissue (s : State) : Out :=
  match headOf s.core.mem.storeQ with
  | some (.access x) =>
    if s.stillMoving s.cur x then done s
    else
      let (s, y) := s.settle s.cur x
      done (s.modMem (fun c => { c with storeQ := setAccess c.storeQ x.seq (fun _ => y) }))
  | _ => done s

/-! Write-backs and markers (R214, R229, R230, R234). -/

/-- The blocks with dirty bytes that a core's stores left. -/
def Cluster.ownBlocks (c : Cluster) (core : Nat) : List Nat := c.dirtyBlocks (fun _ b => b.owners.contains core)

/-- R214: the dirty blocks of the region of an address, where it translates for a read: that is how the model decides whether
a `wbk` would fault (DESIGN CHOICE, log 90). -/
def State.regionBlocks (s : State) (core : Nat) (ea : Word) : State × List Nat :=
  if bits ea 63 48 ≠ 0 ∨ inWindow ea.toNat then (s, [])
  else
    match s.translateElem core (s.coreAt core).ctxId .read false ⟨0, wordOf (ea.toNat / 128 * 128), 128⟩ with
    | (s, .ok ⟨_, .mem a _ :: _, _, _⟩) =>
      (s, (s.clusterAt (clusterOf core)).dirtyBlocks (fun k _ => decide (a / 16 ≤ k) && decide (k < a / 16 + 8)))
    | (s, _) => (s, [])

/-- The marker at the head of both queues. -/
def CoreMem.markerDue (m : CoreMem) : Option (BitVec 3) :=
  match headOf m.loadQ, headOf m.storeQ with
  | some (.marker c b), some (.marker _ b') => if b = b' then some c else none
  | _, _ => none

/-- Drop the markers at the head of both queues. -/
def CoreMem.passMarker (m : CoreMem) : CoreMem := { m with loadQ := m.loadQ.tail, storeQ := m.storeQ.tail }

/-- What CLUSTER_CACHE_WRITEBACK acts on: the blocks to be written back, in the state that has translated the address of a
`wbk`, and what follows once none of them is dirty. -/
structure WriteBack where
  state : State
  blocks : List Nat
  after : State → State

/-- A marker at the head of both queues is passed, and from die scope on the dirty bytes of the core's stores are written back
first and older blocks are not hit any more (R230); a `wbk` at the head of the store queue is performed (R214); else the
dirty bytes of a task that has halted or is pre-empted are written back (R234, log 68). -/
def State.writeBackDue (s : State) : WriteBack :=
  match s.core.mem.markerDue with
  | some scope =>
    if 2 ≤ scope.toNat then
      ⟨s, s.cluster.ownBlocks s.cur, fun s => s.modMem (fun c => { c.passMarker with refill := s.cluster.stamp })⟩
    else ⟨s, [], fun s => s.modMem CoreMem.passMarker⟩
  | none =>
    match headOf s.core.mem.storeQ with
    | some (.access x) =>
      let r := s.regionBlocks s.cur (x.ops.base + x.ops.t)
      ⟨r.1, r.2, fun s => s.modMem (fun c => { c with storeQ := dropAccess c.storeQ x.seq })⟩
    | _ => ⟨s, s.cluster.ownBlocks s.cur, id⟩

/-- Whether none of some blocks of a cluster is dirty. -/
def Cluster.cleanAll (c : Cluster) (blks : List Nat) : Bool := blks.all (fun b => (find CacheBlock.empty b c.cache).dirty == 0)

/-- CLUSTER_CACHE_WRITEBACK: the blocks whose meters are open are written back, the others stay until theirs are (R345); what
waits for them goes on once none is dirty. -/
def execClusterCacheWriteback (s : State) : Out :=
  let w := s.writeBackDue
  let t := w.state.writeBackOpen (whoStore s.cur) (clusterOf s.cur) w.blocks
  done (if t.cluster.cleanAll w.blocks then w.after t else t)

/-- Whether that row can do something: one of its blocks can be written back, or none is dirty. -/
def State.writeBackReady (s : State) : Bool :=
  let w := s.writeBackDue
  w.state.someOpen (whoStore s.cur) (clusterOf s.cur) w.blocks

/-- The meters that hold it up (R345). -/
def State.writeBackHeld (s : State) : List Nat :=
  let w := s.writeBackDue
  if w.state.someOpen (whoStore s.cur) (clusterOf s.cur) w.blocks then []
  else w.blocks.flatMap (fun b => w.state.closedAt (whoStore s.cur) (w.state.clusterCtx (clusterOf s.cur))
    (w.state.blockCosts (clusterOf s.cur) b))

/-- Whether a store-queue access is a write-back. -/
def isWbk : Instr → Bool
  | .wbk _ => true
  | _ => false

/-- The row by which the queues of the acting core go on, if any can. -/
def State.memRow (s : State) : Option Instr :=
  let m := s.core.mem
  if s.maySend s.cur m.loadQ || s.maySend s.cur m.storeQ then some .pageWalkComplete
  else
    let load : Option Instr :=
      match headOf m.loadQ with
      | some (.access x) =>
        if x.targets.isSome && !s.bounces s.cur x && s.accessServes s.cur x && s.core.loadFree x then some .loadDataArrival else none
      | _ => none
    let store : Option Instr :=
      match headOf m.storeQ with
      | some (.access x) =>
        if x.bounced then (if s.stillMoving s.cur x || !s.walksOpen s.cur x then none else some .atomicReissue)
        else if x.targets.isNone then none
        else if isAtomic x.instr && s.bounces s.cur x then some .atomicBounce
        else if s.bounces s.cur x || !(s.accessServes s.cur x && s.core.storeFree x) then none
        else if isWbk x.instr then (if s.writeBackReady then some .clusterCacheWriteback else none)
        else if isAtomic x.instr then some .atomicExecution
        else some .writePerformed
      | _ => none
    let mark : Option Instr := if m.markerDue.isSome && s.writeBackReady then some .clusterCacheWriteback else none
    (load.orElse (fun _ => store)).orElse (fun _ => mark)

end Sys2Proof.Machine
end

