-- ==== Sys2Proof/Machine/Control.lean ====
section
/-! DEFINITION. The C slot of a user bundle, and the transfers of a firmware bundle (R88 to R102, R320 to R325). -/

namespace Sys2Proof.Machine

/-! Transfers (R49, R50, R88 to R90). -/

/-- Take a transfer to a canonical address (a firmware offset in a firmware bundle): it is pending from the end of the
bundle. -/
def State.take (s : State) (t : Addr) : State := s.modIssue (fun i => { i with taken := some (t, none) })

/-- Take a transfer when a condition holds. -/
def State.takeIf (s : State) (c : Bool) (t : Int) : State := if c then s.take (BitVec.ofInt 48 t) else s

/-- R50: the return address, D + 1 bundles after the call. -/
def State.returnAddr (s : State) : Word :=
  if s.fwIssuing then wordOf (s.core.fw.pc + 32 * (s.delays + 1))
  else ((s.core.issue.pos.plus (s.delays + 1)).addr).setWidth 64

/-- A compare and branch. -/
def State.runBranch (s : State) (i : Instr) (f : FormCB) (g : Word → Word → Bool) : Out :=
  guarded i s (fun s => s.takeIf (g (s.readA f.s) (s.readA f.t)) (s.dispTarget f.disp))

def execBrEq (f : FormCB) (s : State) : Out := s.runBranch (.brEq f) f (fun x y => x == y)
def execBrNe (f : FormCB) (s : State) : Out := s.runBranch (.brNe f) f (fun x y => x != y)
def execBrLt (f : FormCB) (s : State) : Out := s.runBranch (.brLt f) f (fun x y => x.slt y)
def execBrGe (f : FormCB) (s : State) : Out := s.runBranch (.brGe f) f (fun x y => !x.slt y)
def execBrLtu (f : FormCB) (s : State) : Out := s.runBranch (.brLtu f) f (fun x y => x.ult y)
def execBrGeu (f : FormCB) (s : State) : Out := s.runBranch (.brGeu f) f (fun x y => !x.ult y)

def execBz (r : Reg) (disp : BitVec 17) (s : State) : Out :=
  guarded (.bz r disp) s (fun s => s.takeIf (s.readA r == 0) (s.dispTarget disp))
def execBnz (r : Reg) (disp : BitVec 17) (s : State) : Out :=
  guarded (.bnz r disp) s (fun s => s.takeIf (s.readA r != 0) (s.dispTarget disp))
def execJmp (disp : BitVec 24) (s : State) : Out :=
  guarded (.jmp disp) s (fun s => s.takeIf true (s.dispTarget disp))
def execCall (disp : BitVec 24) (s : State) : Out :=
  guarded (.call disp) s (fun s => (s.takeIf true (s.dispTarget disp)).landA 1 s.returnAddr (latency (.call disp)))
def execJmpr (r : Reg) (s : State) : Out := guarded (.jmpr r) s (fun s => s.take ((s.readA r).setWidth 48))
def execCallr (r : Reg) (s : State) : Out :=
  guarded (.callr r) s (fun s => (s.take ((s.readA r).setWidth 48)).landA 1 s.returnAddr (latency (.callr r)))
def execRet (s : State) : Out := guarded .ret s (fun s => s.take ((s.readA 1).setWidth 48))

/-! Loops (R51, R91 to R94, R111, R313). -/

/-- Set up a level: active with count n + S - 1, or inactive for n = 0, when the setup bundle is followed by the first
bundle after the body; its words are those of the set-up either way (R313). The new rotation base governs the setup bundle.
A `csrw` of `ctl.lc` n in the same bundle lands on the new level, and its value stands (DESIGN CHOICE, log 86). -/
def State.setUpLoop (s : State) (f : FormCL) (n : Nat) : State :=
  let pos := s.core.issue.pos
  let first := pos.plus 2
  let len := f.body.toNat + 1
  let stages := f.stages.toNat + 1
  let lvl := f.lvl.toNat
  let s := if f.rot then s.modRegs (fun r => { r with rb := 0 }) else s
  let firstPos := match pos.ver.treat with
    | .racked _ _ _ _ _ _ => some first
    | _ => none
  let new : LoopLevel :=
    { active := true, count := BitVec.ofNat 33 (n + stages - 1), first := first.addr, firstPos := firstPos, len := len
      stages := stages, rot := f.rot, bbadv := f.bbadv, iters := BitVec.ofNat 33 n, version := pos.ver.number
      drained := false }
  if n = 0 then
    (s.modLoops (fun l => (l.setLevel lvl new).end lvl)).modIssue (fun i => { i with skip := some (pos.plus (2 + len)) })
  else s.modLoops (fun l => { l.setLevel lvl new with order := lvl :: l.order.filter (· != lvl) })

def execLoop (f : FormCL) (s : State) : Out :=
  guarded (.loop f) s (fun s => s.setUpLoop f (s.readA f.cnt).toNat)
def execLoopi (f : FormCL) (s : State) : Out :=
  guarded (.loopi f) s (fun s => s.setUpLoop f f.cnt.toNat)

/-- R94. -/
def execLbrk (lvl : BitVec 2) (s : State) : Out :=
  guarded (.lbrk lvl) s (fun s => s.modLoops (fun l => l.end lvl.toNat))

/-! The end of a task and `trap` (R95, R96). -/

/-- R95: no later bundle issues, nor any delay bundle of a pending transfer; the bundle count goes on until everything
has landed. The loop levels are inactive from here on (R52). -/
def execHalt (s : State) : Out :=
  guarded .halt s (fun s =>
    let s := s.modCore (fun c => { c with loops := c.loops.clear })
    (s.modTask (fun t => { t with status := .halted })).modFlow (fun f => { f with xfers := [], goto := none, noOps := true }))

/-- R96: the operand check of `trap` always fails. -/
def execTrap (code : BitVec 24) (s : State) : Out := guarded (.trap code) s id

/-! Leave (R97, R337, R344). -/

/-- The allowance of a free task in milliwatts. -/
def freeAllowance : Nat := 880

/-- The class of the launch a core runs. -/
def State.launchClass (s : State) (core : Nat) : Nat :=
  match find? (s.coreAt core).task.launch s.fe.launches with
  | some l => l.cls
  | none => 0

/-- Ask the governor for the leave of a free task. -/
def State.askLeave (s : State) (core : Nat) : State :=
  { s with gov := { s.gov with waiting := s.gov.waiting ++ [⟨.core core, false, s.launchClass core, freeAllowance⟩] } }

/-- Give the leave of an owner back. -/
def State.dropLeave (s : State) (o : LeaveOwner) : State :=
  { s with gov := { s.gov with held := s.gov.held.filter (fun r => r.owner != o),
                               waiting := s.gov.waiting.filter (fun r => r.owner != o) } }

/-- R97: a free task without leave asks for it and freezes before the next bundle. -/
def execLeave (s : State) : Out :=
  guarded .leave s (fun s =>
    let t := s.core.task
    if t.timed || t.leave then s
    else
      let s := s.askLeave s.cur
      (s.modTask (fun t => { t with leaveAsked := true })).modFlow (fun f => { f with wait := .leave }))

/-- R97: leave is returned at the end of the bundle. -/
def execLeaveEnd (s : State) : Out :=
  guarded .leaveEnd s (fun s =>
    let t := s.core.task
    if t.timed || !t.leave then s else s.modTask (fun t => { t with leaveEnding := true }))

/-! Barriers and marks (R98 to R102, R254). -/

/-- A barrier nothing has armed (R99). -/
def Barrier.idle : Barrier := ⟨0, 0, false, true⟩

/-- A physical barrier of the acting core. -/
def Engines.barrier (e : Engines) (n : Nat) : Barrier := find Barrier.idle n e.barriers

/-- R99: arm a physical barrier. E = 0 completes at once. -/
def Engines.arm (e : Engines) (n : Nat) (x : BitVec 48) (arrivals : Bool) : Engines :=
  { e with barriers := put n ⟨x, 0, arrivals, x == 0⟩ e.barriers }

def execBarm (bar : BitVec 10) (c : Reg) (arrivals : Bool) (s : State) : Out :=
  guarded (.barm bar c arrivals) s (fun s =>
    s.modEng (fun e => e.arm (s.barrierOf bar) ((s.readA c).setWidth 48) arrivals))

/-- R100: the core waits before the next bundle until the barrier is complete. -/
def execBwait (bar : BitVec 10) (s : State) : Out :=
  guarded (.bwait bar) s (fun s => s.modFlow (fun f => { f with wait := .barrier (s.barrierOf bar) }))

/-- R101. -/
def execBbadv (s : State) : Out :=
  guarded .bbadv s (fun s => s.landCsr 0x003 (wordOf (((s.readCsr 0x003).toNat + 1) % 1024)) (latency .bbadv))

/-- R102: a marker behind the L and S operations of the bundle, in both queues. -/
def execMark (scope : BitVec 3) (s : State) : Out :=
  guarded (.mark scope) s (fun s =>
    let m := QueueEntry.marker scope s.core.flow.bundleNo
    s.modMem (fun c => { c with loadQ := c.loadQ ++ [m], storeQ := c.storeQ ++ [m] }))

/-! Alignment (R319 to R322). -/

/-- Wait until ring time reaches the tick d after the start; `f` gives the alignment index. -/
def State.alignTo (s : State) (d : Word) (f : Task → Task) : State :=
  (s.modTask (fun k => { f k with ccount := 0, alignAt := some d })).modFlow
    (fun c => { c with wait := .align (s.core.task.start + d).toNat })

def execAlign (imm : BitVec 24) (s : State) : Out :=
  guarded (.align imm) s (fun s => s.alignTo (imm.setWidth 64 <<< 6) (fun k => { k with index := k.index + 1 }))
def execAlignr (r : Reg) (s : State) : Out :=
  guarded (.alignr r) s (fun s => s.alignTo (s.readA r) (fun k => { k with index := k.index + 1 }))
def execRealign (s : State) : Out :=
  guarded .realign s (fun s => s.alignTo 0 (fun k => { k with index := 0, realigning := true }))

end Sys2Proof.Machine
end

