-- ==== Sys2Proof/Machine/Timed.lean ====
section
/-! DEFINITION. Ring time and timed sends (R316 to R318, R324 to R326). -/

namespace Sys2Proof.Machine

/-! Ring time (R316). -/

/-- The ring link between two neighbours: link d joins d and d + 1. -/
def ringLink (a b : Nat) : Nat := if (a + 1) % 8 = b then a else b

/-- The latency of a route between dies (R316, R325). -/
def State.routeLambda (s : State) (a b : Nat) : Nat := if a = b then 4 else if s.ringOpen a b then 24 else 40

/-- RING_COUNT_SEND: die d sends its count to every other unfenced compute die; each receipt waits for its route. The
counts are kept with the time they arrive (R316). -/
def execRingCountSend (die : Nat) (s : State) : Out :=
  let d := s.dieAt die
  if d.fenced then done s
  else
    let dests := (List.range 8).filter (fun j => j != die && !(s.dieAt j).fenced)
    let sent := dests.map (fun j => (j, die, d.count.toNat, s.routeLambda die j, s.tick + s.routeLambda die j - 1))
    done { s with records := s.records ++ sent }

/-- RING_COUNT_RECEIPT: die `die` receives the count of die `src` over a route of latency lam (R316). -/
def execRingCountReceipt (die src : Nat) (count lam : Nat) (s : State) : Out :=
  let d := s.dieAt die
  let t := d.count.toNat
  let cand := count + lam - 1
  let have_ := find 0 src d.bound + drifted (t - find 0 src d.stamp)
  let s := { s with records := s.records.eraseP (fun r => r.1 == die && r.2.1 == src && r.2.2.1 == count) }
  if have_ < cand then done (s.setDieAt die { d with bound := put src cand d.bound, stamp := put src t d.stamp })
  else done s

/-! Timed sends (R324, R325). -/

/-- The launch a core runs. -/
def State.launchOf (s : State) (core : Nat) : Option Launch := find? (s.coreAt core).task.launch s.fe.launches

/-- The λ and I of a route, as fixed at the phase's admission (R325, R328). -/
def State.route (s : State) (core dst : Nat) : Nat × Nat :=
  let src := dieOf core
  match s.launchOf core with
  | some l => (find 0 (8 * src + dst) l.lambda, find 0 (8 * src + dst) l.interval)
  | none => (0, 0)

/-- R324: an entry joins its lane. -/
def execTsend (vs : Reg) (die : BitVec 3) (queue : BitVec 2) (s : State) : Out :=
  guarded (.tsend vs die queue) s (fun s =>
    let r := s.route s.cur die.toNat
    s.modEng (fun e =>
      { e with sends := e.sends ++ [⟨s.readV vs, die.toNat, queue.toNat, (s.dieAt (dieOf s.cur)).count.toNat, none, r.1, r.2⟩] }))

/-- Entries of a lane that have not departed. -/
def Engines.waiting (e : Engines) (die : Nat) : List Send := e.sends.filter (fun x => x.die == die && x.departed.isNone)

/-- The tick at which a lane's oldest waiting entry departs (R325). Entries issued before `realign` took effect depart
from the tick at which it does. -/
def State.departTick (s : State) (core die : Nat) : Option Nat :=
  let c := s.coreAt core
  match c.eng.waiting die with
  | [] => none
  | x :: _ =>
    if !c.task.realigned then none
    else
      match find? die c.eng.lastDeparture with
      | none => some x.issued
      | some p => some (max x.issued (p + x.interval))

/-- Whether the lane's oldest entry departs now. -/
def State.departs (s : State) (core die : Nat) : Bool :=
  match s.departTick core die with
  | none => false
  | some t => decide (t ≤ (s.dieAt (dieOf core)).count.toNat)

/-- The first entry that satisfies a predicate, changed. -/
def mapFirst {α : Type} (p : α → Bool) (f : α → α) : List α → List α
  | [] => []
  | x :: r => if p x then f x :: r else x :: mapFirst p f r

/-- TSEND_DEPARTURE: the oldest waiting entry of the acting core's lane to a die departs. -/
def execTsendDeparture (die : Nat) (s : State) : Out :=
  if s.departs s.cur die then
    let now := (s.dieAt (dieOf s.cur)).count.toNat
    done (s.modEng (fun e =>
      { e with sends := mapFirst (fun x => x.die == die && x.departed.isNone) (fun x => { x with departed := some now }) e.sends
               lastDeparture := put die now e.lastDeparture }))
  else done s

/-- The mirror of a core on a die. -/
def mirror (core die : Nat) : Nat := 64 * die + core % 64

/-- The cores with an entry that arrives at the end of this tick, those of lower dies first (R326). -/
def State.arrivingCore (s : State) : Option Nat :=
  (s.cores.find? (fun p => p.2.eng.sends.any (fun x => match x.departed with
    | some d => decide (d + x.lambda ≤ (s.dieAt (dieOf p.1)).count.toNat + 1)
    | none => false))).map (fun p => p.1)

/-- Whether an entry of a core arrives by the end of this tick. -/
def State.arrives (s : State) (core : Nat) (x : Send) : Bool :=
  match x.departed with
  | some d => decide (d + x.lambda ≤ (s.dieAt (dieOf core)).count.toNat + 1)
  | none => false

/-- The phase of the task on a core. -/
def State.phaseOf (s : State) (core : Nat) : Option Nat := (s.launchOf core).map (fun l => l.phase)

/-- Of the record that a phase keeps and another, the one that names the lower core (R334). -/
def firstRecord (old : Option (List Word)) (new : List Word) : List Word :=
  match old with
  | some r => if bits (new.getD 3 0) 8 0 < bits (r.getD 3 0) 8 0 then new else r
  | none => new

/-- R326: an entry from a core finds its receiver's queue full: the phase ends with fault 0x08. The record is the
receiver's, whose task may have completed: then the phase keeps it. -/
def State.overrun (s : State) (sender r : Nat) : State :=
  let addr := (s.coreAt r).flow.nextAddr
  if s.phaseOf r = s.phaseOf sender ∧ (s.coreAt r).task.status ≠ .idle then s.reportAt r (.fault 0x08 4 addr 0 true 0)
  else
    match (s.phaseOf sender).bind (fun id => find? id s.fe.phases) with
    | none => s
    | some p =>
      let rec_ := faultRecord 0x08 4 false true false false 0 addr 0 r (s.ringEstimate (dieOf r))
      { s with fe := { s.fe with phases := put p.id { p with fault := some (firstRecord p.fault rec_) } s.fe.phases } }

/-- TSEND_ARRIVAL: the first entry that arrives in this tick joins its queue; a full queue ends the receiver's phase
with fault 0x08 (R325, R326). -/
def execTsendArrival (s : State) : Out :=
  match s.arrivingCore with
  | none => done s
  | some core =>
    let c := s.coreAt core
    match c.eng.sends.find? (s.arrives core) with
    | none => done s
    | some x =>
      let s := s.setCoreAt core { c with eng := { c.eng with sends := c.eng.sends.eraseP (s.arrives core) } }
      let r := mirror core x.die
      let q := find [] x.queue (s.coreAt r).eng.landQ
      if 64 ≤ q.length then done (s.overrun core r) else
        done (s.modCoreAt r (fun c => { c with eng := { c.eng with landQ := put x.queue (q ++ [x.entry]) c.eng.landQ } }))

/-- REALIGN_EFFECT: ring time has reached S; waiting entries may depart from this tick on (R325). -/
def execRealignEffect (s : State) : Out :=
  let now := (s.dieAt (dieOf s.cur)).count.toNat
  done (s.modCore (fun c =>
    { c with
      task := { c.task with realigning := false, realigned := true }
      eng := { c.eng with sends := c.eng.sends.map (fun x => if x.departed.isNone then { x with issued := max x.issued now } else x) } }))

end Sys2Proof.Machine
end

