-- ==== Sys2Proof/Machine/Code.lean ====
section
/-! DEFINITION. Code: entering it at a canonical address, overlay segments, and what stands in a core's instruction memory
(R74, R89, R193, R207, R291 to R297, R303 to R305, R311). -/

namespace Sys2Proof.Machine

/-! Entering code at a canonical address (R74, R89, R291 to R297). -/

/-- What entering an address comes to. -/
inductive Entry where
  | ok (p : Pos)
  | fault (code : Nat)
  | trap (cause : Nat)
  deriving DecidableEq, Repr

/-- Enter code at a canonical address: translation, the X permission, the page's vintage and treatment, the landing map
(R74, R203, R292, R296). -/
def State.enter (s : State) (core : Nat) (a : Addr) : State × Entry :=
  let (s, x) := s.translate core (s.coreAt core).ctxId a.toNat
  match x with
  | .fault c => (s, .fault c)
  | .trap c => (s, .trap c)
  | .moving => (s, .trap 0x02)
  | .ok p =>
    let page : Addr := BitVec.ofNat 48 (a.toNat / 4096 * 4096)
    let c := a.toNat / 32 % 128
    if !p.x then (s, .fault 0x04)
    else if p.vint = 0 then (s, .fault 0x01)
    else if p.vint = 3 then (s, .ok ⟨⟨page, 3, .native⟩, c⟩)
    else
      match s.treatmentOf core page p.vint.toNat with
      | (s, none) => (s, .trap 0x01)
      | (s, some t) =>
        match (⟨page, p.vint, t⟩ : Version).enter c with
        | some pos => (s, .ok pos)
        | none => (s, .trap 0x01)

/-- What entering code at an address costs: its translation and, where the page is not native, its descriptor (R345, log 44). -/
def State.enterCosts (s : State) (core : Nat) (a : Addr) : List (Nat × Nat) :=
  let ctx := (s.coreAt core).ctxId
  if !s.metered ctx then []
  else
    s.xlatCosts core ctx a.toNat ++ (match (s.translate core ctx a.toNat).2 with
      | .ok p =>
        if !p.x || p.vint == 0 || p.vint == 3 then []
        else s.treatmentCosts core (BitVec.ofNat 48 (a.toNat / 4096 * 4096)) p.vint.toNat
      | _ => [])

/-- Whether a core may enter code at an address: no meter holds its reads up (R345). -/
def State.enterOpen (s : State) (core : Nat) (a : Addr) : Bool :=
  s.openAll (whoFetch core) (s.coreAt core).ctxId (s.enterCosts core a)

/-! Overlay segments (R303, R304). -/

/-- An entry of a segment table: its index, the address and the length in bytes of its pages, and the index of the segment
that `SEG` fetches. -/
structure Segment where
  idx : Nat
  start : Nat
  len : Nat
  next : Nat
  deriving DecidableEq, Repr

/-- Whether a segment holds an address. -/
def Segment.holds (x : Segment) (a : Nat) : Bool := decide (x.start ≤ a) && decide (a < x.start + x.len)

/-- The segments of the table installed on a core (R303). -/
def State.segments (s : State) (core : Nat) : List Segment :=
  let c := s.coreAt core
  (List.range c.mem.segCount).filterMap (fun k =>
    ((s.fetchIn (s.coreView core) (c.mem.segAddr.toNat + 16 * k) 16).bytes).map (fun bs =>
      let w0 := wordOf (fieldAt bs 0 8)
      ⟨k, bits w0 47 0, 4096 * bits w0 53 48, fieldAt bs 8 1⟩))

/-- The segment that holds an address. -/
def State.segmentOf (s : State) (core : Nat) (a : Addr) : Option Segment := (s.segments core).find? (fun x => x.holds a.toNat)

/-- Start the copy of a segment unless it is resident or a copy runs (R304). -/
def State.startSegmentCopy (s : State) (k : Nat) : State :=
  let m := s.core.mem
  if m.segHalves.contains k || m.segCopy.isSome then s else s.modMem (fun m => { m with segCopy := some k })

/-- What a fetch finds of segments: go on, wait, or no segment. -/
inductive SegFinding where
  | ok | wait | none
  deriving DecidableEq, Repr

/-- Whether a page holds the native or annex bundles of a version that is resident: its own addresses execute as vintage 3 code
(R296). -/
def CoreMem.backs (m : CoreMem) (page : Addr) : Bool :=
  m.resident.any (fun v => match v.treat with
    | .racked nat annex _ n _ _ => page == nat || (n != 0 && page == annex)
    | _ => false)

/-- Enter the segment of an address: it becomes the executing one; one that is not resident is asked for (R304). -/
def State.enterSegment (s : State) (a : Addr) : State × SegFinding :=
  if s.core.mem.segCount = 0 ∨ s.core.mem.backs (BitVec.ofNat 48 (a.toNat / 4096 * 4096)) then (s, .ok)
  else
    match s.segmentOf s.cur a with
    | none => (s, .none)
    | some x =>
      let m := s.core.mem
      if m.segHalves.contains x.idx then
        (s.modMem (fun m => { m with segHalves := x.idx :: m.segHalves.filter (· != x.idx) }), .ok)
      else if m.segCopy.isSome || s.core.fw.segment.isSome then (s, .wait)
      else
        let e : FwEvent := ⟨0x11, 0, a.setWidth 64, 0⟩
        ((s.queueEvent e).modFw (fun f => { f with segment := some x.idx }), .wait)

/-- SEG_MARK: the copy of the next segment starts in the background (R60, R304). -/
def execSegMark (s : State) : Out :=
  match s.segmentOf s.cur s.core.issue.addr with
  | none => done s
  | some x => done (s.startSegmentCopy x.next)

/-- R59: a fill hint: only a target in an overlay segment that is not resident has an effect. The target is translated
like a branch target; one that cannot be translated, through its page or its landing map, drops the hint. -/
def State.fillHint (s : State) (dist : BitVec 12) : State :=
  let t : Int := (s.core.issue.addr.toNat : Int) + 32 * dist.toInt
  if t < 0 ∨ 2 ^ 48 ≤ t ∨ s.core.mem.segCount = 0 then s
  else
    let a := BitVec.ofInt 48 t
    match s.enter s.cur a with
    | (s, .ok _) =>
      match s.segmentOf s.cur a with
      | some x => s.startSegmentCopy x.idx
      | none => s
    | (s, _) => s

def execBranchTargetFill (dist : BitVec 12) (s : State) : Out := done (s.fillHint dist)
def execCallTargetFill (dist : BitVec 12) (s : State) : Out := done (s.fillHint dist)
def execLoopExitFill (dist : BitVec 12) (s : State) : Out := done (s.fillHint dist)

/-! What a core executes (R297, R311). -/

/-- The versions that an open bundle stands in or transfers to. -/
def Issue.versions (i : Issue) : List Version :=
  if i.stage = .closed then []
  else i.pos.ver :: ((i.taken.bind (fun t => t.2)).map (fun p => p.ver)).toList

/-- The bundle of the user context that is open: one that waits for its landing while a firmware bundle issues (R275). -/
def Core.userIssue (c : Core) : Issue := if c.fw.issuing then c.fw.held.getD Issue.none else c.issue

/-- The versions that a core executes, or is committed to, also by a transfer of a bundle that waits for its landing; none
on a core without a task. An active loop level keeps no version that the core has left by a transfer (R311). -/
def Core.committed (c : Core) : List Version :=
  if c.task.status = .idle then []
  else
    let here := if c.flow.goto.isSome then [] else [c.flow.pos.ver]
    let next := c.flow.xfers.filterMap (fun x => x.pos.map (fun p => p.ver))
    let skip := (c.issue.setupSkip.map (fun p => p.ver)).toList
    here ++ next ++ skip ++ c.userIssue.versions

/-- Drop the code of a version from instruction memory. -/
def CoreMem.dropCode (m : CoreMem) (v : Version) : CoreMem :=
  { m with code := m.code.filter (fun e => e.1 != v), stale := m.stale.filter (· != v) }

/-- Discard versions that the core has left or is not in; the others stay until it leaves them (R297, R311). -/
def Core.discard (c : Core) (vs : List Version) : Core :=
  let keep := c.committed
  let m := (vs.filter (fun v => !keep.contains v)).foldl CoreMem.dropCode c.mem
  { c with mem := { m with stale := m.stale ++ vs.filter (fun v => keep.contains v && !m.stale.contains v) } }

/-! Instruction memory (R193, R304, R305, R311). -/

/-- The pages a version is copied from, with the bundles of each. -/
def Version.copies (v : Version) : List (Addr × Nat) :=
  match v.treat with
  | .racked nat annex n a _ _ => if a = 0 then [(nat, n)] else [(nat, n), (annex, a)]
  | _ => [(v.page, 128)]

/-- The first n bundles of some bytes. -/
def bundlesOf (bs : List Byte) (n : Nat) : List Bundle := (List.range n).map (fun i => bundleOfBytes ((bs.drop (32 * i)).take 32))

/-- The bundles of a version in its sequence order (R295), as they stand in memory; or what a page of it met. -/
def State.codeOf (s : State) (core : Nat) (v : Version) : Except Check (List Bundle) :=
  v.copies.foldl
    (fun r p => match r, s.readAllowed (fun q => q.x) core (s.coreAt core).ctxId p.1.toNat ((p.2 + 1) / 2) with
      | .ok l, .ok bs => .ok (l ++ bundlesOf bs p.2)
      | .error e, _ => .error e
      | _, .error e => .error e) (.ok [])

/-- The instruction memory that a page takes (R305). -/
def Version.size (v : Version) : Nat := if v.vint = 3 then 4096 else 8192

/-- The versions that fit into the 256 KiB of instruction memory (R193), the latest first; those to keep stay. -/
def fitting (keep : List Version) : Nat → List (Version × List Bundle) → List (Version × List Bundle)
  | _, [] => []
  | used, e :: r =>
    if used + e.1.size ≤ 0x40000 ∨ keep.contains e.1 then e :: fitting keep (used + e.1.size) r else fitting keep used r

/-- Put a version's bundles into instruction memory, in place of the page's earlier code; a version that the core still
executes stays until it has left it (R311). -/
def Core.addCode (c : Core) (v : Version) (bs : List Bundle) : Core :=
  let c := c.discard (c.mem.resident.filter (fun x => x.page == v.page && x != v))
  let m := { c.mem with code := (v, bs) :: c.mem.code.filter (fun e => e.1 != v), stale := c.mem.stale.filter (· != v) }
  { c with mem := { m with code := fitting (v :: c.committed) 0 m.code } }

/-- A version's bundles come into a core's instruction memory, good data in every word of it (R207). -/
def State.putCode (s : State) (core : Nat) (v : Version) (bs : List Bundle) : State :=
  { s.modCoreAt core (fun c => c.addCode v bs) with
    bad := s.bad.filter (fun p => match p with
      | .code c page _ => !(c == core && page == v.page)
      | _ => true) }

/-- What copying a version into instruction memory costs (R345, log 44). -/
def State.codeCosts (s : State) (core : Nat) (v : Version) : List (Nat × Nat) :=
  let ctx := (s.coreAt core).ctxId
  if !s.metered ctx then [] else v.copies.flatMap (fun p => s.tableCosts core ctx p.1.toNat ((p.2 + 1) / 2))

/-- Copy a version into instruction memory: the bytes are counted. -/
def State.copyVersion (s : State) (core : Nat) (v : Version) (bs : List Bundle) : State :=
  (s.countAll (s.coreAt core).ctxId (s.codeCosts core v)).putCode core v bs

/-- Copy the page at an address into instruction memory, under its treatment; a page that cannot be entered or read is left
to its fetch. -/
def State.copyPage (s : State) (core : Nat) (a : Addr) : State :=
  match s.enter core a with
  | (s, .ok p) =>
    match s.codeOf core p.ver with
    | .ok bs => s.copyVersion core p.ver bs
    | .error _ => s
  | (s, _) => s

/-- What copying a page costs, with entering it. -/
def State.pageCosts (s : State) (core : Nat) (a : Addr) : List (Nat × Nat) :=
  s.enterCosts core a ++ (match (s.enter core a).2 with
    | .ok p => s.codeCosts core p.ver
    | _ => [])

/-- Copy some pages from an address on. -/
def State.copyPages (s : State) (core start n : Nat) : State :=
  (List.range n).foldl (fun (s : State) i => s.copyPage core (BitVec.ofNat 48 (start + 4096 * i))) s

/-- Whether the copy of a segment of the acting core may go on: no meter holds its reads up (R345). -/
def State.segmentOpen (s : State) (k : Nat) : Bool :=
  match (s.segments s.cur).find? (fun x => x.idx == k) with
  | none => true
  | some x => s.openAll (whoFetch s.cur) s.core.ctxId
      ((List.range (x.len / 4096)).flatMap (fun i => s.pageCosts s.cur (BitVec.ofNat 48 (x.start + 4096 * i))))

/-- SEGMENT_COPY_COMPLETE: the segment's pages, as memory holds them now, stand in the idle half; the segment that it
displaces is gone (R193, R303, R304). -/
def execSegmentCopyComplete (s : State) : Out :=
  match s.core.mem.segCopy with
  | none => done s
  | some k =>
    let all := s.segments s.cur
    let lost := s.core.mem.segHalves.drop 1
    let gone := all.filter (fun x => lost.contains x.idx)
    let s := s.modCore (fun c => c.discard (c.mem.resident.filter (fun v => gone.any (fun x => x.holds v.page.toNat))))
    let s := match all.find? (fun x => x.idx == k) with
      | some x => s.copyPages s.cur x.start (x.len / 4096)
      | none => s
    done (s.modMem (fun m => { m with segHalves := m.segHalves.take 1 ++ [k], segCopy := none }))

/-- CODE_RELOAD_COMPLETE: the version's bundles stand in instruction memory (R311). A page that cannot be read stops the
core as a fetch from it would. -/
def execCodeReloadComplete (s : State) : Out :=
  match s.core.mem.reload with
  | none => done s
  | some v =>
    let code := s.codeOf s.cur v
    let s := s.modMem (fun m => { m with reload := none })
    match code with
    | .error (.fault c va _) => done (s.report (.fault c 8 s.core.flow.nextAddr va false 0))
    | .error (.trap c va) => done (s.report (.trap c 8 va))
    | .error .miss => done s
    | .ok bs => done (s.copyVersion s.cur v bs)

/-- Whether a version may be copied into instruction memory again: no meter holds its reads up (R345). -/
def State.reloadOpen (s : State) (v : Version) : Bool :=
  s.openAll (whoFetch s.cur) s.core.ctxId (s.codeCosts s.cur v)

/-- The bundle of a place. Padding places hold pads (R295). -/
def CoreMem.bundleAt (m : CoreMem) (p : Pos) : Bundle :=
  (((m.code.find? (fun e => e.1 == p.ver)).bind (fun e => e.2[p.idx]?))).getD padWord

/-- Whether the code of a page has its place in a core's instruction memory: the page is one of a program without a segment
table, or of a segment that is resident, or holds what such a page is executed as (R193, R296, R304). -/
def State.placed (s : State) (core : Nat) (page : Addr) : Bool :=
  let m := (s.coreAt core).mem
  if m.backs page then true
  else if m.segCount = 0 then m.pages.any (fun r => decide (r.1.toNat ≤ page.toNat) && decide (page.toNat < r.1.toNat + 4096 * r.2))
  else (s.segments core).any (fun x => m.segHalves.contains x.idx && x.holds page.toNat)

/-- Ask for the code of a version of a placed page that is not resident to be copied again (R311). -/
def State.askReload (s : State) (core : Nat) (v : Version) : State :=
  if (s.coreAt core).mem.resident.contains v || !s.placed core v.page then s
  else s.modCoreAt core (fun c => { c with mem := { c.mem with reload := some v } })

/-- Translate a target at the issue of its transfer; where it does not translate, or a meter holds its translation up, the
target's fetch will find out. A version of a placed page whose code is not resident starts to be copied (R296, R297, R311). -/
def State.resolve (s : State) (core : Nat) (a : Addr) : State × Option Pos :=
  if !s.enterOpen core a then (s, none)
  else
    match s.enter core a with
    | (s, .ok p) => (s.askReload core p.ver, some p)
    | (s, _) => (s, none)

/-! Programs (R193, R303). -/

/-- The program of a context whose pages hold an address. -/
def Context.programAt (c : Context) (a : Addr) : Option Program :=
  c.programs.find? (fun p => p.pages.any (fun r => decide (r.1.toNat ≤ a.toNat) && decide (a.toNat < r.1.toNat + 4096 * r.2)))

/-- Install a program on a core: its segment table, or its pages where it has none. Another table than before leaves no
segment and no code in place (R193, R303). -/
def Core.installTable (c : Core) (a : Addr) (n : Nat) (pages : List (Addr × Nat)) : Core :=
  if c.mem.segAddr = a ∧ c.mem.segCount = n then { c with mem := { c.mem with pages := pages } }
  else
    let c := c.discard c.mem.resident
    { c with mem := { c.mem with segAddr := a, segCount := n, pages := pages, segHalves := [], segCopy := none } }

/-- The front end puts the code of the program of an entry address at a core's disposal before the first bundle that issues,
which stands at an address: the whole program, or its segment table and the segment of that address (R193, R303). -/
def State.loadProgram (s : State) (core ctx : Nat) (entry at_ : Addr) : State :=
  match (s.ctxAt ctx).programAt entry with
  | none => s.modCoreAt core (fun c => c.installTable 0 0 [])
  | some p =>
    let s := s.modCoreAt core (fun c => c.installTable p.segAddr p.segCount (if p.segCount = 0 then p.pages else []))
    if p.segCount = 0 then p.pages.foldl (fun (s : State) r => s.copyPages core r.1.toNat r.2) s
    else
      match s.segmentOf core at_ with
      | none => s
      | some x => s.modCoreAt core (fun c =>
          { c with mem := { c.mem with segCopy := if c.mem.segHalves.contains x.idx then none else some x.idx } })

/-- The requests of a core's fetches that wait for tokens: requester and meter (R345). -/
def State.fetchHeld (s : State) (core : Nat) : List (Nat × Nat) :=
  let u : State := { s with cur := core }
  let c := u.core
  let closed (costs : List (Nat × Nat)) : List Nat := u.closedAt (whoFetch core) c.ctxId costs
  let segs := match c.mem.segCopy.bind (fun k => (u.segments core).find? (fun x => x.idx == k)) with
    | none => []
    | some x => (List.range (x.len / 4096)).flatMap (fun i => closed (u.pageCosts core (BitVec.ofNat 48 (x.start + 4096 * i))))
  let again := match c.mem.reload with
    | none => []
    | some v => closed (u.codeCosts core v)
  let target := match c.flow.goto, c.task.status with
    | some a, .running => closed (u.enterCosts core a)
    | _, _ => []
  (segs ++ again ++ target).map (fun r => (whoFetch core, r))

end Sys2Proof.Machine
end

