-- ==== Sys2Proof/Machine/Vector.lean ====
section
/-! DEFINITION. How vector operations write their results (R107 to R109, R143, R147), and the floating-point operations
of the V slots (R145 to R148). -/

namespace Sys2Proof.Machine

/-- Write the enabled elements of width w, numbered below n, with their flags. -/
def State.landElems (s : State) (i : Instr) (d : Reg) (w n : Nat) (on : Nat → Bool) (nf : Bool)
    (g : Nat → BitVec w × BitVec 5) : State :=
  s.landV d (vecOf w (fun j => (g j).1) n) (elemMask w on n) (gatherFlags nf w on (fun j => (g j).2) n) (latency i)

/-- The elements of width w that lie in lane i, or the element that the lane belongs to. -/
def laneElems (w i : Nat) : List Nat := if w = 64 then [i / 2] else (List.range (32 / w)).map (fun t => i * (32 / w) + t)

/-- A mask from its bits. -/
def maskOf (p : Nat → Bool) : Word :=
  (List.range 64).foldl (fun (m : Word) i => if p i then m ||| ((1 : Word) <<< i) else m) 0

/-- R147: bit i of a compare is the AND of the predicates of the elements in lane i; both bits of a 64-bit element take
its predicate. -/
def compareMask (w : Nat) (p : Nat → Bool) : Word := maskOf (fun i => (laneElems w i).all p)

/-- The bits of a mask destination that a compare of width w writes: its enabled lanes, both lanes of an enabled 64-bit
element. -/
def compareLanes (w : Nat) (k : Word) : Word := if w = 64 then maskOf (fun i => k.getLsbD (i / 2 * 2)) else k

/-- Write the predicates of a compare to a mask register. -/
def State.landCompare (s : State) (i : Instr) (f : FormVR) (w : Nat) (g : Nat → Bool × BitVec 5) : State :=
  s.landK f.vd.toNat (compareMask w (fun j => (g j).1)) (compareLanes w (s.readK f.k))
    (gatherFlags f.nf w (s.en f.k w) (fun j => (g j).2) (2048 / w)) (latency i)

/-- The element of a register as a number. -/
def elemNat (v : Vec) (w j : Nat) : Nat := (elem v w j).toNat

/-- A floating-point operation of x = elem(vs), y = elem(vt), z = elem(vd). -/
def State.runVF (s : State) (i : Instr) (f : FormVR)
    (g : FloatFormat → Rounding → Nat → Nat → Nat → Nat × BitVec 5) : Out :=
  guarded i s (fun s =>
    let ft := vrFormat f.ty
    let w := ft.width
    let x := s.readV f.vs
    let y := s.readV f.vt
    let z := s.readV f.vd
    s.landElems i f.vd w (2048 / w) (s.en f.k w) f.nf (fun j =>
      let r := g ft s.rm (elemNat x w j) (elemNat y w j) (elemNat z w j)
      (BitVec.ofNat w r.1, r.2)))

def execVfadd (f : FormVR) (s : State) : Out := s.runVF (.vfadd f) f (fun ft rm x y _ => fAdd ft rm x y)
def execVfsub (f : FormVR) (s : State) : Out := s.runVF (.vfsub f) f (fun ft rm x y _ => fSub ft rm x y)
def execVfmul (f : FormVR) (s : State) : Out := s.runVF (.vfmul f) f (fun ft rm x y _ => fMul ft rm x y)
def execVfma (f : FormVR) (s : State) : Out := s.runVF (.vfma f) f (fun ft rm x y z => fFma ft rm false x y z)
def execVfms (f : FormVR) (s : State) : Out := s.runVF (.vfms f) f (fun ft rm x y z => fFma ft rm true x y z)
def execVfmin (f : FormVR) (s : State) : Out := s.runVF (.vfmin f) f (fun ft _ x y _ => fMinMax ft false x y)
def execVfmax (f : FormVR) (s : State) : Out := s.runVF (.vfmax f) f (fun ft _ x y _ => fMinMax ft true x y)
def execVfabs (f : FormVR) (s : State) : Out := s.runVF (.vfabs f) f (fun ft _ x _ _ => fSignOp ft false x)
def execVfneg (f : FormVR) (s : State) : Out := s.runVF (.vfneg f) f (fun ft _ x _ _ => fSignOp ft true x)
def execVfrcp (f : FormVR) (s : State) : Out := s.runVF (.vfrcp f) f (fun ft rm x _ _ => fTrans ft rm .rcp x)
def execVfrsq (f : FormVR) (s : State) : Out := s.runVF (.vfrsq f) f (fun ft rm x _ _ => fTrans ft rm .rsq x)
def execVfexp2 (f : FormVR) (s : State) : Out := s.runVF (.vfexp2 f) f (fun ft rm x _ _ => fTrans ft rm .exp2 x)
def execVflog2 (f : FormVR) (s : State) : Out := s.runVF (.vflog2 f) f (fun ft rm x _ _ => fTrans ft rm .log2 x)

/-- A floating-point compare (R147). -/
def State.runVFC (s : State) (i : Instr) (f : FormVR) (c : FloatCompare) : Out :=
  guarded i s (fun s =>
    let ft := vrFormat f.ty
    let w := ft.width
    let x := s.readV f.vs
    let y := s.readV f.vt
    s.landCompare i f w (fun j => fCompare ft c (elemNat x w j) (elemNat y w j)))

def execVfceq (f : FormVR) (s : State) : Out := s.runVFC (.vfceq f) f .eq
def execVfclt (f : FormVR) (s : State) : Out := s.runVFC (.vfclt f) f .lt
def execVfcle (f : FormVR) (s : State) : Out := s.runVFC (.vfcle f) f .le
def execVfcun (f : FormVR) (s : State) : Out := s.runVFC (.vfcun f) f .un

end Sys2Proof.Machine
end

