-- ==== Sys2Proof/Machine/Convert.lean ====
section
/-! DEFINITION. Conversions, block scales, codebook decode and slices (R129 to R139, R159 to R169). -/

namespace Sys2Proof.Machine

/-- The element format of a resolved code. -/
def formatAt (c : Nat) : ElemFormat := (formatOfCode c).getD (.float f64Format)

/-- Convert n elements, each in its place; the bits above are zeros, and the whole register is written (R159). -/
def State.landConvert (s : State) (i : Instr) (vd : Reg) (src dst : ElemFormat) (nf : Bool) (x : Vec)
    (g : Nat → Nat → Nat × BitVec 5) : State :=
  let ws := src.width
  let wd := dst.width
  let m := max ws wd
  let n := 2048 / m
  s.landV vd (vecOf wd (fun j => BitVec.ofNat wd (g j (elemNat x ws j)).1) n) (BitVec.allOnes 2048)
    (gatherFlags nf m (fun _ => true) (fun j => (g j (elemNat x ws j)).2) n) (latency i)

/-- R160. With a format operand the resolved descriptor supplies rounding and saturation. -/
def execVcvt (f : FormVC) (s : State) : Out :=
  guarded (.vcvt f) s (fun s =>
    let table := f.fsrc == 15 || f.fdst == 15
    let d := s.descriptor
    let mode := if table then s.descRounding d else roundingOf f.rm.toNat
    let sat := if table then d.getLsbD 12 else f.sat
    let src := formatAt (s.resolveCode f.fsrc.toNat)
    let dst := formatAt (s.resolveCode f.fdst.toNat)
    s.landConvert (.vcvt f) f.vd src dst f.nf (s.readV f.vs) (fun _ x => convertElem src dst mode sat 0 x))

/-- A block element format: its element scale, 2^-6 for `s8` (R122). -/
def blockShift : ElemFormat → Int
  | .int _ _ => 6
  | .float _ => 0

/-- What a NaN scale makes of an element: a NaN input with NV (R125, R129). -/
def nanElem : ElemFormat → Nat × BitVec 5
  | .float f => ((floatToFloat f .rne false 0 (.nan true)).1, flagNV)
  | .int _ _ => (0, flagNV)

/-- R163: an element through scale byte X. -/
def scaleElem (quantise : Bool) (src dst : ElemFormat) (mode : Rounding) (sat : Bool) (x : Nat) (e : Nat) :
    Nat × BitVec 5 :=
  if x = 255 then nanElem dst
  else if quantise then convertElem src dst mode sat (127 - (x : Int) + blockShift dst) e
  else convertElem src dst mode sat ((x : Int) - 127 - blockShift src) e

/-- Byte b of a scale latch. -/
def scaleByte (latch : Word) (b : Nat) : Nat := bits latch (8 * b + 7) (8 * b)

/-- R163. -/
def execVcvts (f : FormVC) (s : State) : Out :=
  guarded (.vcvts f) s (fun s =>
    let table := f.fsrc == 15 || f.fdst == 15
    let d := s.descriptor
    let mode := if table then s.descRounding d else s.rm
    let sat := if table then d.getLsbD 12 else f.sat
    let cs := s.resolveCode f.fsrc.toNat
    let cd := s.resolveCode f.fdst.toNat
    let quantise := decide (4 ≤ cd)
    let src := formatAt cs
    let dst := formatAt cd
    let latch := s.readCsr (0x010 + f.rm.toNat)
    s.landConvert (.vcvts f) f.vd src dst f.nf (s.readV f.vs)
      (fun j e => scaleElem quantise src dst mode sat (scaleByte latch (j / 32)) e))

/-! Block scales (R130, R162). -/

/-- The emax of a target format code. -/
def blockEmax (c : Nat) : Int :=
  match c with
  | 4 => 8
  | 5 => 15
  | 6 | 7 => 2
  | _ => 0

/-- The larger magnitude of two exponents of leading bits: floor(log2 amax) over the values seen. -/
def maxLog (a b : Option Int) : Option Int :=
  match a, b with
  | some x, some y => some (max x y)
  | none, y => y
  | x, none => x

/-- R130: the scale byte of a block's enabled elements. -/
def chooseScale (emax : Int) (vs : List FloatVal) : Nat :=
  if vs.any FloatVal.isNan then 0xFF
  else if vs.any (fun v => match v with | .inf _ => true | _ => false) then 254
  else
    match vs.foldl (fun acc v => match v with
        | .fin _ m e => if m = 0 then acc else maxLog acc (some (floorLog2 m e))
        | _ => acc) none with
    | none => 0
    | some lg => (min 254 (max 0 (lg - emax + 127))).toNat

/-- R162. -/
def execVmaxabs (fmt : BitVec 4) (latch : BitVec 2) (vs : Reg) (k : BitVec 3) (ty : BitVec 2) (nf : Bool) (s : State) :
    Out :=
  guarded (.vmaxabs fmt latch vs k ty nf) s (fun s =>
    let ft := vrFormat ty
    let w := ft.width
    let n := 2048 / w
    let x := s.readV vs
    let emax := blockEmax (s.resolveCode fmt.toNat)
    let on := s.en k w
    let block (b : Nat) : List FloatVal :=
      ((List.range 32).filter (fun t => on (32 * b + t))).map (fun t => unpack ft (elemNat x w (32 * b + t)))
    let v := (List.range (n / 32)).foldl (fun acc b => acc + place (chooseScale emax (block b)) (8 * b)) 0
    let fl := gatherFlags nf w on (fun j => (unpack ft (elemNat x w j)).sig) n
    s.land (.csr (0x010 + latch.toNat)) (BitVec.ofNat 2048 v) scalarBits fl (latency (.vmaxabs fmt latch vs k ty nf)))

/-! Codebook decode (R131, R132, R165, R166). -/

/-- Entry e of the default table. -/
def trellisDefault (e : Nat) : BitVec 32 :=
  BitVec.ofNat 32 ((List.range 8).foldl
    (fun acc j => acc + place ((1 + 2 * (e / 2 ^ j % 2)) * (1 + e / 2 ^ 8 % 2)) (4 * j)) 0)

/-- Entry e of table t. -/
def Regs.trellisEntry (r : Regs) (t e : Nat) : BitVec 32 :=
  if t = 0 then trellisDefault e else find (trellisDefault e) (512 * t + e) r.trellis

/-- The digit of weight j of an index. -/
def decodeDigit (entry : BitVec 32) (index : BitVec 16) (j : Nat) : Byte :=
  let s7 := (List.range 7).foldl (fun b t => b != index.getLsbD (9 + t)) false
  let neg := if j = 7 then s7 else index.getLsbD (9 + j)
  let m := BitVec.ofNat 8 (bits entry (4 * j + 3) (4 * j))
  if neg then -m else m

/-- R165. -/
def execVdecb (vd vs : Reg) (t q : BitVec 2) (s : State) : Out :=
  guarded (.vdecb vd vs t q) s (fun s =>
    let x := s.readV vs
    let byte (n : Nat) : Byte :=
      let i := elem x 16 (32 * q.toNat + n / 8)
      decodeDigit (s.core.regs.trellisEntry t.toNat (i.toNat % 512)) i (n % 8)
    s.landV vd (vecOf 8 byte 256) (BitVec.allOnes 2048) 0 (latency (.vdecb vd vs t q)))

/-- R166. -/
def execVdecbTab (blk : BitVec 3) (vs : Reg) (t : BitVec 2) (s : State) : Out :=
  guarded (.vdecbTab blk vs t) s (fun s =>
    s.land (.trellis t.toNat blk.toNat) (s.readV vs) (BitVec.allOnes 2048) 0 (latency (.vdecbTab blk vs t)))

/-! Slices (R136, R137, R167 to R169). -/

/-- R137: digit i of a value under exponent eps, modulo 2^8. With u = x * 2^(7 i - eps) the digits from i on are the
carry-propagating signed digits of u: digit 0 is the floor plus the carry from below, digit i > 0 is its group of seven
bits plus the carry, brought into -64 to 63. -/
def sliceDigit (neg : Bool) (m : Nat) (e eps : Int) (i : Nat) : Byte :=
  let sh : Int := e - eps + 7 * i
  -- the value as num / 2^den, num signed
  let v : Int := if neg then -(m : Int) else m
  let num : Int := if 0 ≤ sh then v * 2 ^ sh.toNat else v
  let den : Nat := if 0 ≤ sh then 0 else (-sh).toNat
  let fl : Int := num / (2 ^ den : Nat)
  -- The carry into a group: the fraction below it, as base-128 groups g1 g2 ..., carries when the first group that is
  -- not 63 is above 63: when the fraction exceeds 0.63 63 63 ... = 63/127.
  let frac : Int := num - fl * (2 ^ den : Nat)
  let carry : Int := if (63 * (2 ^ den : Nat) : Int) < 127 * frac then 1 else 0
  if i = 0 then BitVec.ofInt 8 (fl + carry)
  else
    let g := fl % 128 + carry
    BitVec.ofInt 8 (if 64 ≤ g then g - 128 else g)

/-- R136: the exponent that an exponent value stands for; none for the marker. -/
def expOf (ft : FloatFormat) (x : Nat) : Option Int :=
  match unpack ft x with
  | .nan _ => none
  | .inf _ => none
  | .fin _ 0 _ => some 0
  | .fin _ m e => some (floorLog2 m e - 4)

/-- R168: the digit of one element. -/
def splitDigit (ft : FloatFormat) (e x : Nat) (i : Nat) : Byte :=
  match expOf ft e, unpack ft x with
  | some eps, .fin n m ex => sliceDigit n m ex eps i
  | _, _ => 0

/-- R168: digits in bytes below N, zeros above; the whole register is written. -/
def execVsplit (vd vs ve : Reg) (i : BitVec 3) (ty : BitVec 2) (row : Bool) (s : State) : Out :=
  guarded (.vsplit vd vs ve i ty row) s (fun s =>
    let ft := vrFormat ty
    let w := ft.width
    let n := 2048 / w
    let x := s.readV vs
    let e := s.readV ve
    s.landV vd (vecOf 8 (fun j => splitDigit ft (elemNat e w (if row then 0 else j)) (elemNat x w j) i.toNat) n)
      (BitVec.allOnes 2048) 0 (latency (.vsplit vd vs ve i ty row)))

/-- R167: the maximum of elem(vt) and the power of two below |elem(vs)|. -/
def execVsexp (f : FormVR) (s : State) : Out :=
  s.runVF (.vsexp f) f (fun ft _ x y _ =>
    let p := powerBelow ft x
    let r := fMinMax ft true y p.1
    (r.1, p.2 ||| r.2))

/-- R169. -/
def execVscalb (f : FormVR) (s : State) : Out :=
  s.runVF (.vscalb f) f (fun ft rm x y _ => fScalb ft rm x (sextNat ft.width y))

end Sys2Proof.Machine
end

