-- ==== Sys2Proof/Machine/Press.lean ====
section
/-! DEFINITION. The press (R171 to R191). Updates wait in the bundle being issued and are applied at its end in the
order of R176; a beat is a row of its own. -/

namespace Sys2Proof.Machine

/-! Reading press state. -/

/-- Element (i, n) of accumulator a. -/
def Press.accAt (p : Press) (a i n : Nat) : BitVec 48 := find 0 (1024 * a + 128 * i + n) p.acc

/-- The B digit cell of macro m, row k, column n. -/
def Press.cell (p : Press) (m k n : Nat) : Byte := find 0 (16384 * m + 128 * k + n) p.macros

/-- The beats that remain: those of bundles b and later. -/
def Press.beatsFrom (p : Press) (b : Nat) : Nat := p.seqStart + p.seqBeats - b

/-- Whether a beat belongs to bundle b (R173). -/
def Press.beatAt (p : Press) (b : Nat) : Bool := decide (p.seqStart ≤ b) && decide (b < p.seqStart + p.seqBeats)

/-- The status word (R190): a beat belongs to a bundle later than b. -/
def Press.status (p : Press) (b : Nat) : Word :=
  wordOf (p.ovf.toNat + place (decide (b + 1 < p.seqStart + p.seqBeats)).toNat 8 + place p.s.toNat 9 + place p.w.toNat 12 +
    place p.asgn.toNat 15 + place p.bsgn.toNat 16)

/-! Sums (R177). -/

/-- An exact sum in 48 bits, and whether it overflowed. -/
def wrap48 (x : Int) : BitVec 48 × Bool := (BitVec.ofInt 48 x, decide (x < -(2 ^ 47) ∨ 2 ^ 47 ≤ x))

/-- Put a value at a key where 0 is not listed. -/
def putNonzero {w : Nat} (k : Nat) (v : BitVec w) (st : Store (BitVec w)) : Store (BitVec w) :=
  if v = 0 then drop k st else put k v st

/-- Set element (i, n) of accumulator a from an exact value. -/
def Press.setAcc (p : Press) (a i n : Nat) (x : Int) : Press :=
  let (v, o) := wrap48 x
  { p with acc := putNonzero (1024 * a + 128 * i + n) v p.acc, ovf := if o then p.ovf ||| (1 <<< a) else p.ovf }

/-- Every row and column of an accumulator. -/
def accCells : List (Nat × Nat) := (List.range 8).flatMap (fun i => (List.range 128).map (fun n => (i, n)))

/-! The beat (R172). -/

/-- A B digit as the captured sign mode reads it. -/
def digitB (signed : Bool) (b : Byte) : Int := if signed then b.toInt else b.toNat

/-- The partial sum of plane j for row i and column n of macro m. -/
def Press.planeSum (p : Press) (m i n j : Nat) : Int :=
  (List.range 128).foldl
    (fun (t : Int) k =>
      if p.capKq.getLsbD (k / 32) && (find 0 (128 * i + k) p.cap).getLsbD j then t + digitB p.capBsgn (p.cell m k n) else t) 0

/-- What plane j of macro m adds at row i, column n. -/
def Press.planeTerm (p : Press) (m i n j : Nat) : Int :=
  let t := p.planeSum m i n j
  (if p.capAsgn && j + 1 == p.capW then -t else t) * 2 ^ j

/-- The accumulator a macro is routed to. -/
def Press.route (p : Press) (m : Nat) : Nat := (m + p.capDelta.toNat) % 8

/-- Beat j of the captured sequence. -/
def Press.beat (p : Press) (j : Nat) : Press :=
  ((List.range 8).filter (fun m => p.capMask.getLsbD m)).foldl
    (fun (q : Press) m =>
      accCells.foldl
        (fun (q : Press) c => q.setAcc (p.route m) c.1 c.2 ((q.accAt (p.route m) c.1 c.2).toInt + p.planeTerm m c.1 c.2 j)) q) p

/-! Updates at the end of a bundle. -/

/-- Apply one update. -/
def Press.apply (p : Press) (u : PressUpdate) : Press :=
  match u with
  | .config s w asgn bsgn => { p with s := s, w := w, asgn := asgn, bsgn := bsgn }
  | .digits m h v =>
    let key (t : Nat) : Nat := 16384 * m.toNat + 128 * (2 * h.toNat + t / 128) + t % 128
    { p with macros := (List.range 256).foldl (fun st t => putNonzero (key t) (elem v 8 t) st) p.macros }
  | .rows cells => { p with rowBuf := cells.foldl (fun st c => putNonzero c.1 c.2 st) p.rowBuf }
  | .clear mask =>
    { p with acc := p.acc.filter (fun e => !mask.getLsbD (e.1 / 1024)), ovf := p.ovf &&& ~~~mask }
  | .clearRows => { p with rowBuf := [] }
  | .clearExps => { p with xr := [], xc := [] }
  | .clearOvf mask => { p with ovf := p.ovf &&& ~~~mask }
  | .setAcc a cells ovf =>
    { p with acc := cells.foldl (fun st c => putNonzero (1024 * a + c.1) c.2 st) p.acc,
             ovf := if ovf then p.ovf ||| (1 <<< a) else p.ovf }
  | .rowExps cells => { p with xr := cells.foldl (fun st c => putNonzero c.1 c.2 st) p.xr }
  | .colExps cells => { p with xc := cells.foldl (fun st c => putNonzero c.1 c.2 st) p.xc }

/-- Whether an update comes before the beat of its bundle (R176): clears of accumulators and overflow bits, and shifts. -/
def PressUpdate.beforeBeat : PressUpdate → Bool
  | .clear _ | .clearOvf _ | .setAcc _ _ _ => true
  | _ => false

/-- Queue updates of the bundle. -/
def State.pressLater (s : State) (us : List PressUpdate) : State := s.modIssue (fun i => { i with press := i.press ++ us })

/-! Entries. -/

/-- R184. -/
def execPset (sl w : BitVec 3) (asgn bsgn : Bool) (s : State) : Out :=
  guarded (.pset sl w asgn bsgn) s (fun s => s.pressLater [.config sl w asgn bsgn])

/-- R185. -/
def execPpush (vs : Reg) (m : BitVec 3) (h : BitVec 6) (s : State) : Out :=
  guarded (.ppush vs m h) s (fun s => s.pressLater [.digits m h (s.readV vs)])

/-- R186, bytes: byte 128 r + k goes to row 2 h + r. -/
def execPfill (vs : Reg) (h : BitVec 2) (s : State) : Out :=
  guarded (.pfill vs h) s (fun s =>
    let v := s.readV vs
    s.pressLater [.rows ((List.range 256).map (fun t => (256 * h.toNat + t, elem v 8 t)))])

/-- R186, nibbles: element 128 r + k goes to row 4 h + r, extended by asgn as it stands at issue. -/
def execPfillN (vs : Reg) (h : BitVec 1) (s : State) : Out :=
  guarded (.pfillN vs h) s (fun s =>
    let v := s.readV vs
    let ext (x : BitVec 4) : Byte := if s.core.press.asgn then x.signExtend 8 else x.setWidth 8
    s.pressLater [.rows ((List.range 512).map (fun t => (512 * h.toNat + t, ext (elem v 4 t))))])

/-- R187: capture the sequence operands; its beats belong to this bundle and the next w - 1. -/
def execPacc (mask : BitVec 8) (delta : BitVec 3) (kq : BitVec 4) (s : State) : Out :=
  guarded (.pacc mask delta kq) s (fun s =>
    s.modCore (fun c =>
      let p := c.press
      { c with press := { p with
          cap := p.rowBuf, capW := p.w.toNat + 1, capAsgn := p.asgn, capBsgn := p.bsgn, capMask := mask,
          capDelta := delta, capKq := kq, seqStart := c.flow.bundleNo, seqBeats := p.w.toNat + 1
          seqWord := slotWord c.issue.word c.issue.slot } }))

/-- The elements of acc d + acc s * 2^n with whether any overflows (R188). -/
def Press.shiftSum (p : Press) (d src n : Nat) : List (Nat × BitVec 48) × Bool :=
  let vals := accCells.map (fun c =>
    (128 * c.1 + c.2, wrap48 ((p.accAt d c.1 c.2).toInt + (p.accAt src c.1 c.2).toInt * 2 ^ n)))
  (vals.map (fun v => (v.1, v.2.1)), vals.any (fun v => v.2.2))

/-- R188. -/
def execPshift (d src : BitVec 3) (n : BitVec 6) (s : State) : Out :=
  guarded (.pshift d src n) s (fun s =>
    let (cells, ovf) := s.core.press.shiftSum d.toNat src.toNat n.toNat
    s.pressLater [.setAcc d.toNat cells ovf])

/-- The NaN marker of an exponent latch (R171). -/
def expMarker : BitVec 16 := 0x8000

/-- R179: one element of a drain: width, value and flags. -/
def Press.drainElem (p : Press) (a row : Nat) (fmt : BitVec 2) (d n : Nat) : Nat × BitVec 5 :=
  let x := p.accAt a row n
  let fp (f : FloatFormat) : Nat × BitVec 5 :=
    let er := find 0 row p.xr
    let ec := find 0 (128 * a + n) p.xc
    if er = expMarker ∨ ec = expMarker then nanWith f flagNV
    else if x = 0 then (0, 0)
    else roundTo f .rne false ⟨decide (x.toInt < 0), x.toInt.natAbs, er.toInt + ec.toInt - 7 * d, false⟩
  match fmt.toNat with
  | 0 => fp f64Format
  | 1 => fp f32Format
  | 2 => ((clampS32 x.toInt), 0)
  | _ => (wrap 64 x.toInt, 0)
where
  /-- Clamp to 32 bits. -/
  clampS32 (v : Int) : Nat := wrap 32 (if v < -(2 ^ 31) then -(2 ^ 31) else if 2 ^ 31 - 1 < v then 2 ^ 31 - 1 else v)

/-- The element width of a drain format. -/
def drainWidth (fmt : BitVec 2) : Nat := if fmt = 0 ∨ fmt = 3 then 64 else 32

/-- R189. -/
def execPdrain (vd : Reg) (a row : BitVec 3) (part fmt : BitVec 2) (d : BitVec 3) (nf : Bool) (s : State) : Out :=
  guarded (.pdrain vd a row part fmt d nf) s (fun s =>
    let w := drainWidth fmt
    let n := 2048 / w
    let p := s.core.press
    s.landElems (.pdrain vd a row part fmt d nf) vd w n (fun _ => true) nf (fun j =>
      let r := p.drainElem a.toNat row.toNat fmt d.toNat (part.toNat * n + j)
      (BitVec.ofNat w r.1, r.2)))

/-- R190. -/
def execPclr (mask : BitVec 8) (rb ex : Bool) (s : State) : Out :=
  guarded (.pclr mask rb ex) s (fun s =>
    s.pressLater ([.clear mask] ++ (if rb then [.clearRows] else []) ++ (if ex then [.clearExps] else [])))

/-- R190: the status word at issue, and the named overflow bits cleared. -/
def execPclrSt (ad : Reg) (mask : BitVec 8) (s : State) : Out :=
  guarded (.pclrSt ad mask) s (fun s =>
    (s.landA ad (s.core.press.status s.core.flow.bundleNo) (latency (.pclrSt ad mask))).pressLater [.clearOvf mask])

/-- R178: the latch value of an element. -/
def latchValue (int : Bool) (ft : FloatFormat) (x : Nat) : BitVec 16 :=
  if int then
    let i := sextNat 32 x
    if -32767 ≤ i ∧ i ≤ 32767 then BitVec.ofInt 16 i else expMarker
  else
    match expOf ft x with
    | none => expMarker
    | some e => BitVec.ofInt 16 e

/-- R191: rows. -/
def execPexpRows (vs : Reg) (ty : BitVec 2) (int : Bool) (s : State) : Out :=
  guarded (.pexpRows vs ty int) s (fun s =>
    let ft := vrFormat ty
    let v := s.readV vs
    s.pressLater [.rowExps ((List.range 8).map (fun i => (i, latchValue int ft (elemNat v ft.width i))))])

/-- R191: columns. -/
def execPexpCols (vs : Reg) (ty : BitVec 2) (mask : BitVec 8) (part : BitVec 2) (int : Bool) (s : State) : Out :=
  guarded (.pexpCols vs ty mask part int) s (fun s =>
    let ft := vrFormat ty
    let n := 2048 / ft.width
    let v := s.readV vs
    let vals := (List.range n).map (fun j => (part.toNat * n + j, latchValue int ft (elemNat v ft.width j)))
    s.pressLater [.colExps (((List.range 8).filter (fun a => mask.getLsbD a)).flatMap
      (fun a => vals.map (fun p => (128 * a + p.1, p.2))))])

/-- R207: whether the beat of the acting core reads a macro word that fails ECC. -/
def State.pressStruck (s : State) : Bool :=
  s.bad.any (fun p => match p with
    | .press c w => c == s.cur && s.core.press.capMask.getLsbD (w / 2048)
    | _ => false)

/-- Macro words that `ppush` writes hold good data again. -/
def mendPress (core : Nat) (us : List PressUpdate) (l : List SoftPlace) : List SoftPlace :=
  l.filter (fun p => match p with
    | .press c w => !(c == core && us.any (fun u => match u with
        | .digits m h _ => w / 32 == 64 * m.toNat + h.toNat
        | _ => false))
    | _ => true)

/-- PRESS_BEAT: clears and shifts of the bundle, then its beat (R172 to R177); a beat that would read a word that fails ECC
ends the phase instead (R207). -/
def State.pressBeat (s : State) : State :=
  let t := s.modCore (fun c =>
    let b := c.flow.bundleNo
    let p := (c.issue.press.filter PressUpdate.beforeBeat).foldl Press.apply c.press
    { c with press := if s.pressStruck then p else p.beat (b - p.seqStart)
             issue := { c.issue with press := c.issue.press.filter (fun u => !u.beforeBeat) } })
  if s.pressStruck then t.report (.fault 0x0D 7 s.core.issue.addr 0 false 0) else t

/-- The other updates of a bundle at its end. -/
def State.pressEnd (s : State) : State :=
  { s.modCore (fun c => { c with press := c.issue.press.foldl Press.apply c.press, issue := { c.issue with press := [] } }) with
    bad := mendPress s.cur s.core.issue.press s.bad }

end Sys2Proof.Machine
end

