-- ==== Sys2Proof/Machine/Engine.lean ====
section
/-! DEFINITION. The copy engine, its sequencer, barriers, streams and bank modes (R194 to R196, R220 to R225, R244 to
R254). A copy is performed element by element in the order of R245; where an element must wait, the copy goes on later
from it. -/

namespace Sys2Proof.Machine

/-! The elements of a tile (R244 to R246). -/

/-- Elements in a window. -/
def Layout.count (l : Layout) : Nat := l.windows.foldl (fun a w => a * w) 1

/-- The coordinates of element k, dimension 0 fastest. -/
def tileCoords : List Nat → Nat → List Nat
  | [], _ => []
  | w :: r, k => (k % w) :: tileCoords r (k / w)

/-- The tensor index of an element. -/
def Layout.index (l : Layout) (origin : List Int) (k : Nat) : List Int :=
  List.zipWith (fun (o : Int) (w : Nat) => o + w) origin (tileCoords l.windows k)

/-- R244: in bounds in every dimension. -/
def Layout.inb (l : Layout) (origin : List Int) (k : Nat) : Bool :=
  (List.zipWith (fun (i : Int) (x : Nat) => decide (0 ≤ i ∧ i < (x : Int))) (l.index origin k) l.extents).all id

/-- R244: the global address of an element, modulo 2^64. -/
def Layout.gaddr (l : Layout) (origin : List Int) (k : Nat) : Word :=
  let ix := l.index origin k
  let steps : List Nat := l.esize :: l.strides
  wordOfInt ((l.base.toNat : Int) + (List.zipWith (fun (i : Int) (x : Nat) => i * x) ix steps).foldl (· + ·) 0)

/-- The r-th set bit of a bank mask. -/
def nthBank (m : BitVec 16) (r : Nat) : Nat := ((List.range 16).filter (fun b => m.getLsbD b)).getD r 0

/-- R245: the local place of an element, as a window offset. -/
def Layout.laddr (l : Layout) (k : Nat) : Nat :=
  let c := tileCoords l.windows k
  let w (d : Nat) : Nat := c.getD d 0
  let win (d : Nat) : Nat := l.windows.getD d 1
  let p := w 2 + win 2 * (w 3 + win 3 * w 4)
  let r := w 1 + win 1 * p
  let x := w 0 * l.esize
  match l.ilv with
  | 0 => l.lbase + x + w 1 * l.rpitch + p * l.ppitch
  | 1 =>
    let n := popNat 16 l.bmask.toNat
    nthBank l.bmask (r % n) * 2 ^ 19 + (l.lbase % 2 ^ 19 + r / n * l.rpitch + x) % 2 ^ 19
  | _ => l.lbase + Nat.xor (x / 32) (r % 8) * 32 + x % 32 + w 1 * l.rpitch + p * l.ppitch

/-- R246: the bytes a filled element receives. -/
def Layout.fillBytes (l : Layout) : List Byte := (leBytes l.fill.toNat 4 ++ leBytes l.fill.toNat 4).take l.esize

/-- Edge modes. -/
def edgeSkip : Nat := 0
def edgeFill : Nat := 1
def edgeFault : Nat := 2

/-- R246: whether an element is counted, and moved. -/
def Layout.counts (l : Layout) (origin : List Int) (out : Bool) (k : Nat) : Bool :=
  l.inb origin k || (l.edge == edgeFill && !out)

/-- Whether any element is out of bounds. -/
def Layout.anyOut (l : Layout) (origin : List Int) : Bool := (List.range l.count).any (fun k => !l.inb origin k)

/-! Engine requests (R203, R247). -/

/-- What an engine request meets. -/
inductive Engine where
  | ok (t : Target)
  | pause
  | fault (code : Nat)
  deriving DecidableEq, Repr

/-- A bank of the cluster as a request finds it: served, waiting, or fault 0x04. -/
def State.engineBank (s : State) (core off : Nat) : BankFinding :=
  (s.clusterAt (clusterOf core)).bankFinding (off / 2 ^ 19)

/-- Translate an element that an engine of a core reads or writes: a page that is not there, moving or to be copied pauses it. -/
def State.engineAddr (s : State) (core : Nat) (k : AccessKind) (va : Word) (size : Nat) : State × Engine :=
  if bits va 63 48 ≠ 0 then (s, .fault 0x05)
  else if inWindow va.toNat then
    let off := va.toNat - windowBase
    match s.engineBank core off with
    | .ok => (s, .ok ⟨⟨0, va, size⟩, [.bank off], false, 0⟩)
    | .waits => (s, .pause)
    | .fault => (s, .fault 0x04)
  else
    match s.translateElem core (s.coreAt core).ctxId k false ⟨0, va, size⟩ with
    | (s, .ok t) => (s, .ok t)
    | (s, .error (.fault c)) => (s, .fault c)
    | (s, .error _) => (s, .pause)

/-- How an engine uses memory: it writes at package scope. -/
def engineUse (k : AccessKind) : MemUse := if k = .write then .through else .read

/-- What the translation of an engine's address costs (R345). -/
def State.engineWalk (s : State) (core : Nat) (va : Word) : List (Nat × Nat) :=
  if bits va 63 48 ≠ 0 then [] else s.xlatCosts core (s.coreAt core).ctxId va.toNat

/-- An engine request of a core: translated, and held while a meter that counts its bytes, or those of its walk, is closed
(R345). -/
def State.engineXlat (s : State) (who core : Nat) (k : AccessKind) (va : Word) (size : Nat) : State × Engine :=
  if s.openAll who (s.coreAt core).ctxId (s.engineWalk core va) then
    match s.engineAddr core k va size with
    | (s, .ok t) => if t.places.all (s.placeOpen who core t (engineUse k)) then (s, .ok t) else (s, .pause)
    | x => x
  else (s, .pause)

/-- The meters that hold an engine request up (R345). -/
def State.engineMeters (s : State) (who core : Nat) (k : AccessKind) (va : Word) (size : Nat) : List Nat :=
  match s.closedAt who (s.coreAt core).ctxId (s.engineWalk core va), s.engineAddr core k va size with
  | [], (s, .ok t) => s.closedMeters who core t (engineUse k)
  | rs, _ => rs

/-- Copies use the banks of some bytes of a core's cluster in this tick (R54, R195). -/
def State.useBanks (s : State) (core off n : Nat) : State :=
  s.modClusterAt (clusterOf core) (fun c =>
    let old := if c.busyTick = s.tick then c.busy else []
    { c with busyTick := s.tick, busy := old ++ (banksOf off n).filter (fun b => !old.contains b) })

/-- Write the bytes of a target and see them performed at package scope (R235, R248). -/
def State.writeThrough (s : State) (who core : Nat) (t : Target) (bs : List Byte) : State :=
  let s := (s.chargeTarget who core t .write).writeTarget core t bs false
  t.places.foldl (fun (s : State) p => match p with
    | .mem a _ => s.writeBack (clusterOf core) (a / 16)
    | .bank off => s.useBanks core off bs.length) s

/-- Read the bytes of a target. -/
def State.readTarget (s : State) (who core : Nat) (t : Target) : State × Option (List Byte) :=
  match t.places with
  | p :: _ => (s.chargeTarget who core t .read).readPlace core t.key p t.elem.size t.ms false
  | [] => (s, none)

/-- R280: a watch has matched what the copy engine did; it is reported after the element is moved. A debug watch trap is taken
for each match, after those found before it. -/
def State.engineMatch (s : State) (core : Nat) (addr : Addr) (va : Word) : State :=
  if (s.coreAt core).debugged then s.reportMatch core (.trap 0x05 7 va) else s.reportAt core (.fault 0x13 7 addr va true 0)

/-- R280: report a watch of the engine's reads, or writes, that some bytes match. -/
def State.engineWatch (s : State) (core : Nat) (kind : WatchKind) (addr : Addr) (va : Word) (n : Nat) : State :=
  if (s.coreAt core).watched kind true va.toNat n then s.engineMatch core addr va else s

/-! The order of copies behind a core's stores (R235). -/

/-- The entries of a core's store queue, and those a record took out of it. -/
def Core.stores (c : Core) : List QueueEntry := c.mem.storeQ ++ c.flight.queueS

/-- Whether a store to the window of an earlier bundle, not performed yet, meets some bytes of the window. -/
def Core.storesAhead (c : Core) (bundle off n : Nat) : Bool :=
  (queueAccesses c.stores).any (fun x => !x.physical && decide (x.bundle < bundle) && x.elems.any (fun e =>
    let o := e.va.toNat - windowBase
    inWindow e.va.toNat && decide (o < off + n) && decide (off < o + e.size)))

/-- Whether a marker of die scope or wider of an earlier bundle has not been passed. -/
def Core.marksAhead (c : Core) (bundle : Nat) : Bool :=
  c.stores.any (fun e => match e with
    | .marker scope b => decide (2 ≤ scope.toNat) && decide (b < bundle)
    | .access _ => false)

/-- Whether a copy of a bundle may read some bytes and write what it moves: it sees the core's earlier stores to the window,
and comes behind what a marker of die scope or wider orders before it, at its source and at its destination (R235). -/
def Core.copyMayRead (c : Core) (bundle : Nat) (va : Word) (n : Nat) : Bool :=
  !c.marksAhead bundle && !(inWindow va.toNat && c.storesAhead bundle (va.toNat - windowBase) n)

/-- What performing one element of a copy comes to. -/
inductive ElemStep where
  | moved
  | pause
  | fault (code : Nat) (va : Word)
  deriving DecidableEq, Repr

/-- What the local place of an element meets (R195, R245). -/
def State.copyLocal (s : State) (core la : Nat) : ElemStep :=
  match s.engineBank core la with
  | .ok => .moved
  | .waits => .pause
  | .fault => .fault 0x04 (wordOf (windowBase + la))

/-- The destination of an element: its local place, or its global address. -/
def Copy.dest (c : Copy) (k : Nat) : Nat := if c.out then (c.lay.gaddr c.origin k).toNat else c.lay.laddr k

/-- Whether element k was done before: it is not one that waits, and comes before the next one. -/
def Copy.isDone (c : Copy) (k : Nat) : Bool := decide (k < c.next) && !c.waiting.contains k

/-- R247: whether a later element to the same destination has been done: then element k leaves its bytes alone. -/
def Copy.superseded (c : Copy) (k : Nat) : Bool :=
  decide (k < c.next) && (List.range c.next).any (fun j => decide (k < j) && c.isDone j && c.lay.counts c.origin c.out j && c.dest j == c.dest k)

/-- Put the bytes of an element of an incoming copy into its bank. -/
def State.copyStore (s : State) (core : Nat) (c : Copy) (k : Nat) (bs : List Byte) : State :=
  if c.superseded k then s
  else (s.useBanks core (c.lay.laddr k) bs.length).writePlace core 0 (.bank (c.lay.laddr k)) bs false false

/-- Move an in-bounds element whose global side is the target t (R244, R247). -/
def State.copyMove (s : State) (core : Nat) (c : Copy) (k : Nat) (t : Target) : State × ElemStep :=
  let la := c.lay.laddr k
  if c.out then
    match (s.useBanks core la c.lay.esize).readPlace core 0 (.bank la) c.lay.esize false false with
    | (s, some bs) => (if c.superseded k then s else s.writeThrough (whoCopy core) core t bs, .moved)
    | (s, none) => (s, .fault 0x0D (wordOf (windowBase + la)))
  else
    match s.readTarget (whoCopy core) core t with
    | (s, some bs) => (s.copyStore core c k bs, .moved)
    | (s, none) => (s, .fault 0x0D (c.lay.gaddr c.origin k))

/-- Perform element k of a copy (R244 to R247). A local place outside the window is a fault for every element. -/
def State.copyElement (s : State) (core : Nat) (c : Copy) (k : Nat) : State × ElemStep :=
  let l := c.lay
  let la := l.laddr k
  let lva := wordOf (windowBase + la)
  if 2 ^ 23 ≤ la then (s, .fault 0x05 lva)
  else if !l.counts c.origin c.out k then (s, .moved)
  else if !l.inb c.origin k then
    match s.copyLocal core la with
    | .moved => (s.copyStore core c k l.fillBytes, .moved)
    | x => (s, x)
  else
    let ga := l.gaddr c.origin k
    match s.engineXlat (whoCopy core) core (if c.out then .write else .read) ga l.esize with
    | (s, .pause) => (s, .pause)
    | (s, .fault f) => (s, .fault f ga)
    | (s, .ok t) =>
      match s.copyLocal core la with
      | .moved =>
        if (s.coreAt core).copyMayRead c.bundle (if c.out then lva else ga) l.esize then s.copyMove core c k t else (s, .pause)
      | x => (s, x)

/-- R280: the watches that element k of a copy matches, once it is moved. -/
def State.copyWatch (s : State) (core : Nat) (c : Copy) (k : Nat) : State :=
  let l := c.lay
  if !l.counts c.origin c.out k then s
  else
    let s := if l.inb c.origin k then
        s.engineWatch core (if c.out then .write else .read) c.addr (l.gaddr c.origin k) l.esize
      else s
    s.engineWatch core (if c.out then .read else .write) c.addr (wordOf (windowBase + l.laddr k)) l.esize

/-- How a pass over elements of a copy ended. -/
inductive PassEnd where
  | all
  | pause
  | fault (code : Nat) (va : Word)
  deriving DecidableEq, Repr

/-- An element is done, and those before it that are not wait. -/
def Copy.after (c : Copy) (k : Nat) (waits : Bool) : Copy :=
  let others := c.waiting.filter (· != k)
  { c with next := max c.next (k + 1), waiting := if waits then others ++ [k] else others }

/-- Perform the elements listed, in order: the copy as it then stands, the bytes moved, and how the pass ended. An element
that must wait holds up none of the others (R247). -/
def State.copyPass (s : State) (core : Nat) (c : Copy) : List Nat → State × Copy × Nat × PassEnd
  | [] => (s, c, 0, if c.waiting.isEmpty then .all else .pause)
  | k :: r =>
    match s.copyElement core c k with
    | (s, .pause) => s.copyPass core (c.after k true) r
    | (s, .fault code va) => (s, c, 0, .fault code va)
    | (s, .moved) =>
      let got := if c.lay.counts c.origin c.out k then c.lay.esize else 0
      let (s, c, m, how) := (s.copyWatch core c k).copyPass core (c.after k false) r
      (s, c, got + m, how)

/-- Perform each of the elements listed or not: a free choice for each (R247; log 8). -/
def State.copySome (s : State) (core : Nat) (c : Copy) (ks : List Nat) : State :=
  ks.foldl
    (fun (s : State) k =>
      let s' := { s with free := s.free + 1 }
      if Config.freeChoice s.free then (s'.copyElement core c k).1 else s') s

/-- The elements of a copy that are still to be done: those that wait, then the next ones. -/
def Copy.left (c : Copy) : List Nat := c.waiting ++ (List.range c.lay.count).drop c.next

/-- Perform what is left of a copy: the copy as it then stands, the bytes moved, and whether it goes on later. Since the
order of the elements is free, a copy that meets a fault has moved any of them. -/
def State.copyRun (s : State) (core : Nat) (c : Copy) : State × Copy × Nat × Bool :=
  match s.copyPass core c c.left with
  | (u, d, m, .all) => (u, d, m, false)
  | (u, d, m, .pause) => (u, d, m, true)
  | (_, _, _, .fault code va) =>
    ((s.copySome core c c.left).reportAt core (.fault code 7 c.addr va true 0), { c with next := c.lay.count, waiting := [] },
      0, false)

/-- Whether a copy can go on: it has come to its end, has elements it has not tried, or one that waited can be performed or
ends the copy. -/
def State.copyReady (s : State) (core : Nat) (c : Copy) : Bool :=
  decide (c.next < c.lay.count) || c.waiting.isEmpty ||
    c.waiting.any (fun k => match (s.copyElement core c k).2 with | .pause => false | _ => true)

/-- The first copy of a core that can go on, by its place in the list. -/
def State.readyCopy (s : State) (core : Nat) : Option Nat := (s.coreAt core).eng.copies.findIdx? (s.copyReady core)

/-- COPY_ELEMENTS_PERFORMED: the first copy of the acting core that can go on performs its elements; the bytes it moved,
and its end, are on their way to its barrier (R247, R248). -/
def execCopyElementsPerformed (s : State) : Out :=
  let core := s.cur
  match s.readyCopy core with
  | none => done s
  | some i =>
    let cs := s.core.eng.copies
    match cs[i]? with
    | none => done s
    | some c =>
      let (s, c', bytes, later) := s.copyRun core c
      done (s.modEng (fun e =>
        { e with copies := if later then cs.set i c' else cs.eraseIdx i
                 contribs := e.contribs ++ (if bytes = 0 ∧ later then [] else [(c.bar, bytes, !later)]) }))

/-- A contribution added to a barrier: C saturates, and the barrier is complete once C reaches E (R99, R254). -/
def Barrier.add (b : Barrier) (bytes : Nat) (finished : Bool) : Barrier :=
  let n := if b.arrivals then finished.toNat else bytes
  let c := min (b.c.toNat + n) (2 ^ 48 - 1)
  { b with c := BitVec.ofNat 48 c, complete := b.complete || decide (b.e.toNat ≤ c) }

/-- BARRIER_CONTRIBUTION: the contributions that have arrived are summed, and completion is tested (R254). -/
def execBarrierContribution (s : State) : Out :=
  done (s.modEng (fun e =>
    { e with contribs := []
             barriers := e.contribs.foldl (fun st c => put c.1 ((find Barrier.idle c.1 st).add c.2.1 c.2.2) st) e.barriers }))

/-! `cgo`, `cseq`, `cstart` (R249 to R252). -/

/-- The copy an operation names; the checks have passed. -/
def State.tileCopy (s : State) (f : FormCG) (out : Bool) : Copy :=
  match s.readTile f.g f.o true with
  | .ok (l, o) => ⟨l, o, out, s.barrierOf f.bar, s.core.issue.addr, 0, [], s.core.flow.bundleNo⟩
  | .error _ => ⟨Layout.empty, [0, 0, 0, 0, 0], out, s.barrierOf f.bar, s.core.issue.addr, 0, [], s.core.flow.bundleNo⟩

/-- Emit a copy with the bundle that issues. Under edge mode 2 an out-of-bounds element ends the phase now, before any byte
is moved (R246). -/
def State.emit (s : State) (c : Copy) : State :=
  if c.lay.edge = edgeFault ∧ c.lay.anyOut c.origin then s.report (.fault 0x05 7 c.addr 0 false 0)
  else s.modEng (fun e => { e with copies := e.copies ++ [{ c with bundle := s.core.flow.bundleNo }] })

def execCgoIn (f : FormCG) (s : State) : Out := guarded (.cgoIn f) s (fun s => s.emit (s.tileCopy f false))
def execCgoOut (f : FormCG) (s : State) : Out := guarded (.cgoOut f) s (fun s => s.emit (s.tileCopy f true))

/-- R250. -/
def execCseq (lvl : BitVec 3) (c r : Reg) (s : State) : Out :=
  guarded (.cseq lvl c r) s (fun s =>
    let a := s.readANum r.toNat
    let b := s.readANum (r.toNat + 1)
    let l := s.readANum (r.toNat + 2)
    let steps := [sextNat 32 (bits a 31 0), sextNat 32 (bits a 63 32), sextNat 21 (bits b 20 0), sextNat 21 (bits b 41 21),
      sextNat 21 (bits b 62 42)]
    s.modEng (fun e =>
      { e with seqLevels := put lvl.toNat ⟨bits (s.readA c) 31 0, steps, sextNat 32 (bits l 31 0)⟩ e.seqLevels }))

/-- Queue a nest (R251). -/
def State.startNest (s : State) (f : FormCG) (out : Bool) : State :=
  let levels := (List.range 6).map (fun i => find SeqLevel.init i s.core.eng.seqLevels)
  let h := (s.handle f.bar).getD 0
  s.modEng (fun e => { e with nests := e.nests ++ [⟨s.tileCopy f out, levels, h, 0, false, some s.core.flow.bundleNo⟩] })

def execCstart (f : FormCG) (s : State) : Out := guarded (.cstart f) s (fun s => s.startNest f false)
def execCstartOut (f : FormCG) (s : State) : Out := guarded (.cstartOut f) s (fun s => s.startNest f true)

/-- Copies in a nest. -/
def Nest.count (n : Nest) : Nat := n.levels.foldl (fun a l => a * l.count) 1

/-- The indices j of copy k, level 0 fastest. -/
def nestIndices : List SeqLevel → Nat → List Nat
  | [], _ => []
  | l :: r, k => (k % l.count) :: nestIndices r (k / l.count)

/-- R251: copy k of a nest; origin and lbase arithmetic wraps in the width of its field. -/
def Nest.copyAt (n : Nest) (k : Nat) : Copy :=
  let js := nestIndices n.levels k
  let moved (d : Nat) : Int := (List.zipWith (fun (j : Nat) (l : SeqLevel) => (j : Int) * l.steps.getD d 0) js n.levels).foldl (· + ·) 0
  let lmoved : Int := (List.zipWith (fun (j : Nat) (l : SeqLevel) => (j : Int) * l.lstep) js n.levels).foldl (· + ·) 0
  let c := n.copy
  let origin := c.origin.zipIdx.map (fun p =>
    let w := if p.2 < 2 then 32 else 21
    if p.2 < c.lay.rank then sextNat w (wrap w (p.1 + moved p.2)) else 0)
  { c with origin := origin, lay := { c.lay with lbase := wrap 32 ((c.lay.lbase : Int) + lmoved) } }

/-- NEST_START: the first nest that waits starts with this bundle; a nest of no copies ends with it (R251). -/
def execNestStart (s : State) : Out :=
  match s.core.eng.nests with
  | [] => done s
  | n :: r =>
    if n.count = 0 then done ((s.modEng (fun e => { e with nests := r })).modIssue (fun i => { i with nestDone := true }))
    else done (s.modEng (fun e => { e with nests := { n with started := true } :: r }))

/-- SEQUENCER_EMISSION: the running nest emits its next copy with this bundle (R251). -/
def execSequencerEmission (s : State) : Out :=
  match s.core.eng.nests with
  | [] => done s
  | n :: r =>
    let s := s.emit (n.copyAt n.emitted)
    let left := if n.emitted + 1 < n.count then { n with emitted := n.emitted + 1 } :: r else r
    done ((s.modEng (fun e => { e with nests := left })).modIssue (fun i => { i with nestDone := true }))

/-! Streams (R221 to R225). -/

/-- The elements of a stream in order: skipped elements are left out. -/
def Stream.elems (st : Stream) : List Nat :=
  (List.range st.lay.count).filter (fun k => st.lay.inb st.origin k || st.lay.edge != edgeSkip)

/-- The bytes a stream carries. -/
def Stream.bytes (st : Stream) : Nat := st.lay.esize * st.elems.length

/-- A port bound to a record, with its entries counted (R223). -/
def streamOf (lay : Layout) (origin : List Int) (drain : Bool) (bank slot : Nat) (addr : Addr) : Stream :=
  let st : Stream := ⟨true, drain, bank, lay, origin, 0, 0, 0, slot, addr, false, []⟩
  { st with total := (st.bytes + 255) / 256 }

/-- Bind a port at the end of the bundle. -/
def State.bindPort (s : State) (f : FormSB) (drain : Bool) : State :=
  match s.readTile f.g f.o false with
  | .ok (l, o) =>
    s.modIssue (fun i =>
      { i with binds := i.binds ++ [(f.port.toNat, some (streamOf l o drain f.bank.toNat 7 i.addr))] })
  | .error _ => s

def execSbindIn (f : FormSB) (s : State) : Out := guarded (.sbindIn f) s (fun s => s.bindPort f false)
def execSbindOut (f : FormSB) (s : State) : Out := guarded (.sbindOut f) s (fun s => s.bindPort f true)

/-- R225: unbind at the end of the bundle; an unbound port stays as it is. -/
def execSbindOff (port : BitVec 2) (s : State) : Out :=
  guarded (.sbindOff port) s (fun s =>
    if (s.core.eng.stream port.toNat).bound then s.modIssue (fun i => { i with binds := i.binds ++ [(port.toNat, none)] })
    else s)

/-- Replace a port. -/
def Engines.setStream (e : Engines) (n : Nat) (x : Stream) : Engines := { e with streams := put n x e.streams }

/-- Whether the 256 bytes at an offset of a cluster's banks fail ECC (R207). -/
def State.entryFails (s : State) (cl off : Nat) : Bool := s.badBank cl off 256

/-- Entry k of a stream as its bank of a cluster holds it. -/
def Cluster.entry (c : Cluster) (x : Stream) (k : Nat) : Vec := vecOfBytes (readBytes c.sram (x.place k) 256)

/-- The entries of a drain stream that are pushed and not written. -/
def Stream.pending (x : Stream) : List Nat := (List.range x.filled).drop x.taken

/-- Unbind a port: unread entries of a fill stream are discarded; those pushed into a drain stream are still written, and
the engine holds them from now on, so that the bank and the port are free (R225, log 80). An entry whose bytes fail ECC is not
taken (R207); `fails` tells it by its offset. -/
def Engines.unbind (e : Engines) (c : Cluster) (fails : Nat → Bool) (n : Nat) : Engines :=
  let x := e.stream n
  let e := e.setStream n Stream.off
  if x.bound && x.drain && decide (x.taken < x.filled) then
    let take (k : Nat) : Option Vec := if fails (x.place k) then none else some (c.entry x k)
    let old := { x with bound := false, closing := true, held := x.pending.map take }
    { e with draining := put n (find [] n e.draining ++ [old]) e.draining }
  else e

/-- Bind and unbind at the end of a bundle. -/
def Engines.applyBinds (e : Engines) (c : Cluster) (fails : Nat → Bool) (l : List (Nat × Option Stream)) : Engines :=
  l.foldl (fun (e : Engines) p => match p.2 with
    | some x => e.setStream p.1 x
    | none => e.unbind c fails p.1) e

/-- Unbind every port, as a cancelled task does. -/
def Engines.unbindAll (e : Engines) (c : Cluster) (fails : Nat → Bool) : Engines :=
  (List.range 4).foldl (fun e n => e.unbind c fails n) e

/-- Whether an unbound drain stream still has entries to write. -/
def Engines.drains (e : Engines) : Bool := e.draining.any (fun p => !p.2.isEmpty)

/-- The bytes of the elements listed, read for a fill stream: none where one must wait. -/
def State.streamBytes (s : State) (who core : Nat) (x : Stream) :
    List Nat → State × Except (Option (Nat × Word)) (List Byte)
  | [] => (s, .ok [])
  | k :: r =>
    let l := x.lay
    let ga := l.gaddr x.origin k
    let step : State × Except (Option (Nat × Word)) (List Byte) :=
      if l.inb x.origin k then
        match s.engineAddr core .read ga l.esize with
        | (s, .pause) => (s, .error none)
        | (s, .fault c) => (s, .error (some (c, ga)))
        | (s, .ok t) =>
          match s.readTarget who core t with
          | (s, some bs) => (s.engineWatch core .read x.addr ga l.esize, .ok bs)
          | (s, none) => (s, .error (some (0x0D, ga)))
      else if l.edge = edgeFill then (s, .ok l.fillBytes)
      else (s, .error (some (0x05, ga)))
    match step with
    | (s, .error e) => (s, .error e)
    | (s, .ok bs) =>
      match s.streamBytes who core x r with
      | (s, .ok rest) => (s, .ok (bs ++ rest))
      | (s, .error e) => (s, .error e)

/-- The elements of entry k. -/
def Stream.entryElems (x : Stream) (k : Nat) : List Nat :=
  let n := 256 / x.lay.esize
  (x.elems.drop (n * k)).take n

/-- A fill stream that may read ahead. -/
def Stream.fillable (x : Stream) : Bool :=
  x.bound && !x.drain && decide (x.filled < x.total) && decide (x.filled - x.taken < 2048)

/-- A drain stream with an entry to write. -/
def Stream.drainable (x : Stream) : Bool := x.drain && decide (x.taken < x.filled)

/-- A fault ends the stream's reading ahead. -/
def Stream.stop (x : Stream) : Stream := { x with filled := x.total, taken := x.total }

/-- STREAM_FILL_READ: the next entry is read into the bank; the last one is padded with zeros (R223). -/
def execStreamFillRead (port : BitVec 2) (s : State) : Out :=
  let x := s.core.eng.stream port.toNat
  if !x.fillable then done s
  else
    match s.streamBytes (whoStream s.cur port.toNat) s.cur x (x.entryElems x.filled) with
    | (s, .ok bs) =>
      let s := s.writePlace s.cur 0 (.bank (x.place x.filled)) ((bs ++ List.replicate 256 0).take 256) false false
      done (s.modEng (fun e => e.setStream port.toNat { x with filled := x.filled + 1 }))
    | (s, .error none) => done s
    | (s, .error (some (c, va))) =>
      done ((s.modEng (fun e => e.setStream port.toNat x.stop)).report (.fault c x.slot x.addr va true 0))

/-- Write the elements of a drained entry, from its bytes. -/
def State.streamWrite (s : State) (who core : Nat) (x : Stream) : List Nat → List Byte → State × Option (Nat × Word)
  | [], _ => (s, none)
  | k :: r, bs =>
    let l := x.lay
    let ga := l.gaddr x.origin k
    if !l.inb x.origin k then
      if l.edge = edgeFault then (s, some (0x05, ga)) else s.streamWrite who core x r (bs.drop l.esize)
    else
      match s.engineAddr core .write ga l.esize with
      | (s, .pause) => (s, some (0, ga))
      | (s, .fault c) => (s, some (c, ga))
      | (s, .ok t) =>
        ((s.writeThrough who core t (bs.take l.esize)).engineWatch core .write x.addr ga l.esize).streamWrite who core x r
          (bs.drop l.esize)

/-- The drain stream of a port whose entries are written next: the oldest that has been unbound, else the one bound. -/
def Engines.drain (e : Engines) (n : Nat) : Stream := (find [] n e.draining).headD (e.stream n)

/-- Replace that stream; one that has been unbound and has nothing left is gone. -/
def Engines.setDrain (e : Engines) (n : Nat) (x : Stream) : Engines :=
  if x.closing then
    let rest := (find [] n e.draining).tail
    { e with draining := put n (if x.drainable then x :: rest else rest) e.draining }
  else e.setStream n x

/-- The bytes of the oldest entry of a drain stream; none for an uncorrectable error of its bank (R207). -/
def State.drainEntry (s : State) (x : Stream) : Option (List Byte) :=
  match x.held with
  | v :: _ => v.map (fun v => vecBytes v 256)
  | [] => (s.readPlace s.cur 0 (.bank (x.place x.taken)) 256 false false).2

/-- STREAM_DRAIN_WRITE: the oldest pushed entry is written to the window; only the bytes the count covers (R223). An
element that must wait leaves the entry to be written again whole. -/
def execStreamDrainWrite (port : BitVec 2) (s : State) : Out :=
  let x := s.core.eng.drain port.toNat
  let stop (s : State) (c : Nat) (va : Word) : State :=
    (s.modEng (fun e => e.setDrain port.toNat x.stop)).report (.fault c x.slot x.addr va true 0)
  if !x.drainable then done s
  else
    match s.drainEntry x with
    | none => done (stop s 0x0D (wordOf (windowBase + x.place x.taken)))
    | some bs =>
      match s.streamWrite (whoStream s.cur port.toNat) s.cur x (x.entryElems x.taken) bs with
      | (s, none) => done (s.modEng (fun e => e.setDrain port.toNat { x with taken := x.taken + 1, held := x.held.tail }))
      | (s, some (c, va)) => done (if c = 0 then s else stop s c va)

/-- Whether the elements of an entry can be reached now. -/
def State.entryReady (s : State) (who core : Nat) (x : Stream) (k : Nat) (kind : AccessKind) : Bool :=
  (x.entryElems k).all (fun j => !x.lay.inb x.origin j ||
    (match (s.engineXlat who core kind (x.lay.gaddr x.origin j) x.lay.esize).2 with | .pause => false | _ => true))

/-- Whether a core can be waiting for the port's next request: an empty fill port, a full drain port. -/
def Stream.awaited (x : Stream) : Bool := if x.drain then decide (2048 ≤ x.filled - x.taken) else decide (x.filled ≤ x.taken)

/-- The row of a port of the acting core that can go on. While the drivers are stopped (R53, R224), only the requests of a
bound port that a core can be waiting for go on: a full drain port gets room by way of the entries of streams unbound before
it. -/
def State.streamRow (s : State) (stopped : Bool) : Option Instr :=
  (List.range 4).findSome? (fun n =>
    let x := s.core.eng.stream n
    let d := s.core.eng.drain n
    let who := whoStream s.cur n
    let go := !stopped || (x.bound && x.awaited)
    if go && x.fillable && s.entryReady who s.cur x x.filled .read then
      some (.streamFillRead (BitVec.ofNat 2 n))
    else if go && d.drainable && s.entryReady who s.cur d d.taken .write then
      some (.streamDrainWrite (BitVec.ofNat 2 n))
    else none)

/-! Requests of the engines that only meters hold up (R345). -/

/-- The requests of a core's copies and streams that wait for tokens: requester and meter. -/
def State.engineHeld (s : State) (core : Nat) : List (Nat × Nat) :=
  let e := (s.coreAt core).eng
  let tag (who : Nat) (ms : List Nat) : List (Nat × Nat) := ms.map (fun m => (who, m))
  let copies := e.copies.flatMap (fun c => c.waiting.flatMap (fun k =>
    if c.lay.inb c.origin k then
      tag (whoCopy core)
        (s.engineMeters (whoCopy core) core (if c.out then .write else .read) (c.lay.gaddr c.origin k) c.lay.esize)
    else []))
  let entry (n : Nat) (x : Stream) (k : Nat) (kind : AccessKind) : List (Nat × Nat) :=
    (x.entryElems k).flatMap (fun j =>
      if x.lay.inb x.origin j then
        tag (whoStream core n) (s.engineMeters (whoStream core n) core kind (x.lay.gaddr x.origin j) x.lay.esize)
      else [])
  copies ++ (List.range 4).flatMap (fun n =>
    (if (e.stream n).fillable then entry n (e.stream n) (e.stream n).filled .read else []) ++
      (if (e.drain n).drainable then entry n (e.drain n) (e.drain n).taken .write else []))

/-! Bank modes (R196, R220). -/

/-- The mode of a field value. -/
def bankModeOf (m : BitVec 2) : BankMode :=
  match m.toNat with
  | 0 => .cache
  | 1 => .spad
  | _ => .fifo

/-- R220: the switch is asked for; a mask of 0 does nothing. -/
def execBank (mask : BitVec 16) (mode : BitVec 2) (s : State) : Out :=
  guarded (.bank mask mode) s (fun s =>
    if mask = 0 then s
    else s.modClusterAt (clusterOf s.cur) (fun c =>
      { c with asked := c.asked + 1, switching := c.switching ++ [⟨c.asked + 1, s.cur, mask, bankModeOf mode⟩] }))

/-- Clear the bytes of a bank. -/
def Cluster.zeroBank (c : Cluster) (b : Nat) : Cluster :=
  { c with sram := c.sram.filter (fun x => x.1 / 2 ^ 19 != b) }

/-- R196: one bank takes a mode. The contents are kept between scratchpad and FIFO mode and are zeros otherwise. -/
def Cluster.setMode (c : Cluster) (b : Nat) (m : BankMode) : Cluster :=
  let old := c.mode b
  if old = m then c
  else
    let c := if old = .cache ∨ m = .cache then c.zeroBank b else c
    { c with modes := put b m c.modes }

/-- The words of a cluster's banks that hold good data again when a switch empties their bank. -/
def Cluster.mended (c : Cluster) (cl : Nat) (x : BankSwitch) (l : List SoftPlace) : List SoftPlace :=
  let emptied (b : Nat) : Bool := x.mask.getLsbD b && c.mode b != x.mode && (c.mode b == .cache || x.mode == .cache)
  l.filter (fun p => match p with
    | .bank k w => !(k == cl && emptied (w / 2 ^ 16))
    | _ => true)

/-- Whether a switch takes a bank out of cache mode. -/
def Cluster.flushes (c : Cluster) (x : BankSwitch) : Bool :=
  (List.range 16).any (fun b => x.mask.getLsbD b && c.mode b == .cache && x.mode != .cache)

/-- BANK_SWITCH_COMPLETE: the oldest switch of the acting core's cluster takes effect. A bank that leaves cache mode has
its dirty bytes written back, as far as meters let them go, and its blocks dropped; the model's cache is not divided among
banks, so all of it is (R196, R345, log 21). -/
def execBankSwitchComplete (s : State) : Out :=
  let cl := clusterOf s.cur
  match (s.clusterAt cl).switching with
  | [] => done s
  | x :: r =>
    let c := s.clusterAt cl
    let s := if c.flushes x then s.flushOpen (whoStore x.core) cl else s
    if c.flushes x && !(s.clusterAt cl).allDirty.isEmpty then done s
    else
      let s := if c.flushes x then s.dropCache cl else s
      let s := { s with bad := c.mended cl x s.bad }
      done (s.modClusterAt cl (fun c =>
        { ((List.range 16).foldl (fun (c : Cluster) b => if x.mask.getLsbD b then c.setMode b x.mode else c) c) with
          switching := r }))

end Sys2Proof.Machine
end

