-- ==== Sys2Proof/Machine/VectorInt.lean ====
section
/-! DEFINITION. Integer arithmetic, compares, selection and lane movement of the V slots (R149 to R154). -/

namespace Sys2Proof.Machine

/-- The element width of an integer type: 32, 16, 8, 64 (R63). -/
def intWidth (ty : BitVec 2) : Nat :=
  match ty.toNat with
  | 0 => 32
  | 1 => 16
  | 2 => 8
  | _ => 64

/-- An integer operation of x = elem(vs) and y = elem(vt). No flag is set. -/
def State.runVI (s : State) (i : Instr) (f : FormVR) (g : (w : Nat) → BitVec w → BitVec w → BitVec w) : Out :=
  guarded i s (fun s =>
    let w := intWidth f.ty
    let x := s.readV f.vs
    let y := s.readV f.vt
    s.landElems i f.vd w (2048 / w) (s.en f.k w) true (fun j => (g w (elem x w j) (elem y w j), 0)))

/-- A shift count: the low log2(w) bits. -/
def shiftCount {w : Nat} (y : BitVec w) : Nat := y.toNat % w

/-- Clamp a signed value to w bits. -/
def clampS (w : Nat) (x : Int) : BitVec w :=
  let hi : Int := (2 ^ (w - 1) : Nat) - 1
  let lo : Int := -(2 ^ (w - 1) : Nat)
  BitVec.ofInt w (if x < lo then lo else if hi < x then hi else x)

def execVadd (f : FormVR) (s : State) : Out := s.runVI (.vadd f) f (fun _ x y => x + y)
def execVsub (f : FormVR) (s : State) : Out := s.runVI (.vsub f) f (fun _ x y => x - y)
def execVmul (f : FormVR) (s : State) : Out := s.runVI (.vmul f) f (fun _ x y => x * y)
def execVmulh (f : FormVR) (s : State) : Out :=
  s.runVI (.vmulh f) f (fun w x y => BitVec.ofInt w (x.toInt * y.toInt / (2 ^ w : Nat)))
def execVmin (f : FormVR) (s : State) : Out := s.runVI (.vmin f) f (fun _ x y => if x.slt y then x else y)
def execVmax (f : FormVR) (s : State) : Out := s.runVI (.vmax f) f (fun _ x y => if x.slt y then y else x)
def execVminu (f : FormVR) (s : State) : Out := s.runVI (.vminu f) f (fun _ x y => if x.ult y then x else y)
def execVmaxu (f : FormVR) (s : State) : Out := s.runVI (.vmaxu f) f (fun _ x y => if x.ult y then y else x)
def execVand (f : FormVR) (s : State) : Out := s.runVI (.vand f) f (fun _ x y => x &&& y)
def execVor (f : FormVR) (s : State) : Out := s.runVI (.vor f) f (fun _ x y => x ||| y)
def execVxor (f : FormVR) (s : State) : Out := s.runVI (.vxor f) f (fun _ x y => x ^^^ y)
def execVshl (f : FormVR) (s : State) : Out := s.runVI (.vshl f) f (fun _ x y => x <<< shiftCount y)
def execVshr (f : FormVR) (s : State) : Out := s.runVI (.vshr f) f (fun _ x y => x >>> shiftCount y)
def execVsar (f : FormVR) (s : State) : Out := s.runVI (.vsar f) f (fun _ x y => x.sshiftRight (shiftCount y))
def execVaddsat (f : FormVR) (s : State) : Out := s.runVI (.vaddsat f) f (fun w x y => clampS w (x.toInt + y.toInt))
def execVsubsat (f : FormVR) (s : State) : Out := s.runVI (.vsubsat f) f (fun w x y => clampS w (x.toInt - y.toInt))

/-- An integer compare (R150). -/
def State.runVIC (s : State) (i : Instr) (f : FormVR) (g : (w : Nat) → BitVec w → BitVec w → Bool) : Out :=
  guarded i s (fun s =>
    let w := intWidth f.ty
    let x := s.readV f.vs
    let y := s.readV f.vt
    s.landCompare i f w (fun j => (g w (elem x w j) (elem y w j), 0)))

def execVceq (f : FormVR) (s : State) : Out := s.runVIC (.vceq f) f (fun _ x y => x == y)
def execVclt (f : FormVR) (s : State) : Out := s.runVIC (.vclt f) f (fun _ x y => x.slt y)
def execVcltu (f : FormVR) (s : State) : Out := s.runVIC (.vcltu f) f (fun _ x y => x.ult y)

/-- R150: k selects and does not steer; every element is written. -/
def execVsel (f : FormVR) (s : State) : Out :=
  guarded (.vsel f) s (fun s =>
    let w := intWidth f.ty
    let x := s.readV f.vs
    let y := s.readV f.vt
    s.landElems (.vsel f) f.vd w (2048 / w) (fun _ => true) true
      (fun j => (if s.en f.k w j then elem x w j else elem y w j, 0)))

/-! Lane movement (R151 to R154). -/

/-- R151. -/
def execVperm (f : FormVR) (s : State) : Out :=
  guarded (.vperm f) s (fun s =>
    let w := intWidth f.ty
    let n := 2048 / w
    let x := s.readV f.vs
    let y := s.readV f.vt
    s.landElems (.vperm f) f.vd w n (s.en f.k w) true (fun j => (elem x w ((elem y w j).toNat % n), 0)))

/-- Lane i of a register moved by n lanes (R152). -/
def slideLane (x : Vec) (n : Int) (rot : Bool) (i : Nat) : BitVec 32 :=
  let k := (i : Int) - n
  if rot then elem x 32 (k % 64).toNat else if 0 ≤ k ∧ k ≤ 63 then elem x 32 k.toNat else 0

/-- R152: all 64 lanes are written. -/
def State.slide (s : State) (i : Instr) (vd vs : Reg) (n : BitVec 7) (rot : Bool) : Out :=
  guarded i s (fun s =>
    let x := s.readV vs
    s.landV vd (vecOf 32 (slideLane x n.toInt rot) 64) (BitVec.allOnes 2048) 0 (latency i))

def execVslide (vd vs : Reg) (n : BitVec 7) (s : State) : Out := s.slide (.vslide vd vs n) vd vs n false
def execVslideR (vd vs : Reg) (n : BitVec 7) (s : State) : Out := s.slide (.vslideR vd vs n) vd vs n true

/-- R153. -/
def execViota (f : FormVR) (s : State) : Out :=
  guarded (.viota f) s (fun s =>
    let w := intWidth f.ty
    s.landElems (.viota f) f.vd w (2048 / w) (s.en f.k w) true (fun j => (BitVec.ofNat w j, 0)))

/-- R153: vs names a scalar register. -/
def execVbcast (f : FormVR) (s : State) : Out :=
  guarded (.vbcast f) s (fun s =>
    let w := intWidth f.ty
    let x := s.readA f.vs
    s.landElems (.vbcast f) f.vd w (2048 / w) (s.en f.k w) true (fun _ => (x.setWidth w, 0)))

/-- R154: one element into a scalar register. -/
def execVmovs (vd vs : Reg) (idx : BitVec 8) (zx : Bool) (width : BitVec 2) (s : State) : Out :=
  guarded (.vmovs vd vs idx zx width) s (fun s =>
    let w := moveWidth width
    let x := elem (s.readV vs) w idx.toNat
    s.landA vd (if zx then x.setWidth 64 else x.signExtend 64) (latency (.vmovs vd vs idx zx width)))

/-- R154: one element from a scalar register; no other bit of vd is written. -/
def execVinsl (vd vs : Reg) (idx : BitVec 8) (width : BitVec 2) (s : State) : Out :=
  guarded (.vinsl vd vs idx width) s (fun s =>
    let w := moveWidth width
    let at_ := w * idx.toNat
    s.landV vd ((((s.readA vs).setWidth w).setWidth 2048) <<< at_) (((BitVec.allOnes w).setWidth 2048) <<< at_) 0
      (latency (.vinsl vd vs idx width)))

end Sys2Proof.Machine
end

