-- ==== Sys2Proof/Machine/Mask.lean ====
section
/-! DEFINITION. Reductions (R127, R155), masks (R156 to R158) and the flags access (R170). -/

namespace Sys2Proof.Machine

/-- Combine two nodes of the tree; an absent node gives the other. -/
def combineNodes (g : Nat → Nat → Nat × BitVec 5) (x y : Option Nat) : Option Nat × BitVec 5 :=
  match x, y with
  | some a, some b => let r := g a b; (some r.1, r.2)
  | some a, none => (some a, 0)
  | none, y => (y, 0)

/-- One level of the pairwise tree: the nodes and the flags of its combines. -/
def treeLevel (g : Nat → Nat → Nat × BitVec 5) : List (Option Nat) → List (Option Nat) × BitVec 5
  | x :: y :: r =>
    let (z, fl) := combineNodes g x y
    let (zs, fl') := treeLevel g r
    (z :: zs, fl ||| fl')
  | l => (l, 0)

/-- R127: n levels of the tree. -/
def reduceTree (g : Nat → Nat → Nat × BitVec 5) : Nat → List (Option Nat) → Option Nat × BitVec 5
  | 0, l => (l.headD none, 0)
  | n + 1, l =>
    let (l', fl) := treeLevel g l
    let (r, fl') := reduceTree g n l'
    (r, fl ||| fl')

/-- The reductions. -/
inductive RedOp where
  | sum | max | min
  deriving DecidableEq, Repr

/-- The element format of a reduction's ty: f32, s32, bf16, f64 (R155). -/
def redFormat (ty : BitVec 2) : Option FloatFormat :=
  match ty.toNat with
  | 0 => some f32Format
  | 1 => none
  | 2 => some bf16Format
  | _ => some f64Format

/-- The combine of a floating-point reduction. -/
def redFloat (op : RedOp) (ft : FloatFormat) (rm : Rounding) (x y : Nat) : Nat × BitVec 5 :=
  match op with
  | .sum => fAdd ft rm x y
  | .max => fMinMax ft true x y
  | .min => fMinMax ft false x y

/-- The combine of an `s32` reduction. -/
def redInt (op : RedOp) (x y : Nat) : Nat × BitVec 5 :=
  match op with
  | .sum => ((x + y) % 2 ^ 32, 0)
  | .max => (if sextNat 32 x < sextNat 32 y then y else x, 0)
  | .min => (if sextNat 32 y < sextNat 32 x then y else x, 0)

/-- The result when every element is absent (R155). -/
def redEmpty (op : RedOp) (ft : Option FloatFormat) : Nat :=
  match op, ft with
  | .sum, _ => 0
  | .max, some f => f.signed true f.infEnc
  | .min, some f => f.infEnc
  | .max, none => 2 ^ 31
  | .min, none => 2 ^ 31 - 1

/-- A reduction: the result and its flags. -/
def reduceVec (op : RedOp) (ty : BitVec 2) (rm : Rounding) (x : Vec) (on : Nat → Nat → Bool) : Nat × Nat × BitVec 5 :=
  let ft := redFormat ty
  let w := match ft with | some f => f.width | none => 32
  let n := 2048 / w
  let nodes := (List.range n).map (fun j => if on w j then some (elemNat x w j) else none)
  let g := match ft with | some f => redFloat op f rm | none => redInt op
  let (r, fl) := reduceTree g (Nat.log2 n) nodes
  (w, r.getD (redEmpty op ft), fl)

/-- R155: the result goes to element 0, the flags of all combines to lane 0. -/
def State.runRed (s : State) (i : Instr) (f : FormVR) (op : RedOp) : Out :=
  guarded i s (fun s =>
    let (w, r, fl) := reduceVec op f.ty s.rm (s.readV f.vs) (s.en f.k)
    s.landV f.vd (BitVec.ofNat 2048 r) ((BitVec.allOnes w).setWidth 2048) (if f.nf then 0 else fl.setWidth 320) (latency i))

def execVredsum (f : FormVR) (s : State) : Out := s.runRed (.vredsum f) f .sum
def execVredmax (f : FormVR) (s : State) : Out := s.runRed (.vredmax f) f .max
def execVredmin (f : FormVR) (s : State) : Out := s.runRed (.vredmin f) f .min

/-! Masks. -/

/-- R156: bits under the steering mask are written. -/
def State.runKop (s : State) (i : Instr) (d a b k : BitVec 3) (g : Word → Word → Word) : Out :=
  guarded i s (fun s => s.landK d.toNat (g (s.readK a) (s.readK b)) (s.readK k) 0 (latency i))

def execKopAnd (d a b k : BitVec 3) (s : State) : Out := s.runKop (.kopAnd d a b k) d a b k (fun x y => x &&& y)
def execKopOr (d a b k : BitVec 3) (s : State) : Out := s.runKop (.kopOr d a b k) d a b k (fun x y => x ||| y)
def execKopXor (d a b k : BitVec 3) (s : State) : Out := s.runKop (.kopXor d a b k) d a b k (fun x y => x ^^^ y)
def execKopAndn (d a b k : BitVec 3) (s : State) : Out := s.runKop (.kopAndn d a b k) d a b k (fun x y => x &&& ~~~y)

/-- R157: a steered mask into a scalar register. -/
def State.runKpop (s : State) (i : Instr) (ad : Reg) (ks k : BitVec 3) (g : Word → Word) : Out :=
  guarded i s (fun s => s.landA ad (g (s.readK ks &&& s.readK k)) (latency i))

def execKpop (ad : Reg) (ks k : BitVec 3) (s : State) : Out :=
  s.runKpop (.kpop ad ks k) ad ks k (fun x => wordOf (popNat 64 x.toNat))
def execKpopMv (ad : Reg) (ks k : BitVec 3) (s : State) : Out := s.runKpop (.kpopMv ad ks k) ad ks k id
def execKpopFf (ad : Reg) (ks k : BitVec 3) (s : State) : Out :=
  s.runKpop (.kpopFf ad ks k) ad ks k (fun x => wordOf (lowestBit 64 x.toNat))

/-- R158. -/
def execKfrom (kd : BitVec 3) (r : Reg) (s : State) : Out :=
  guarded (.kfrom kd r) s (fun s => s.landK kd.toNat (s.readA r) (BitVec.allOnes 64) 0 (latency (.kfrom kd r)))
def execKset (kd : BitVec 3) (r : Reg) (s : State) : Out :=
  guarded (.kset kd r) s (fun s =>
    let n := (s.readA r).toNat
    s.landK kd.toNat (maskOf (fun i => decide (i < n))) (BitVec.allOnes 64) 0 (latency (.kset kd r)))

/-! Flags (R170). -/

/-- A clear or restore of `vflags` at the end of the bundle, and the old flags as a result. -/
def State.accessFlags (s : State) (i : Instr) (vd : Reg) (keep on : FlagVec) : State :=
  (s.landV vd (flagsAsVec s.core.regs.vflags) (BitVec.allOnes 2048) 0 (latency i)).modIssue
    (fun c => { c with flagWrites := c.flagWrites ++ [(keep, on)] })

def execVflags (vd : Reg) (clr : BitVec 5) (s : State) : Out :=
  guarded (.vflags vd clr) s (fun s => s.accessFlags (.vflags vd clr) vd (~~~(everyLane clr)) 0)
def execVflagsSet (vd vs : Reg) (s : State) : Out :=
  guarded (.vflagsSet vd vs) s (fun s => s.accessFlags (.vflagsSet vd vs) vd 0 (flagsFromVec (s.readV vs)))

end Sys2Proof.Machine
end

