-- ==== Sys2Proof/Machine/Collective.lean ====
section
/-! DEFINITION. Collectives (R256 to R261): a `coll` joins the members that wait; the collective unit matches them and
completes each. -/

namespace Sys2Proof.Machine

/-- The index of a core in a member list. -/
def selfIndex (ms : List (Nat × Nat)) (core module : Nat) : Nat := (ms.findIdx? (· == (core, module))).getD 0

/-- A member as its `coll` issues; the checks have passed. The meters count the reading of the table. -/
def State.joinColl (s : State) (op : Nat) (f : FormCO) : State :=
  match s.readGroup (s.readA f.g) (collSize f.ty) (op == 5) with
  | .error _ => s
  | .ok g =>
    let m : Member :=
      { core := s.cur, ctx := s.core.ctxId, op := op, ty := f.ty.toNat, n := g.n, root := g.root, cnt := g.cnt
        send := g.send, recv := g.recv, members := g.members, self := selfIndex g.members s.cur s.moduleNo
        bar := s.barrierOf f.bar, addr := s.core.issue.addr, bundle := s.core.flow.bundleNo
        got := [], sent := false, result := none, left := [] }
    { s.countAll s.core.ctxId (s.groupCosts (s.readA f.g)) with colls := s.colls ++ [m] }

def execCollAllreduceSum (f : FormCO) (s : State) : Out := guarded (.collAllreduceSum f) s (fun s => s.joinColl 0 f)
def execCollAllreduceMax (f : FormCO) (s : State) : Out := guarded (.collAllreduceMax f) s (fun s => s.joinColl 1 f)
def execCollAllgather (f : FormCO) (s : State) : Out := guarded (.collAllgather f) s (fun s => s.joinColl 2 f)
def execCollRscatterSum (f : FormCO) (s : State) : Out := guarded (.collRscatterSum f) s (fun s => s.joinColl 3 f)
def execCollRscatterMax (f : FormCO) (s : State) : Out := guarded (.collRscatterMax f) s (fun s => s.joinColl 4 f)
def execCollBcast (f : FormCO) (s : State) : Out := guarded (.collBcast f) s (fun s => s.joinColl 5 f)

/-- The element size of a member. -/
def Member.esize (m : Member) : Nat := if m.ty = 1 then 2 else 4

/-- Elements in a member's send buffer (R258). -/
def Member.sends (m : Member) : Nat := if m.op = 3 ∨ m.op = 4 then m.n * m.cnt else m.cnt

/-- Elements in a member's recv buffer (R258). -/
def Member.receives (m : Member) : Nat := if m.op = 2 then m.n * m.cnt else m.cnt

/-- Elements of a member's send buffer that are read: none but the root's for `bcast` (R258). -/
def Member.reads (m : Member) : Nat := if m.op = 5 ∧ m.self ≠ m.root then 0 else m.sends

/-- The elements of a member's send buffer that are still to be read. -/
def Member.unread (m : Member) : List Nat := (List.range m.reads).filter (fun i => (find? i m.got).isNone)

/-- The bytes read from a member's send buffer. -/
def Member.sendBytes (m : Member) : List Byte := (List.range m.reads).flatMap (fun i => find [] i m.got)

/-- The address of element i of a buffer of a member. -/
def Member.elemAt (m : Member) (buffer : Addr) (i : Nat) : Word := wordOf (buffer.toNat + m.esize * i)

/-! The buffers, element by element: one that must wait holds up none of the others (R247, R259). What the cluster of a member
wrote there goes home first (R236). -/

/-- What an element of a buffer comes to: its bytes, a fault, or none where it must wait. -/
abbrev BufferStep := Except (Option (Nat × Word)) (List Byte)

/-- The block of a place goes home, and is dropped from the cache of a core's cluster. -/
def State.dropPlace (s : State) (core : Nat) : Place → State
  | .mem a _ => s.dropBlock core a
  | .bank _ => s

/-- Whether the meters that count the way home of a place's block are open to a request (R345). -/
def State.homeOpen (s : State) (who core : Nat) : Place → Bool
  | .mem a _ => s.blockOpen who (clusterOf core) (a / 16)
  | .bank _ => true

/-- Read element i of a member's send buffer. -/
def State.readSend (s : State) (m : Member) (i : Nat) : State × BufferStep :=
  let who := whoColl m.core
  let va := m.elemAt m.send i
  if !s.openAll who m.ctx (s.engineWalk m.core va) then (s, .error none)
  else
    match s.engineAddr m.core .read va m.esize with
    | (s, .pause) => (s, .error none)
    | (s, .fault c) => (s, .error (some (c, va)))
    | (s, .ok t) =>
      if !t.places.all (s.homeOpen who m.core) then (s, .error none)
      else
        let s := t.places.foldl (fun (s : State) p => s.dropPlace m.core p) s
        if !t.places.all (s.placeOpen who m.core t .read) then (s, .error none)
        else
          match s.readTarget who m.core t with
          | (s, none) => (s, .error (some (0x0D, va)))
          | (s, some bs) => (s, .ok bs)

/-- Read those of some elements of a member's send buffer that can be read: all that has been read then, or a fault. -/
def State.readSends (s : State) (m : Member) (got : Store (List Byte)) :
    List Nat → State × Except (Nat × Word) (Store (List Byte))
  | [] => (s, .ok got)
  | i :: r =>
    match s.readSend m i with
    | (s, .error none) => s.readSends m got r
    | (s, .error (some f)) => (s, .error f)
    | (s, .ok bs) => s.readSends m (put i bs got) r

/-- Write element i of a member's recv buffer at package scope, from the result. -/
def State.writeRecv (s : State) (m : Member) (i : Nat) : State × BufferStep :=
  let va := m.elemAt m.recv i
  match s.engineXlat (whoColl m.core) m.core .write va m.esize with
  | (s, .pause) => (s, .error none)
  | (s, .fault c) => (s, .error (some (c, va)))
  | (s, .ok t) =>
    let bs := ((m.result.getD []).drop (m.esize * i)).take m.esize
    (s.writeThrough (whoColl m.core) m.core t bs, .ok bs)

/-- Write those of some elements of a member's recv buffer that can be written: those that wait, or a fault. -/
def State.writeRecvs (s : State) (m : Member) (waits : List Nat) : List Nat → State × Except (Nat × Word) (List Nat)
  | [] => (s, .ok waits)
  | i :: r =>
    match s.writeRecv m i with
    | (s, .error none) => s.writeRecvs m (waits ++ [i]) r
    | (s, .error (some f)) => (s, .error f)
    | (s, .ok _) => s.writeRecvs m waits r

/-- Write each of some elements of a member's recv buffer or not: a free choice for each (R247; log 8). -/
def State.writeSome (s : State) (m : Member) (l : List Nat) : State :=
  l.foldl (fun (s : State) i =>
    let s' := { s with free := s.free + 1 }
    if Config.freeChoice s.free then (s'.writeRecv m i).1 else s') s

/-- Whether an element does not have to wait. -/
def BufferStep.goes : BufferStep → Bool
  | .error none => false
  | _ => true

/-- The blocks of memory in which the elements of a buffer lie. -/
def State.bufferBlocks (s : State) (m : Member) (k : AccessKind) (buffer : Addr) (n : Nat) : List Nat :=
  ((List.range n).filterMap (fun i => match (s.engineAddr m.core k (m.elemAt buffer i) m.esize).2 with
    | .ok ⟨_, .mem a _ :: _, _, _⟩ => some (a / 16)
    | _ => none)).eraseDups

/-- The blocks of the two buffers that a member's table names. -/
def State.memberBlocks (s : State) (m : Member) : List Nat :=
  s.bufferBlocks m .read m.send m.reads ++ s.bufferBlocks m .write m.recv m.receives

/-- The two buffers are released and acquired: their blocks go home and are dropped from the member's cluster, whose next
loads find what others wrote (R236). -/
def State.syncMember (s : State) (m : Member) : State :=
  (s.memberBlocks m).foldl (fun (s : State) b => s.dropBlock m.core (16 * b)) s

/-! Which calls belong together (R259). -/

/-- What the unit compares between members (R259). -/
structure CollKey where
  op : Nat
  ty : Nat
  n : Nat
  root : Nat
  cnt : Nat
  members : List (Nat × Nat)
  deriving DecidableEq, Repr

/-- The contents of a member's `coll` and group table. -/
def Member.key (m : Member) : CollKey := ⟨m.op, m.ty, m.n, m.root, m.cnt, m.members⟩

/-- The contents as they travel to another module, laid out like a group table (log 24). -/
def CollKey.bytes (k : CollKey) : List Byte :=
  leBytes k.op 2 ++ leBytes k.ty 2 ++ leBytes k.n 4 ++ leBytes k.root 4 ++ leBytes k.cnt 8 ++
    k.members.flatMap (fun x => leBytes x.1 2 ++ leBytes x.2 2)

/-- The contents that have come from another module, once they are whole. -/
def Remote.key (r : Remote) : Option CollKey :=
  let n := fieldAt r.contents 4 4
  if r.contents.length = 20 + 4 * n then
    some ⟨fieldAt r.contents 0 2, fieldAt r.contents 2 2, n, fieldAt r.contents 8 4, fieldAt r.contents 12 8,
      (List.range n).map (fun i => (fieldAt r.contents (20 + 4 * i) 2, fieldAt r.contents (22 + 4 * i) 2))⟩
  else none

/-- The stores a member's core issued before its `coll` have been performed (R236). -/
def State.storesDone (s : State) (m : Member) : Bool :=
  (s.coreAt m.core).stores.all (fun e => match e with
    | .access x => decide (m.bundle ≤ x.bundle)
    | .marker _ _ => true)

/-- The oldest unmatched `coll` of a core of some contents. -/
def State.waitingColl (s : State) (k : CollKey) (core : Nat) : Option Member :=
  s.colls.find? (fun m => m.core == core && m.result.isNone && m.key == k)

/-- Whether a call has come from member x of another module. -/
def Remote.isOf (r : Remote) (x : Nat × Nat) : Bool :=
  r.src == x.2 && (match r.key with
    | some j => j.members[r.index]? == some x
    | none => false)

/-- The oldest call of some contents that has come from member x of another module. -/
def State.remoteCall (s : State) (k : CollKey) (x : Nat × Nat) : Option Remote :=
  s.remote.find? (fun r => r.isOf x && r.key == some k)

/-- The contents of a member's calls that are not matched yet, oldest first. -/
def State.keysOf (s : State) (x : Nat × Nat) : List CollKey :=
  if x.2 = s.moduleNo then (s.colls.filter (fun m => m.core == x.1 && m.result.isNone)).map Member.key
  else (s.remote.filter (fun r => r.isOf x)).filterMap Remote.key

/-- The contents of member x's call that belongs with a member's call: equal ones; where it has none such, the oldest ones that
name this member and that this member has none equal to, if this member's are likewise its oldest (R259, log 85). -/
def State.partnerKey (s : State) (m : Member) (x : Nat × Nat) : Option CollKey :=
  let me := (m.core, s.moduleNo)
  let theirs := s.keysOf x
  let mine := s.keysOf me
  if theirs.contains m.key then some m.key
  else if mine.find? (fun k => k.members.contains x && !theirs.contains k) == some m.key then
    theirs.find? (fun k => k.members.contains me && !mine.contains k)
  else none

/-- The calls of this module that belong with a member's, if each member that its table names has issued one. -/
def State.localMembers (s : State) (m : Member) : Option (List Member) :=
  (m.members.filter (fun x => x.2 == s.moduleNo)).mapM (fun x => (s.partnerKey m x).bind (fun k => s.waitingColl k x.1))

/-- The calls of other modules that belong with a member's, if the contents of each have come. -/
def State.remoteMembers (s : State) (m : Member) : Option (List Remote) :=
  (m.members.filter (fun x => x.2 != s.moduleNo)).mapM (fun x => (s.partnerKey m x).bind (fun k => s.remoteCall k x))

/-- The contents that all others are held against: those of the member that a member's table names first. -/
def State.leadKey (s : State) (m : Member) : CollKey := ((m.members.head?).bind (s.partnerKey m)).getD m.key

/-- The bytes that another module's member i has sent, if all have arrived. -/
def State.remoteBytes (s : State) (m : Member) (i : Nat) : Option (List Byte) :=
  ((m.members[i]?).bind (s.remoteCall m.key)).bind (fun r =>
    if m.esize * m.sends ≤ r.data.length then some (r.data.take (m.esize * m.sends)) else none)

/-- The send bytes of every member, in member order, if all are there. -/
def State.gatherSends (s : State) (m : Member) (locals : List Member) : Option (List (List Byte)) :=
  m.members.zipIdx.mapM (fun p =>
    if m.op = 5 ∧ p.2 ≠ m.root then some []
    else if p.1.2 = s.moduleNo then
      (locals.find? (fun x => x.core == p.1.1)).bind (fun x => if x.unread.isEmpty then some x.sendBytes else none)
    else s.remoteBytes m p.2)

/-- The combine of an operation and type (R258). -/
def collCombine (op ty : Nat) (x y : Nat) : Nat × BitVec 5 :=
  let isMax := op == 1 || op == 4
  match ty with
  | 0 => if isMax then fMinMax f32Format true x y else fAdd f32Format .rne x y
  | 1 => if isMax then fMinMax bf16Format true x y else fAdd bf16Format .rne x y
  | _ => redInt (if isMax then .max else .sum) x y

/-- Element i of a buffer. -/
def bufElem (e : Nat) (bs : List Byte) (i : Nat) : Nat := leValue ((bs.drop (e * i)).take e)

/-- Levels of a tree over n values. -/
def treeLevels (n : Nat) : Nat := if n ≤ 1 then 0 else Nat.log2 (n - 1) + 1

/-- R258: element i reduced over all members. -/
def reduceElem (op ty e n : Nat) (sends : List (List Byte)) (i : Nat) : Nat :=
  ((reduceTree (collCombine op ty) (treeLevels n) (sends.map (fun bs => some (bufElem e bs i)))).1).getD 0

/-- R258: what a member's recv buffer takes. -/
def Member.resultBytes (m : Member) (self : Nat) (sends : List (List Byte)) : List Byte :=
  let e := m.esize
  let elems (f : Nat → Nat) : List Byte := (List.range m.cnt).flatMap (fun i => leBytes (f i) e)
  match m.op with
  | 0 | 1 => elems (fun i => reduceElem m.op m.ty e m.n sends i)
  | 2 => sends.flatten
  | 3 | 4 => elems (fun i => reduceElem m.op m.ty e m.n sends (self * m.cnt + i))
  | _ => sends.getD m.root []

/-- R260: whether byte k of a member's recv buffer also lies in its send buffer, where the overlap is not the legal one in
place. -/
def Member.overlaps (m : Member) (k : Nat) : Bool :=
  !(m.send == m.recv && (m.op == 0 || m.op == 1 || m.op == 5)) &&
    decide (m.send.toNat ≤ m.recv.toNat + k ∧ m.recv.toNat + k < m.send.toNat + m.esize * m.sends)

/-- R260: the bytes the recv buffer takes from byte k on, and the free values used: an overlapping byte ends as the old
send value or the result, by a free choice (log 12). -/
def Member.mixBytes (m : Member) (old : Store (List Byte)) : Nat → Nat → List Byte → List Byte × Nat
  | _, free, [] => ([], free)
  | k, free, b :: r =>
    if m.overlaps k then
      let j := m.recv.toNat + k - m.send.toNat
      let was := ((find? (j / m.esize) old).bind (fun bs => bs[j % m.esize]?)).getD b
      let y := m.mixBytes old (k + 1) (free + 1) r
      ((if Config.freeChoice free then was else b) :: y.1, y.2)
    else
      let y := m.mixBytes old (k + 1) free r
      (b :: y.1, y.2)

/-- Replace a member that waits. -/
def State.setMember (s : State) (old new : Member) : State :=
  { s with colls := s.colls.map (fun m => if m == old then new else m) }
/-- Drop a member. -/
def State.dropMember (s : State) (old : Member) : State := { s with colls := s.colls.filter (fun m => m != old) }
/-- A buffer access of a member ends its phase. -/
def State.failMember (s : State) (m : Member) (f : Nat × Word) : State :=
  (s.dropMember m).reportAt m.core (.fault f.1 7 m.addr f.2 true 0)

/-- The values a member's send buffer holds: those read, and those that a `bcast` does not read. -/
def State.oldSends (s : State) (m : Member) : Store (List Byte) :=
  (List.range m.sends).foldl (fun (st : Store (List Byte)) i =>
    if (find? i st).isSome then st
    else match (s.readSend m i).2 with
      | .ok bs => put i bs st
      | .error _ => st) m.got

/-- Fix what a matched member's recv buffer takes. -/
def State.settleMember (s : State) (sends : List (List Byte)) (m : Member) : State :=
  let y := m.mixBytes (s.oldSends m) 0 s.free (m.resultBytes m.self sends)
  { s.setMember m { m with result := some y.1, left := List.range m.receives } with free := y.2 }

/-- Whether a member has peers on other modules. -/
def State.peersAway (s : State) (m : Member) : Bool := m.members.any (fun x => x.2 != s.moduleNo)

/-- The meters that count what a member sends to other modules: the links to the port's die, and the port (R9, R345). -/
def State.sendMeters (s : State) (m : Member) : List Nat :=
  (if fabricLinks (dieOf m.core) (s.sendPort m.ctx) = 0 then [] else [meterLink]) ++ [meterFabric]

/-- Send the contents of a member's table, and its buffer, to every other module of its group. A message's tag is twice the
member's index, one more for contents (log 24). -/
def State.sendMember (s : State) (m : Member) : State :=
  let bs := m.sendBytes
  let mods := ((m.members.map (fun x => x.2)).filter (fun x => x != s.moduleNo)).eraseDups
  let port := s.sendPort m.ctx
  let part := (s.ctxAt m.ctx).part
  let head := m.key.bytes
  let s := mods.foldl (fun (s : State) d =>
    (s.sendMessage port 1 d part (2 * m.self + 1) (head.length + 1) 0 head).sendMessage port 1 d part (2 * m.self)
      (bs.length + 1) 0 bs) s
  let n := bs.length * mods.length
  let s := s.meterTake (whoColl m.core) m.ctx meterLink (n * fabricLinks (dieOf m.core) port)
  (s.meterTake (whoColl m.core) m.ctx meterFabric n).setMember m { m with sent := true }

/-- What the unit does next for the members that wait. -/
inductive MatchStep where
  | wait
  | read (m : Member)
  | send (m : Member)
  | mismatch (ms : List Member)
  | ready (ms : List Member) (sends : List (List Byte))
  deriving DecidableEq, Repr

/-- Whether an element of a member's send buffer can be read now, or ends its phase. -/
def State.readable (s : State) (m : Member) : Bool :=
  s.storesDone m && m.unread.any (fun i => (s.readSend m i).2.goes)

/-- Whether a member's buffer can go to the other modules now. -/
def State.sendable (s : State) (m : Member) : Bool :=
  !m.sent && s.peersAway m && s.storesDone m && m.unread.isEmpty && (s.sendMeters m).all (s.meterOpen (whoColl m.core) m.ctx)

/-- Read or send a member's buffer. -/
def State.bufferStep (s : State) (m : Member) : MatchStep :=
  if s.readable m then .read m else if s.sendable m then .send m else .wait

/-- What the collective unit does for one waiting member: when its whole group has issued, the calls are compared, the buffers
read and the results fixed; what goes to other modules goes as soon as it can. -/
def State.matchOf (s : State) (m : Member) : MatchStep :=
  if m.result.isSome then .wait
  else
    match s.localMembers m, s.remoteMembers m with
    | some ls, some rs =>
      let lead := s.leadKey m
      let bad := ls.filter (fun x => x.key != lead)
      if !bad.isEmpty then .mismatch bad
      else
        match (if rs.any (fun r => r.key != some lead) then none else s.gatherSends m ls) with
        | some sends => if ls.all (fun x => s.storesDone x && (x.sent || !s.peersAway x)) then .ready ls sends else s.bufferStep m
        | none => s.bufferStep m
    | _, _ => if s.peersAway m then s.bufferStep m else .wait

/-- The first thing that the unit can do. -/
def State.nextMatch (s : State) : MatchStep :=
  (s.colls.findSome? (fun m => match s.matchOf m with | .wait => none | x => some x)).getD .wait

/-- COLLECTIVE_MATCH: read a member's buffer as far as it goes, send it to other modules, fault mismatched members, or fix the
results of a matched group (R258, R259). -/
def execCollectiveMatch (s : State) : Out :=
  match s.nextMatch with
  | .wait => done s
  | .read m =>
    match s.readSends m m.got m.unread with
    | (s, .ok got) => done (s.setMember m { m with got := got })
    | (s, .error f) => done (s.failMember m f)
  | .send m => done (s.sendMember m)
  | .mismatch ms =>
    done (ms.foldl (fun (s : State) m => (s.dropMember m).reportAt m.core (.fault 0x06 7 m.addr 0 false 0)) s)
  | .ready ms sends =>
    let used := ((ms.head?).bind s.remoteMembers).getD []
    let s := ms.foldl (fun (s : State) m => s.settleMember sends m) s
    done { s with remote := used.foldl List.erase s.remote }

/-- Whether the recv buffer of a matched member can go on, or, written whole, be acquired. -/
def State.completable (s : State) (m : Member) : Bool :=
  m.result.isSome &&
    (if m.left.isEmpty then (s.memberBlocks m).all (s.blockOpen (whoColl m.core) (clusterOf m.core))
    else m.left.any (fun i => (s.writeRecv m i).2.goes))

/-- COLLECTIVE_COMPLETION: a matched member's recv buffer is written at fabric scope, as far as it goes; when all of it is
written the buffers are acquired and its barrier is told (R236, R261). -/
def execCollectiveCompletion (s : State) : Out :=
  match s.colls.find? s.completable with
  | none => done s
  | some m =>
    if m.left.isEmpty then
      let s := (s.dropMember m).syncMember m
      done (s.modCoreAt m.core (fun c =>
        { c with eng := { c.eng with contribs := c.eng.contribs ++ [(m.bar, (m.result.getD []).length, true)] } }))
    else
      match s.writeRecvs m [] m.left with
      | (s, .ok left) => done (s.setMember m { m with left := left })
      | (_, .error f) => done ((s.writeSome m m.left).failMember m f)

/-! Requests that only meters hold up (R345). -/

/-- The meters that hold the reading of an element of a member's send buffer up. -/
def State.readHeld (s : State) (m : Member) (i : Nat) : List Nat :=
  let who := whoColl m.core
  let home := match (s.engineAddr m.core .read (m.elemAt m.send i) m.esize).2 with
    | .ok t => t.places.flatMap (fun p => match p with
      | .mem a _ => s.closedAt who (s.clusterCtx (clusterOf m.core)) (s.blockCosts (clusterOf m.core) (a / 16))
      | .bank _ => [])
    | _ => []
  home ++ s.engineMeters who m.core .read (m.elemAt m.send i) m.esize

/-- The requests of a core's collectives that wait for tokens: requester and meter. -/
def State.collHeld (s : State) (core : Nat) : List (Nat × Nat) :=
  let who := whoColl core
  let blocks (m : Member) : List Nat := (s.memberBlocks m).flatMap (fun b =>
    s.closedAt who (s.clusterCtx (clusterOf core)) (s.blockCosts (clusterOf core) b))
  (s.colls.filter (fun m => m.core == core)).flatMap (fun m =>
    let closed := match m.result with
      | some _ =>
        if m.left.isEmpty then blocks m
        else m.left.flatMap (fun i => s.engineMeters who core .write (m.elemAt m.recv i) m.esize)
      | none =>
        if !m.unread.isEmpty then (if s.storesDone m then m.unread.flatMap (s.readHeld m) else [])
        else if !m.sent && s.peersAway m then (s.sendMeters m).filter (fun r => !s.meterOpen who m.ctx r)
        else []
    closed.map (fun r => (who, r)))

end Sys2Proof.Machine
end

