-- ==== Sys2Proof/Machine/Firmware.lean ====
section
/-! DEFINITION. The firmware context (R265 to R289, R310): the flight record, activation, the state space, and the
privileged instructions. -/

namespace Sys2Proof.Machine

/-! The state space (R277). -/

/-- The words of a loop level: its body and its flags. -/
def LoopLevel.packed (l : LoopLevel) : Word :=
  wordOf (l.first.toNat + place ((l.len - 1) % 256) 48 + place ((l.stages - 1) % 8) 56 + place l.rot.toNat 59 +
    place l.bbadv.toNat 60 + place l.active.toNat 61)

/-- A level whose words have been changed counts its iterations from its count, as in pass 0; with its words as they were
it goes on as it was (log 67). -/
def LoopLevel.recount (old new : LoopLevel) : LoopLevel :=
  if new.count = old.count ∧ new.packed = old.packed then { new with firstPos := old.firstPos }
  else { new with iters := new.count + 1 - BitVec.ofNat 33 new.stages }

/-- Write that word. -/
def LoopLevel.unpack (l : LoopLevel) (x : Word) : LoopLevel :=
  l.recount { l with first := x.setWidth 48, firstPos := none, len := bits x 55 48 + 1, stages := bits x 58 56 + 1,
                     rot := x.getLsbD 59, bbadv := x.getLsbD 60, active := x.getLsbD 61 }

/-- Write the count. -/
def LoopLevel.setCount (l : LoopLevel) (x : Word) : LoopLevel :=
  l.recount { l with count := x.setWidth 33 }

/-- The address of bundle F. -/
def Core.fAddr (c : Core) : Addr := c.flight.bundleF

/-- The numbers of the control registers of words 0x0890 to 0x08AF. -/
def csrOfWord (i : Nat) : Option Nat :=
  if i ≤ 0x0893 then some (i - 0x0890 + 1)
  else if i ≤ 0x0897 then some (i - 0x0894 + 0x010)
  else if i = 0x0898 then some 0x005
  else if i = 0x0899 then some 0x006
  else if 0x08A0 ≤ i ∧ i ≤ 0x08AF then some (i - 0x08A0 + 0x020)
  else none

/-- Whether the words of timed tasks are held: not by a free task; a core without a task holds them for the task that is
to resume on it (R288, R319). -/
def Task.timedWords (t : Task) : Bool := t.timed || t.status == .idle

/-- Words of timed tasks (R319). -/
def Task.word (t : Task) (i : Nat) : Word :=
  if !t.timedWords then 0
  else match i with
    | 0 => t.start
    | 1 => wordOf (t.index.toNat + place t.ccount.toNat 32)
    | _ => t.cadence.setWidth 64

/-- Read a word. Reserved indices read 0. -/
def Core.readSpace (c : Core) (n : Word) : Word :=
  let i := n.toNat
  if i < 0x0040 then c.regs.readA i
  else if i < 0x0840 then
    let r := (i - 0x0040) / 32
    if r < 56 then (elem (c.regs.readV r) 64 ((i - 0x0040) % 32)) else 0
  else if i < 0x0848 then c.regs.readK (i - 0x0840)
  else if i < 0x0868 then
    let l := 2 * (i - 0x0848)
    wordOf ((flagsOfLane c.regs.vflags l).toNat + place (flagsOfLane c.regs.vflags (l + 1)).toNat 32)
  else if i < 0x0870 then
    let l := c.loops.level ((i - 0x0868) / 2)
    if (i - 0x0868) % 2 = 0 then l.count.setWidth 64 else l.packed
  else if i = 0x0870 then c.regs.rb.setWidth 64
  else if i = 0x0871 then c.fAddr.setWidth 64
  else if i = 0x0872 then c.task.safeCount.setWidth 64
  else if i = 0x0873 then wordOf c.flight.count
  else if i < 0x0878 then find 0 (i - 0x0874) c.flight.fault
  else if i < 0x087C then wordOf (find 0 (i - 0x0878) c.loops.notStarted)
  else if i < 0x0880 then (c.loops.level (i - 0x087C)).version.setWidth 64
  else if i < 0x0883 then c.task.word (i - 0x0880)
  else if i = 0x0884 then c.flight.xferCount.setWidth 64
  else if i = 0x0885 then c.flight.xfer0
  else if i = 0x0886 then c.flight.xfer1
  else if 0x0890 ≤ i ∧ i ≤ 0x08AF then
    match csrOfWord i with
    | some k => c.regs.readCsr k
    | none => 0
  else if 0x1000 ≤ i ∧ i < 0x4000 then find 0 (i - 0x1000) c.flight.words
  else 0

/-- Put five flag bits into a lane. -/
def setLaneFlags (f : FlagVec) (l : Nat) (x : BitVec 5) : FlagVec :=
  (f &&& ~~~((31 : FlagVec) <<< (5 * l))) ||| (x.setWidth 320 <<< (5 * l))

/-- Write a loop level's word, keeping the order of setting up: a level made active is the latest. -/
def Loops.writeWord (l : Loops) (n : Nat) (x : Word) : Loops :=
  let new := (l.level n).unpack x
  let order := l.order.filter (· != n)
  { l.setLevel n new with order := if !new.active then order else if (l.level n).active then l.order else n :: order }

/-- Write a word. Reserved indices and fields discard the write; `ctl.task` and `ctl.launch` hold 48 bits (R43, R45). -/
def Core.writeSpace (c : Core) (n x : Word) : Core :=
  let i := n.toNat
  if i < 0x0040 then { c with regs := c.regs.writeA i x }
  else if i < 0x0840 then
    let r := (i - 0x0040) / 32
    let w := (i - 0x0040) % 32
    let v := mergeVec (c.regs.readV r) (x.setWidth 2048 <<< (64 * w)) (scalarBits <<< (64 * w))
    if r < 56 then { c with regs := c.regs.writeV r v } else c
  else if i < 0x0848 then { c with regs := c.regs.writeK (i - 0x0840) x }
  else if i < 0x0868 then
    let l := 2 * (i - 0x0848)
    { c with regs := { c.regs with
        vflags := setLaneFlags (setLaneFlags c.regs.vflags l (x.setWidth 5)) (l + 1) (x.extractLsb' 32 5) } }
  else if i < 0x0870 then
    let k := (i - 0x0868) / 2
    if (i - 0x0868) % 2 = 0 then
      { c with loops := c.loops.setLevel k ((c.loops.level k).setCount x) }
    else { c with loops := c.loops.writeWord k x }
  else if i = 0x0870 then { c with regs := { c.regs with rb := x.setWidth 4 } }
  else if i = 0x0871 then { c with flight := { c.flight with bundleF := x.setWidth 48 } }
  else if i = 0x0872 then { c with task := { c.task with safeCount := x.setWidth 16 } }
  else if i = 0x0873 then { c with flight := { c.flight with count := min 96 (bits x 6 0) } }
  else if i < 0x0878 then c
  else if i < 0x087C then { c with loops := { c.loops with notStarted := put (i - 0x0878) x.toNat c.loops.notStarted } }
  else if i < 0x0880 then
    let k := i - 0x087C
    { c with loops := c.loops.setLevel k { c.loops.level k with version := x.setWidth 32 } }
  else if i < 0x0883 then
    if !c.task.timedWords then c
    else if i = 0x0880 then { c with task := { c.task with start := x } }
    else if i = 0x0881 then { c with task := { c.task with index := x.setWidth 32, ccount := x.extractLsb' 32 17 } }
    else { c with task := { c.task with cadence := x.setWidth 17 } }
  else if i = 0x0884 then { c with flight := { c.flight with xferCount := x.setWidth 2 } }
  else if i = 0x0885 then { c with flight := { c.flight with xfer0 := x } }
  else if i = 0x0886 then { c with flight := { c.flight with xfer1 := x } }
  else if 0x0890 ≤ i ∧ i ≤ 0x08AF then
    match csrOfWord i with
    | some k => if k = 0x005 ∨ k = 0x006 then { c with regs := c.regs.writeCsr k (x &&& 0xFFFFFFFFFFFF) }
      else { c with regs := c.regs.writeCsr k x }
    | none => c
  else if 0x1000 ≤ i ∧ i < 0x4000 then
    let e := (i - 0x1000) / 128
    let info := match find? e c.flight.info with
      | some m => put e { m with guarded := false } c.flight.info
      | none => c.flight.info
    { c with flight := { c.flight with words := put (i - 0x1000) x c.flight.words, info := info } }
  else c

/-! The flight record (R269 to R272). -/

/-- The file and number of a destination in word 1; the numbers of file 3 are the model's (log 17). -/
def destCode : Dest → Nat
  | .a n => n
  | .v n => if n < 56 then n + 64 else n + 192
  | .k n => n + 128
  | .csr n => (n - 0x010) % 4 + 192
  | .trellis t b => 8 * t + b + 192
  | .f n => n
  | .none => 0

/-- The destination of word 1. -/
def destOfCode (w1 : Word) : Dest :=
  if w1.getLsbD 8 then .none
  else
    let n := bits w1 5 0
    match bits w1 7 6 with
    | 0 => .a n
    | 1 => .v n
    | 2 => .k n
    | _ => if n < 4 then .csr (0x010 + n) else if n < 56 then .trellis (n / 8) (n % 8) else .v n

/-- The 64-bit words of a register, from a place. -/
def vecWords (base at_ : Nat) (v : Vec) : List (Nat × Word) := (List.range 32).map (fun i => (base + at_ + i, elem v 64 i))

/-- Word 0 of an entry. -/
def entryWord0 (op : Slot) (slot r kind l : Nat) : Word :=
  wordOf (op.toNat + place (slot % 8) 30 + place (r % 256) 40 + place kind 48 + place (l % 64) 50)

/-- An entry of the record: its sequence number, its words from place base, and what the core keeps beside it. -/
structure FlightEntry where
  seq : Nat
  words : Nat → List (Nat × Word)
  info : FlightMeta

/-- The words of an access that is to be made again. -/
def accessWords (x : Access) (rm : Word) (base : Nat) : List (Nat × Word) :=
  [(base + 2, x.ops.base), (base + 3, x.ops.t), (base + 4, x.ops.data)] ++ vecWords base 40 x.ops.vidx ++
    vecWords base 72 x.ops.vdata ++ [(base + 104, x.ops.mask), (base + 105, rm)]

/-- The mask and the rounding mode that an operation read, as words 104 and 105; `k0` where it names no mask. -/
def IssueReads.modeWords (r : IssueReads) (base : Nat) : List (Nat × Word) :=
  [(base + 104, ((r.k.head?).map (fun p => p.2)).getD (BitVec.allOnes 64)), (base + 105, r.rm)]

/-- The words of what an operation read: scalars from word 2, vectors vs, vt and vd from words 8, 40 and 72 (R271). -/
def IssueReads.words (r : IssueReads) (base : Nat) : List (Nat × Word) :=
  (r.a.take 3).zipIdx.map (fun p => (base + 2 + p.2, p.1.2)) ++
    (r.v.take 3).zipIdx.flatMap (fun p => vecWords base (8 + 32 * p.2) p.1.2) ++ r.modeWords base

/-- The operation of a slot word. -/
def Pending.instr (p : Pending) : Option Instr := (decodeSlot p.slot p.word).toOption

/-- Whether a result is to be computed again when the core stops before tick t: its operation is not complete, and a
record holds what it read (R269, log 65). -/
def Pending.unfinished (p : Pending) (t : Nat) : Bool := decide (t ≤ p.readyTick) && (p.instr.map reissuable).getD false

/-- Words 0 and 1 of the entry of a result for F = bundle b, with its remaining count R = D - F + 1 (R269); a result past
its landing on an interlocked page counts as due with F (log 65). -/
def Pending.header (p : Pending) (b kind base : Nat) : List (Nat × Word) :=
  [(base, entryWord0 p.word p.slot (max 1 (p.due + 1 - b)) kind p.lat), (base + 1, wordOf (destCode p.dest))]

/-- What the core keeps beside the entry of a result. -/
def Pending.kept (p : Pending) (acc : Option Access) : FlightMeta :=
  ⟨p.flags, p.guarded, p.interlocked, acc, p.en, p.dest, p.read, p.addr⟩

/-- The entry of an operation that is to be computed again. -/
def Pending.againEntry (p : Pending) (b : Nat) : FlightEntry :=
  { seq := p.seq, words := fun base => p.header b 0 base ++ p.read.words base, info := p.kept none }

/-- The words of a value. -/
def Pending.valueWords (p : Pending) (base : Nat) : List (Nat × Word) :=
  (match p.dest with
   | .v _ | .trellis _ _ => vecWords base 8 p.value
   | _ => [(base + 2, p.value.setWidth 64)]) ++ p.read.modeWords base

/-- The entry of a result in flight, for F = bundle b at tick t: the access that is to be made again, the operation that
is to be computed again, or the value (R269). -/
def Pending.entry (p : Pending) (m : CoreMem) (b t : Nat) : FlightEntry :=
  match m.heldAccess p.seq with
  | some x => { seq := p.seq, words := fun base => p.header b 0 base ++ accessWords x p.read.rm base, info := p.kept (some x) }
  | none =>
    if p.unfinished t then p.againEntry b
    else { seq := p.seq, words := fun base => p.header b 1 base ++ p.valueWords base, info := p.kept none }

/-- The entry of a store or reduction that has not been sent. -/
def Access.entry (x : Access) (rm : Word) : FlightEntry :=
  { seq := x.seq
    words := fun base => [(base, entryWord0 x.word x.slot 1 0 1), (base + 1, wordOf (place 1 8))] ++ accessWords x rm base
    info := ⟨0, false, false, some x, 0, .none, IssueReads.none, x.addr⟩ }

/-- The entry of a press sequence whose beats remain: the next plane and the beats left. -/
def Press.entry (p : Press) (seq b : Nat) : List FlightEntry :=
  let left := p.beatsFrom b
  if left = 0 then []
  else
    [{ seq := seq
       words := fun base => [(base, entryWord0 p.seqWord 7 left 2 1), (base + 1, wordOf (place 1 8)),
         (base + 2, wordOf (b - p.seqStart)), (base + 3, wordOf left)]
       info := ⟨0, false, false, none, 0, .none, IssueReads.none, 0⟩ }]

/-- Put an entry into a list in issue order. -/
def insertEntry (e : FlightEntry) : List FlightEntry → List FlightEntry
  | [] => [e]
  | x :: r => if e.seq < x.seq then e :: x :: r else x :: insertEntry e r

/-- The entries of a record at F = bundle b, made at tick t. -/
def Core.entries (c : Core) (b t : Nat) : List FlightEntry :=
  let ps := c.flow.pend.map (fun p => p.entry c.mem b t)
  let again := c.flow.again.map (fun g => g.entry.againEntry b)
  let ss := ((c.mem.held c.mem.storeQ).filter (fun x => !c.flow.pend.any (fun p => p.seq == x.seq))).map
    (fun x => x.entry (c.regs.readCsr 0x001))
  (ps ++ again ++ ss).foldl (fun l e => insertEntry e l) [] ++ c.press.entry c.issue.seq b

/-- A pending transfer as a word (R272). -/
def Xfer.word (x : Xfer) : Word := wordOf (x.target.toNat + place x.countdown 48)

/-- Whether the record takes an entry out of its queue: it is held up, and of the user context (R269). -/
def CoreMem.takes (m : CoreMem) (e : QueueEntry) : Bool :=
  m.heldKeys.contains e.key && (match e with
    | .access x => !x.physical
    | .marker _ _ => true)

/-- Make the flight record of a trap (R269, R272), at tick t. -/
def Core.record (c : Core) (t : Nat) : Core :=
  let es := c.entries c.flow.bundleNo t
  let ws := (es.zipIdx.flatMap (fun p => p.1.words (128 * p.2))).foldl (fun st w => put w.1 w.2 st) ([] : Store Word)
  let xs := c.flow.xfers
  { c with
    flight := { c.flight with
      words := ws
      count := es.length
      info := es.zipIdx.map (fun p => (p.2, p.1.info))
      xferCount := BitVec.ofNat 2 xs.length
      xfer0 := (xs[0]?.map Xfer.word).getD 0
      xfer1 := (xs[1]?.map Xfer.word).getD 0
      queueL := c.mem.loadQ.filter c.mem.takes
      queueS := c.mem.storeQ.filter c.mem.takes }
    press := { c.press with seqBeats := 0 }
    flow := { c.flow with pend := [], again := [], xfers := [] }
    mem := { c.mem with loadQ := c.mem.loadQ.filter (fun e => !c.mem.takes e)
                        storeQ := c.mem.storeQ.filter (fun e => !c.mem.takes e) } }

/-- Name bundle F: its address, and its place where it has one (R277, R297). -/
def Core.nameF (c : Core) : Core :=
  { c with
    flight := { c.flight with bundleF := c.flow.nextAddr }
    fw := { c.fw with posF := if c.flow.goto.isSome then none else some c.flow.pos } }

/-- Name bundle F for an event. A pre-empted task goes on in the version that is current then, so no place is kept
(R297). -/
def Core.nameFor (c : Core) (e : FwEvent) : Core :=
  let c := c.nameF
  if e.cause = 0x10 then { c with fw := { c.fw with posF := none } } else c

/-! Activation (R274, R275). -/

/-- Whether an event is a recoverable trap. -/
def FwEvent.isTrap (e : FwEvent) : Bool := decide (1 ≤ e.cause) && decide (e.cause ≤ 5)

/-- A trap joins the events that wait, before a pre-emption among them, which would release the task (R269). -/
def insertTrap (e : FwEvent) (q : List FwEvent) : List FwEvent :=
  q.takeWhile (fun x => x.cause != 0x10) ++ [e] ++ q.dropWhile (fun x => x.cause != 0x10)

/-- Whether a trap may make the flight record: an exclusive activation, or a trap whose event waits, has it until then (R269,
R280). -/
def Core.recordFree (c : Core) : Bool := c.fw.mode != .exclusive && !c.fw.queue.any FwEvent.isTrap

/-- Whether an event's activation is exclusive. -/
def FwEvent.exclusive (e : FwEvent) : Bool := decide (e.cause ≤ 0x05) || e.cause == 0x10

/-- The share of background bundles. -/
def Core.share (c : Core) : Nat := bits (c.regs.readCsr 0x103) 10 0

/-- Whether an event waits that can be served: with a share of 0, background events wait for an exclusive one. -/
def Core.eventDue (c : Core) : Bool :=
  c.fw.mode == .idle && !c.fw.queue.isEmpty && (decide (0 < c.share) || c.fw.queue.any FwEvent.exclusive)

/-- Whether the user context is stopped for the firmware: exclusive mode, or an exclusive event that waits. -/
def Core.fwHolds (c : Core) : Bool := c.fw.mode == .exclusive || c.fw.queue.any FwEvent.exclusive

/-- Start the activation of the oldest event at tick t: offset 0, with the cause and the slot in f31, the address of F in f30
and the access address in f29. What is in flight when a timed task is pre-empted in its `align` bundle is recorded (R288). -/
def Core.activate (c : Core) (t : Nat) : Core :=
  match c.fw.queue with
  | [] => c
  | e :: r =>
    let c := (if e.cause = 0x10 then c.record t else c).nameFor e
    let f := put 29 e.f29 (put 30 e.f30 (put 31 (wordOf (e.cause % 256 + place e.slot 8)) c.fw.f))
    { c with fw := { c.fw with
        f := f, mode := if e.exclusive || c.share == 0 then .exclusive else .background, pc := 0, xfers := [], queue := r
        event := some e } }

/-- The finding of a core is consumed: the oldest watch match that waited behind it is the next (R280). -/
def Flow.nextFinding (f : Flow) : Flow := { f with finding := f.matched.head?, matched := f.matched.tail }

/-- FIRMWARE_ACTIVATION: a request of the control cores joins the events (cause 0x12); a trap makes the flight record, where
that is free, and joins them; the oldest event starts when the firmware is free. -/
def execFirmwareActivation (s : State) : Out :=
  let s := match s.req with
    | some (.firmwareRequest core) =>
      let e : FwEvent := ⟨0x12, 0, (s.coreAt core).flow.nextAddr.setWidth 64, 0⟩
      let s := s.modCoreAt core (fun c => { c with fw := { c.fw with queue := c.fw.queue ++ [e] } })
      { s with req := none, cur := core }
    | _ => s
  let s := match s.core.flow.finding with
    | some (.trap cause slot va) =>
      if !s.core.recordFree then s
      else s.modCore (fun c =>
        let c := ((c.failWaiting (s.waitsForSwitch s.cur)).record s.tick).nameF
        let e : FwEvent := ⟨cause, slot, c.fAddr.setWidth 64, va⟩
        { c with flow := c.flow.nextFinding, fw := { c.fw with queue := insertTrap e c.fw.queue } })
    | _ => s
  done (if s.core.eventDue then s.modCore (fun c => c.activate s.tick) else s)

/-- FWSHARE_WINDOW: an aligned window of 1,024 ticks begins (R275). -/
def execFwshareWindow (s : State) : Out :=
  done { s with cores := s.cores.map (fun p => (p.1, { p.2 with fw := { p.2.fw with shareUsed := 0 } })) }

/-! Ending an activation (R270, R287, R289). -/

/-- Land a firmware result. -/
def Core.landFw (c : Core) (p : Pending) : Core :=
  match p.dest with
  | .f n => if n = 0 then c else { c with fw := { c.fw with f := put n (p.value.setWidth 64) c.fw.f } }
  | .csr n => c.writeCsr n (p.value.setWidth 64)
  | _ => c

/-- Put a firmware result in issue order of slots. -/
def insertPending (p : Pending) : List Pending → List Pending
  | [] => [p]
  | q :: r => if p.slot < q.slot ∨ (p.slot = q.slot ∧ p.seq < q.seq) then p :: q :: r else q :: insertPending p r

/-- Results in order of slot, then of issue: the last one wins (R47). -/
def bySlot (l : List Pending) : List Pending := l.foldl (fun acc p => insertPending p acc) []

/-- End the activation: the results of the firmware still in flight land. -/
def Core.endActivation (c : Core) : Core :=
  let c := (bySlot c.fw.pend).foldl Core.landFw c
  { c with fw := { c.fw with mode := .idle, pend := [], xfers := [], event := none, bmaps := [] } }

/-- The segment copy that an activation for cause 0x11 starts at its end (R304, log 18). -/
def Core.startSegment (c : Core) : Core :=
  match c.fw.segment with
  | some k => { c with mem := { c.mem with segCopy := some k }, fw := { c.fw with segment := none } }
  | none => c

/-- End the activation of the acting core: the entries that `bmap` wrote stand in the context's barrier table from now on
(R289). -/
def State.endActivation (s : State) : State :=
  let ws := s.core.fw.bmaps
  let walked := (s.core.fw.event.map (fun e => e.cause)) == some 0x11
  let s := if ws.isEmpty then s
    else s.modCtxAt s.core.ctxId (fun c => { c with btab := ws.foldl (fun st w => put w.1 w.2 st) c.btab })
  s.modCore (fun c => (if walked then c.startSegment else c).endActivation)

/-- The steering mask of an entry as bits of a destination. -/
def maskBits (w1 mask : Word) : Vec :=
  if bits w1 7 6 = 1 then elemMask 32 (fun j => mask.getLsbD j) 64 else scalarBits

/-- Word k of entry i. -/
def Flight.word (f : Flight) (i k : Nat) : Word := find 0 (128 * i + k) f.words

/-- The vector of entry i from word k. -/
def Flight.vector (f : Flight) (i k : Nat) : Vec := vecOf 64 (fun j => f.word i (k + j)) 32

/-- The access of entry i, with its operands from the words, and with the place in program order that it had. -/
def Flight.accessOf (f : Flight) (i slot bundle seq : Nat) (word : Slot) (op : Instr) : Option Access :=
  let old := (find? i f.info).bind (fun x => x.access)
  let o : MemOperands := ⟨f.word i 2, f.word i 3, f.word i 4, f.vector i 72, f.vector i 40, f.word i 104⟩
  let u := memUse op
  if u.1 || u.2 then
    some { slot := slot, seq := seq, instr := op, word := word, ops := o
           addr := (old.map (fun x => x.addr)).getD f.bundleF, bundle := (old.map (fun x => x.bundle)).getD bundle
           elems := opElems op o, targets := none, physical := false, bounced := false, failed := false
           asked := (old.map (fun x => x.asked)).getD 0 }
  else none

/-- What the operation of entry i is computed again from (R270, R271). -/
def Flight.readOf (f : Flight) (i : Nat) (op : Instr) : IssueReads where
  a := ((reads op).filterMap (fun n => match n with
    | .a k => some (k % 64)
    | _ => none)).zipIdx.map (fun p => (p.1, f.word i (2 + p.2)))
  v := ((reads op).filterMap (fun n => match n with
    | .v k => some k
    | _ => none)).zipIdx.map (fun p => (p.1, f.vector i (8 + 32 * p.2)))
  k := (reads op).filterMap (fun n => match n with
    | .k k => some (k, f.word i 104)
    | _ => none)
  rm := f.word i 105

/-- The result of entry i, to be issued again at bundle b and tick t with number seq: without its value. -/
def Flight.result (f : Flight) (i b t seq : Nat) : Pending :=
  let w0 := f.word i 0
  let w1 := f.word i 1
  let m := find? i f.info
  let r := bits w0 47 40
  { slot := bits w0 32 30, seq := seq
    dest := match m with
      | some x => if destCode x.dest = bits w1 7 0 then x.dest else destOfCode w1
      | none => destOfCode w1
    value := 0, en := (m.map (fun x => x.en)).getD (maskBits w1 (f.word i 104)), flags := (m.map (fun x => x.flags)).getD 0
    due := b + r - 1, ready := false, readyTick := t, vintTick := t + r - 1
    interlocked := (m.map (fun x => x.interlocked)).getD false, guarded := (m.map (fun x => x.guarded)).getD false
    word := BitVec.ofNat 30 (bits w0 29 0), lat := bits w0 55 50, read := (m.map (fun x => x.read)).getD IssueReads.none
    addr := (m.map (fun x => x.addr)).getD f.bundleF }

/-- The value of an entry of kind 1. -/
def Flight.valueOf (f : Flight) (i : Nat) : Vec :=
  let w1 := f.word i 1
  if bits w1 7 6 = 1 ∨ (bits w1 7 6 = 3 ∧ 4 ≤ bits w1 5 0) then f.vector i 8 else (f.word i 2).setWidth 2048

/-- Put a result in flight. -/
def Core.putPending (c : Core) (p : Pending) : Core := { c with flow := { c.flow with pend := c.flow.pend ++ [p] } }

/-- Issue entry i again at tick t (R270): the core, and the access that is to be made again. An operation that is not an
access is issued again at resumed bundle R - L, or at resumption when that has passed. -/
def Core.reissue (c : Core) (i t : Nat) : Core × Option Access :=
  let f := c.flight
  let b := c.flow.bundleNo
  let seq := c.issue.seq
  let c := { c with issue := { c.issue with seq := seq + 1 } }
  let p := f.result i b t seq
  match bits (f.word i 0) 49 48 with
  | 2 =>
    let plane := (f.word i 2).toNat
    ({ c with press := { c.press with seqStart := b - plane, seqBeats := plane + (f.word i 3).toNat, seqWord := p.word } }, none)
  | 0 =>
    match p.instr with
    | none => (c, none)
    | some op =>
      match f.accessOf i p.slot (b - 1) seq p.word op with
      | some x => (if (f.word i 1).getLsbD 8 then c else c.putPending p, some x)
      | none =>
        let g : Again := ⟨{ p with read := f.readOf i op }, b + (p.due + 1 - b - p.lat)⟩
        ({ c with flow := { c.flow with again := c.flow.again ++ [g] } }, none)
  | _ => (c.putPending { p with value := f.valueOf i, ready := true }, none)

/-- Issue the entries again: the core, and by entry the accesses that are to be made again. -/
def Core.reissueAll (c : Core) (t : Nat) : Core × List (Nat × Access) :=
  (List.range c.flight.count).foldl
    (fun (r : Core × List (Nat × Access)) i =>
      match r.1.reissue i t with
      | (c, some x) => (c, r.2 ++ [(i, x)])
      | (c, none) => (c, r.2)) (c, [])

/-- The entry of the record that an access of a queue became. -/
def Flight.entryOf (f : Flight) (x : Access) : Option Nat :=
  (f.info.find? (fun e => (e.2.access.map (fun y => y.seq)) == some x.seq)).map (fun e => e.1)

/-- A queue again: the entries that the record took out of it, each access made again in its place, then accesses that
the record gained since. -/
def Flight.requeue (f : Flight) (made : List (Nat × Access)) (loads : Bool) : List QueueEntry :=
  let q := if loads then f.queueL else f.queueS
  let named := (f.queueL ++ f.queueS).filterMap (fun e => (entryAccess e).bind f.entryOf)
  q.filterMap (fun e => match e with
    | .marker c b => some (.marker c b)
    | .access x => ((f.entryOf x).bind (fun i => numbered made i)).map .access) ++
  (made.filter (fun p => !named.contains p.1 && (p.2.slot == 3) == loads)).map (fun p => .access p.2)

/-- The place of a level's first body bundle in its recorded version, when that is the racked version of a place
(R313). -/
def LoopLevel.placeIn (l : LoopLevel) (v : Version) : Option Pos :=
  match v.treat with
  | .racked _ _ _ _ _ _ =>
    if l.version = v.number ∧ l.first.toNat / 4096 * 4096 = v.page.toNat then v.enter (l.first.toNat / 32 % 128) else none
  | _ => none

/-- Active levels that have been restored find their place in the version that is entered (R313). -/
def Loops.placeIn (l : Loops) (v : Version) : Loops :=
  { l with levels := l.levels.map (fun p => if p.2.active && p.2.firstPos.isNone then (p.1, { p.2 with firstPos := p.2.placeIn v }) else p) }

/-- Set up again a level that a drain has ended with iterations not started (R287). -/
def Core.setUpDrained (c : Core) (n : Nat) : Core :=
  let l := c.loops.level n
  let left := find 0 n c.loops.notStarted
  let loops := { c.loops with notStarted := drop n c.loops.notStarted }
  if left = 0 ∨ l.active then c
  else
    { c with
      regs := if l.rot then { c.regs with rb := c.regs.rb + BitVec.ofNat 4 (l.stages - 1) } else c.regs
      loops := { loops.setLevel n
          { l with active := true, count := BitVec.ofNat 33 (left + l.stages - 1), iters := BitVec.ofNat 33 left,
                   drained := false } with
        order := n :: loops.order.filter (· != n) } }

/-- Whether a drained level is set up again with bundle F (R287). -/
def Core.setsUpAtF (c : Core) (n : Nat) : Bool :=
  (c.loops.level n).first == c.flight.bundleF && find 0 n c.loops.notStarted != 0 && !(c.loops.level n).active

/-- A pending transfer from its word. -/
def xferOf (x : Word) : Xfer := ⟨bits x 49 48, x.setWidth 48, none⟩

/-- The user context goes on at bundle F (R270, R272, R287, R297). A level that is set up again there goes on in its recorded
version; another restored level finds its place there again when that version is resident or is entered with F (R313). -/
def Core.resumeUser (c : Core) (tick : Nat) : Core :=
  let (c, made) := c.reissueAll tick
  let again := (List.range 4).filter c.setsUpAtF
  let body := again.findSome? (fun n => (c.loops.level n).firstPos.filter (fun p => p.addr == c.flight.bundleF))
  let c := again.foldl Core.setUpDrained c
  let f := c.flight
  let xs := ([f.xfer0, f.xfer1].take f.xferCount.toNat).map xferOf
  let there : Option Pos := match c.fw.posF with
    | some p => if p.addr = f.bundleF then some p else body
    | none => body
  { c with
    loops := c.mem.resident.foldl Loops.placeIn c.loops
    mem := { c.mem with loadQ := c.mem.loadQ ++ f.requeue made true, storeQ := c.mem.storeQ ++ f.requeue made false }
    flow := { c.flow with
      xfers := c.flow.xfers ++ xs
      pos := there.getD c.flow.pos
      goto := if there.isSome then none else some f.bundleF }
    flight := { f with words := [], count := 0, info := [], xferCount := 0, xfer0 := 0, xfer1 := 0, queueL := [], queueS := [] } }

/-! Pre-empted tasks (R118, R251, R254, R284, R286, R288). -/

/-- The states of the barriers that the valid entries of a context's table name, by handle (R254). -/
def State.tableBarriers (s : State) : List (Nat × Barrier) :=
  (s.ctxAt s.core.ctxId).btab.filterMap (fun e =>
    if e.2.getLsbD 10 then some (e.1, s.core.eng.barrier (bits e.2 9 0)) else none)

/-- What is saved of the acting core's task. -/
def State.savedTask (s : State) : SavedTask :=
  let c := s.core
  { ctx := c.ctxId, coord := c.regs.readCsr 0x005, parm := c.regs.readCsr 0x006, core := s.cur, task := c.task
    press := c.press, trellis := c.regs.trellis, seqLevels := c.eng.seqLevels, nests := c.eng.nests
    barriers := s.tableBarriers, levels := c.loops.levels, lastDeparture := c.eng.lastDeparture
    setupSkip := c.issue.setupSkip, draining := c.eng.draining, matched := c.flow.finding.toList ++ c.flow.matched }

/-! The banks of pre-empted tasks (R284, R286, log 64). -/

/-- The launches of a context that pre-empted tasks have left on a cluster, and none of whose tasks runs there. -/
def State.launchesGone (s : State) (ctx cl : Nat) : List Nat :=
  let left := (s.fe.preempted.filter (fun p => p.ctx == ctx && clusterOf p.core == cl)).map (fun p => p.task.launch)
  left.eraseDups.filter (fun l => (clusterCores cl).all (fun n =>
    (s.coreAt n).task.status == .idle || (s.coreAt n).task.launch != l))

/-- A cluster passes to the tasks of a launch, or to another context: the banks of the launches that pre-emption has taken
from it are saved, those in scratchpad and FIFO mode, where that has not been done. -/
def State.saveBanks (s : State) (cl : Nat) (launch : Option Nat) : State :=
  let c := s.clusterAt cl
  match c.ctx with
  | none => s
  | some ctx =>
    let ls := (s.launchesGone ctx cl).filter (fun l =>
      some l != launch && !s.fe.banks.any (fun b => b.ctx == ctx && b.launch == l && b.cluster == cl))
    let modes := c.modes.filter (fun m => m.2 != .cache)
    let sram := c.sram.filter (fun x => modes.any (fun m => m.1 == x.1 / 2 ^ 19))
    { s with fe := { s.fe with banks := s.fe.banks ++ ls.map (fun l => ⟨ctx, l, cl, modes, sram, false⟩) } }

/-- A pre-empted task leaves its core (R284). -/
def State.releaseTask (s : State) : State :=
  let s := { s with fe := { s.fe with preempted := s.fe.preempted ++ [s.savedTask] } }
  s.modCore (fun c =>
    { c with
      task := Task.none, loops := c.loops.clear, eng := { c.eng with nests := [], draining := [] }
      issue := { c.issue with setupSkip := none }
      flow := { c.flow with wait := .none, finding := none, matched := [] } })

/-- A level as it was saved, where its words are those of the save. -/
def LoopLevel.restore (now old : LoopLevel) : LoopLevel :=
  if now.count = old.count ∧ now.packed = old.packed ∧ now.version = old.version then old else now

/-- What is saved comes back to the acting core: the words of the state space are in place already. The barriers go to the
physical barriers that the context's table names now (R254). -/
def State.restoreSaved (s : State) (p : SavedTask) : State :=
  let keep := s.core.task
  let task := { p.task with
    status := .running, safeCount := keep.safeCount
    start := if p.task.timed then keep.start else p.task.start, index := if p.task.timed then keep.index else p.task.index
    ccount := if p.task.timed then keep.ccount else p.task.ccount
    cadence := if p.task.timed then keep.cadence else p.task.cadence }
  let bars := p.barriers.filterMap (fun b => (s.physBarrier b.1).map (fun n => (n, b.2)))
  let stamp := s.cluster.stamp
  s.modCore (fun c =>
    { c with
      task := task
      press := { p.press with seqStart := c.flow.bundleNo, seqBeats := 0 }
      regs := { c.regs with trellis := p.trellis }
      loops := { c.loops with levels := (List.range 4).map (fun n => (n, (c.loops.level n).restore (find LoopLevel.off n p.levels))) }
      eng := { c.eng with
        barriers := bars.foldl (fun st b => put b.1 b.2 st) c.eng.barriers, seqLevels := p.seqLevels
        nests := p.nests.map (fun n =>
          { n with copy := { n.copy with bar := (s.physBarrier n.handle).getD n.copy.bar }, bundle := none })
        lastDeparture := p.lastDeparture
        draining := p.draining.foldl (fun st x => put x.1 (find [] x.1 st ++ x.2) st) c.eng.draining }
      mem := { c.mem with refill := stamp }
      issue := { c.issue with setupSkip := p.setupSkip }
      flow := { c.flow with
        wait := match p.task.timed, p.task.alignAt with
          | true, some d => .align (task.start + d).toNat
          | _, _ => .none
        finding := c.flow.finding.orElse (fun _ => p.matched.head?)
        matched := c.flow.matched ++ (if c.flow.finding.isNone then p.matched.tail else p.matched) } })

/-- Put saved banks back into their cluster, in the modes that they had; where one leaves cache mode for that, the cluster's
cache is written back and dropped (log 21). -/
def State.returnBanks (s : State) (b : SavedBanks) : State :=
  let s := { s with fe := { s.fe with banks := s.fe.banks.erase b } }
  let c := s.clusterAt b.cluster
  let s := if b.modes.any (fun m => c.mode m.1 == .cache) then (s.writeBacks b.cluster c.allDirty).dropCache b.cluster else s
  let mine (n : Nat) : Bool := b.modes.any (fun m => m.1 == n)
  let s := { s with bad := s.bad.filter (fun p => match p with
    | .bank k w => !(k == b.cluster && mine (w / 2 ^ 16))
    | _ => true) }
  s.modClusterAt b.cluster (fun c =>
    { c with modes := b.modes.foldl (fun st m => put m.1 m.2 st) c.modes
             sram := b.sram.foldl (fun st x => writeByte st x.1 x.2) (c.sram.filter (fun x => !mine (x.1 / 2 ^ 19))) })

/-- The saved banks of a resumed task return to the cluster that held them: at once where the cluster serves the context,
else when it passes to the context again (R286, log 64). -/
def State.banksBack (s : State) (ctx launch cl : Nat) : State :=
  match s.fe.banks.find? (fun b => b.ctx == ctx && b.launch == launch && b.cluster == cl) with
  | none => s
  | some b =>
    if (s.clusterAt cl).ctx = some ctx then s.returnBanks b
    else { s with fe := { s.fe with banks := s.fe.banks.map (fun x => if x = b then { x with due := true } else x) } }

/-- The pre-empted task whose tile and launch words the firmware has restored on the acting core. A timed task resumes on
the core it left (R288). -/
def State.resumable (s : State) : Option SavedTask :=
  let c := s.core
  if c.task.status ≠ .idle then none
  else s.fe.preempted.find? (fun p => p.ctx == c.ctxId && p.coord == c.regs.readCsr 0x005 && p.parm == c.regs.readCsr 0x006 &&
    (!p.task.timed || p.core == s.cur))

/-- The address at which a task entered its program. -/
def State.entryOf (s : State) (p : SavedTask) : Addr := ((find? p.task.launch s.fe.launches).map (fun l => l.entry)).getD 0

/-- A pre-empted task comes back to the acting core, where its program is installed, and goes on in the versions that are
current (R284, R286, R288, R297, R303). -/
def State.adoptTask (s : State) : State :=
  match s.resumable with
  | none => s
  | some p =>
    let entry := s.entryOf p
    let s := (s.saveBanks (clusterOf s.cur) (some p.task.launch)).modCore (fun c => { c with fw := { c.fw with posF := none } })
    let s := { s with fe := { s.fe with preempted := s.fe.preempted.erase p } }
    let s := (s.restoreSaved p).banksBack p.ctx p.task.launch (clusterOf p.core)
    s.loadProgram s.cur p.ctx entry s.core.flight.bundleF

/-- A timed task that was pre-empted waits for the target of its `align`, from the start that it has now (R288, R322). -/
def State.alignAgain (s : State) : State :=
  let t := s.core.task
  match s.core.flow.wait, t.alignAt with
  | .align _, some d => s.modFlow (fun f => { f with wait := .align (t.start + d).toNat })
  | _, _ => s

/-- Leave lost at pre-emption is asked for before the first resumed bundle (R118). -/
def State.askAgain (s : State) : State :=
  let t := s.core.task
  if t.leaveAsked && !t.leave && !t.timed then (s.askLeave s.cur).modFlow (fun f => { f with wait := .leave }) else s

/-- R289: `resume` ends the activation; in exclusive mode the user context continues at bundle F. -/
def execResume (s : State) : Out :=
  guarded .resume s (fun s =>
    if s.core.fw.mode = .background then s.endActivation
    else
      let tick := s.tick
      (s.endActivation.adoptTask.modCore (fun c => c.resumeUser tick)).alignAgain.askAgain)

/-- R289: the activation turns exclusive. -/
def execFwtake (s : State) : Out :=
  guarded .fwtake s (fun s => s.modCore (fun c =>
    let c := c.nameF
    { c with fw := { c.fw with mode := .exclusive } }))

/-- The codes of R266. -/
def faultCode (n : Nat) : Bool := n == 0x01 || (0x03 ≤ n && n ≤ 0x11) || n == 0x13

/-- R289: `fwyield`. With end, the user phase ends with the code. Without it the activation ends: a task taken for
pre-emption is released; a trap that was not resolved is met again, since the user context goes on at F (R265, R274). In
background mode the activation stops the task with `end`, at the bundle that would issue next (R268). -/
def execFwyield (fin : Bool) (code : BitVec 8) (s : State) : Out :=
  guarded (.fwyield fin code) s (fun s =>
    let e := s.core.fw.event
    let tick := s.tick
    if fin then
      let k := code.toNat
      let va := (e.map (fun x => x.f29)).getD 0
      let slot := (e.map (fun x => x.slot)).getD 8
      let s := (if s.core.fw.mode = .exclusive then s else s.modCore Core.nameF).endActivation
      s.raise (if faultCode k then k else 0x01) slot s.core.flight.bundleF va true false false true k
    else
      let cause : Nat := (e.map (fun x => x.cause)).getD 0
      let s := s.endActivation
      if cause = 0x10 then s.releaseTask
      else if 1 ≤ cause ∧ cause ≤ 5 then s.modCore (fun c => c.resumeUser tick)
      else s)

/-! The other privileged instructions (R289). -/

/-- Keep the translations that an invalidation does not name. -/
def tlbKeep (ctx : Nat) (all : Bool) (va : Word) (l : List TlbEntry) : List TlbEntry :=
  l.filter (fun e => !(e.ctx == ctx && (all || (decide (e.info.vpage.toNat ≤ va.toNat) &&
    decide (va.toNat < e.info.vpage.toNat + e.info.size)))))

/-- Drop translations of a core's micro-TLB. -/
def State.dropUtlb (s : State) (core ctx : Nat) (all : Bool) (va : Word) : State :=
  s.modCoreAt core (fun c => { c with mem := { c.mem with utlb := tlbKeep ctx all va c.mem.utlb } })

/-- Drop translations of a cluster, and of its cores. -/
def State.dropTlb (s : State) (cl ctx : Nat) (all : Bool) (va : Word) : State :=
  let s := s.modClusterAt cl (fun c => { c with tlb := tlbKeep ctx all va c.tlb })
  (clusterCores cl).foldl (fun (s : State) c => s.dropUtlb c ctx all va) s

/-- Drop translations by scope: the micro-TLB, the cluster, the die. -/
def State.tlbInvalidate (s : State) (scope : Nat) (all : Bool) (va : Word) : State :=
  let ctx := s.core.ctxId
  match scope with
  | 0 => s.dropUtlb s.cur ctx all va
  | 1 => s.dropTlb (clusterOf s.cur) ctx all va
  | _ => (List.range 8).foldl (fun (s : State) k => s.dropTlb (8 * dieOf s.cur + k) ctx all va) s

def execTlbinv (scope : BitVec 2) (fs : Reg) (all : Bool) (s : State) : Out :=
  guarded (.tlbinv scope fs all) s (fun s => s.tlbInvalidate scope.toNat all (s.readA fs))
def execCsrwp (fs : Reg) (num : BitVec 12) (s : State) : Out :=
  guarded (.csrwp fs num) s (fun s => s.landCsr num.toNat (s.readA fs) (latency (.csrwp fs num)))
def execCsrrp (fd : Reg) (num : BitVec 12) (s : State) : Out :=
  guarded (.csrrp fd num) s (fun s => s.landA fd (s.readCsr num.toNat) (latency (.csrrp fd num)))
def execFlread (fd fi : Reg) (s : State) : Out :=
  guarded (.flread fd fi) s (fun s => s.landA fd (s.core.readSpace (s.readA fi)) (latency (.flread fd fi)))
def execFlwrite (fs fi : Reg) (s : State) : Out :=
  guarded (.flwrite fs fi) s (fun s => s.modCore (fun c => c.writeSpace (s.readA fi) (s.readA fs)))

/-- Discard what a core holds of a canonical page, or of all (R289, R311). -/
def Core.vinvalidate (c : Core) (all : Bool) (page : Addr) : Core :=
  let c := c.discard (c.mem.resident.filter (fun v => all || v.page == page))
  { c with mem := { c.mem with descs := if all then [] else drop page.toNat c.mem.descs } }

/-- A core has issued its `vinval` of a page: calls of `mapx` that wait for no other core return (R310). -/
def State.vinvalIssued (s : State) (core : Nat) (all : Bool) (page : Addr) : State :=
  let calls := s.mapxCalls.map (fun m =>
    if all || m.canon == page then { m with cores := m.cores.filter (· != core) } else m)
  { s with mapxCalls := calls.filter (fun m => !m.cores.isEmpty) }

def execVinval (fs : Reg) (all : Bool) (s : State) : Out :=
  guarded (.vinval fs all) s (fun s =>
    let page : Addr := BitVec.ofNat 48 ((s.readA fs).toNat / 4096 * 4096)
    (s.modCore (fun c => c.vinvalidate all page)).vinvalIssued s.cur all page)

def execBmap (fh fe : Reg) (s : State) : Out :=
  guarded (.bmap fh fe) s (fun s =>
    let h := bits (s.readA fh) 11 0
    let e : BitVec 11 := (s.readA fe).setWidth 11
    s.modFw (fun f => { f with bmaps := f.bmaps ++ [(h, e)] }))

end Sys2Proof.Machine
end

