-- ==== Sys2Proof/Machine/Bundle.lean ====
section
/-! DEFINITION. How bundles are fetched, checked and issued, and how each ends (R46 to R61, R74, R75, R110 to R114, R224,
R281 to R288, R290 to R304, R310 to R313). -/

namespace Sys2Proof.Machine

/-! Loop bodies and stages (R51, R112, R113, R313). -/

/-- The index of a place in the body of a level. -/
def LoopLevel.bodyIndex (l : LoopLevel) (p : Pos) : Option Nat :=
  match l.firstPos with
  | some f => if f.ver = p.ver ∧ f.idx ≤ p.idx ∧ p.idx < f.idx + l.len then some (p.idx - f.idx) else none
  | none =>
    let a := p.addr.toNat
    if l.first.toNat ≤ a ∧ a < l.first.toNat + 32 * l.len then some ((a - l.first.toNat) / 32) else none

/-- R112: whether a level enables the bundle at body index j. -/
def LoopLevel.enables (l : LoopLevel) (j : Nat) : Bool :=
  let stage : Int := j / (l.len / l.stages)
  let q : Int := (l.iters.toNat : Int) + l.stages - 1 - l.count.toNat
  decide (stage ≤ q ∧ q ≤ stage + (l.iters.toNat : Int) - 1)

/-- R113: every active level whose body holds the bundle enables it. -/
def Loops.enabled (l : Loops) (p : Pos) : Bool :=
  l.order.all (fun n => match (l.level n).bodyIndex p with
    | some j => (l.level n).enables j
    | none => true)

/-- Whether a bundle is the last of a level's body. -/
def LoopLevel.endsAt (l : LoopLevel) (p : Pos) : Bool := l.active && l.bodyIndex p == some (l.len - 1)

/-- Where a level goes back to. -/
def LoopLevel.top (l : LoopLevel) (p : Pos) : Addr × Option Pos :=
  match l.firstPos with
  | some f => (l.first, some f)
  | none =>
    let there : Pos := { p with idx := l.first.toNat / 32 % 128 }
    match p.ver.treat with
    | .racked _ _ _ _ _ _ => (l.first, none)
    | _ => (l.first, if l.first.toNat / 4096 = p.ver.page.toNat / 4096 then some there else none)

/-- R114: drain a level at an end evaluation: no further iteration starts. -/
def Loops.drain (l : Loops) (n : Nat) : Loops :=
  let x := l.level n
  let q1 := x.iters.toNat + x.stages - x.count.toNat
  if q1 < x.iters.toNat then
    { l.setLevel n { x with iters := BitVec.ofNat 33 q1, count := BitVec.ofNat 33 x.stages, drained := true } with
      notStarted := put n (x.iters.toNat - q1) l.notStarted }
  else { l.setLevel n { x with drained := true } with notStarted := put n 0 l.notStarted }

/-- One end evaluation of level n (R51, R93, R111): the loops, whether fetch goes back to the body's first bundle. A count
already 0 ends the level (R86). A drained level that ends with iterations not started does not fall through: its first
body bundle comes next (R114, R287). -/
def Loops.evaluate (l : Loops) (n : Nat) : Loops × Bool :=
  let x := l.level n
  let left := x.count - 1
  if x.count = 0 ∨ left = 0 then
    ({ l.end n with draining := if x.drained then some n else l.draining }, x.drained && decide (0 < find 0 n l.notStarted))
  else (l.setLevel n { x with count := left }, true)

/-- Evaluate the levels that end on the bundle, the one set up last first, until one repeats. A level with rot that ends on a
bundle in which another such level is set up turns RB on from the 0 of the set-up (DESIGN CHOICE, log 96: R111 lets 0 govern
the bundles after the set-up and RB - 1 those after the evaluation, and gives no order). -/
def Core.evaluateEnds (c : Core) (drainNow : Bool) : List Nat → Core
  | [] => c
  | n :: r =>
    let x := c.loops.level n
    if !x.endsAt c.issue.pos then c.evaluateEnds drainNow r
    else
      let loops := if drainNow && 1 < x.stages && !x.drained then c.loops.drain n else c.loops
      let (loops, again) := loops.evaluate n
      let c := { c with
        loops := loops
        regs := if x.rot then { c.regs with rb := c.regs.rb - 1 } else c.regs
        issue := { c.issue with
          bbAdvance := c.issue.bbAdvance + x.bbadv.toNat
          back := if again then some (x.top c.issue.pos) else none } }
      if again then c else c.evaluateEnds drainNow r

/-- LOOP_END_EVALUATION: the levels whose last body bundle this is (R51, R52). A pending request drains the levels with
more than one stage (R114, R282). -/
def execLoopEndEvaluation (s : State) : Out :=
  done (s.modCore (fun c => c.evaluateEnds c.task.preempt c.loops.order))

/-- Whether a level ends on the bundle being issued. -/
def Core.endsLoop (c : Core) : Bool := c.loops.order.any (fun n => (c.loops.level n).endsAt c.issue.pos)

/-! Before a bundle issues: freezes (R53, R54, R224, R298, R301, R325, R326). -/

/-- The destination a name denotes under the rotation base: a drain port is a destination, and a port that is read is
none. -/
def destOfName (rb : BitVec 4) (written : Bool) : RegName → Option Dest
  | .a n => if n % 64 = 0 then none else some (.a (rotate rb (n % 64)))
  | .v n => if n < 56 ∨ written = true then some (.v (rotate rb n)) else none
  | .k n => if n = 0 then none else some (.k n)
  | .csr n => some (.csr n)
  | .trellis t b => some (.trellis t b)
  | .flags => none

/-- Whether a result in flight freezes operations on its destination: it is past its vintage landing and not real (R298),
or the edge guard holds it (R301). -/
def Pending.holds (p : Pending) (b : Nat) : Bool := p.guarded || (p.interlocked && decide (p.due < b))

/-- Whether a register name, read or written, is what a result in flight goes to. -/
def Pending.named (p : Pending) (rb : BitVec 4) (written : Bool) (n : RegName) : Bool :=
  match destOfName rb written n with
  | some d => decide (d = p.dest)
  | none => decide (n = .flags) && p.flags != 0

/-- Whether an operation touches a result that freezes it: as a source, or as a destination (R298, R301). -/
def Core.touchesHeld (c : Core) (i : Instr) : Bool :=
  let held := (c.flow.pend ++ c.flow.again.map (fun g => g.entry)).filter (fun p => p.holds c.flow.bundleNo)
  held.any (fun p => (reads i).any (p.named c.regs.rb false) || (writes i).any (p.named c.regs.rb true))

/-- Whether a port that an operation reads has no entry ready. -/
def State.portEmpty (s : State) (n : Nat) : Bool :=
  if 60 ≤ n then s.core.task.timed && (find [] (n - 60) s.core.eng.landQ).isEmpty
  else
    let x := s.core.eng.stream (n - 56)
    s.core.eng.readPort n && decide (x.filled ≤ x.taken)

/-- The register with the address of the group table that an operation reads. -/
def groupReg : Instr → Option Reg
  | .collAllreduceSum f | .collAllreduceMax f | .collAllgather f | .collRscatterSum f | .collRscatterMax f | .collBcast f =>
    some f.g
  | _ => none

/-- The meters that hold up the reading of the group table that an operation of a core names (R345). -/
def State.groupHeld (s : State) (i : Instr) : List Nat :=
  match groupReg i with
  | none => []
  | some g => if s.metered s.core.ctxId then s.closedAt (whoColl s.cur) s.core.ctxId (s.groupCosts (s.readA g)) else []

/-- Whether an operation freezes the core before its bundle. -/
def State.freezes (s : State) (i : Instr) : Bool :=
  s.core.touchesHeld i || (portsIn (reads i)).any s.portEmpty || !(s.groupHeld i).isEmpty ||
    (match i with
     | .tsend _ die _ => s.core.task.timed && decide (4 ≤ (s.core.eng.waiting die.toNat).length)
     | _ => false)

/-- The entry at the head of a port. -/
def State.peekPort (s : State) (n : Nat) : Option Vec :=
  if 60 ≤ n then (find [] (n - 60) s.core.eng.landQ).head?
  else
    let x := s.core.eng.stream (n - 56)
    if x.taken < x.filled then some (s.cluster.entry x x.taken) else none

/-- Pop a port. -/
def Engines.popPort (e : Engines) (n : Nat) : Engines :=
  if 60 ≤ n then { e with landQ := put (n - 60) (find [] (n - 60) e.landQ).tail e.landQ }
  else let x := e.stream (n - 56); e.setStream (n - 56) { x with taken := x.taken + 1 }

/-- A crossing marks every result in flight, those of operations that are still to be issued again among them (R301). -/
def Flow.cross (f : Flow) (vint : BitVec 8) : Flow :=
  match f.lastVint with
  | some v =>
    if v = vint then f
    else { f with lastVint := some vint, pend := f.pend.map (fun p => { p with guarded := true })
                  again := f.again.map (fun g => { g with entry := { g.entry with guarded := true } }) }
  | none => { f with lastVint := some vint }

/-! Safe bundles and bounds (R281 to R284, R320). -/

/-- Whether a beat belongs to the bundle being issued, given its operations (R173, R174). -/
def Core.carriesBeat (c : Core) (ops : List Instr) : Bool :=
  c.press.beatAt c.flow.bundleNo || ops.any (fun i => match i with
    | .pacc _ _ _ => true
    | _ => false)

/-- R182, R281: whether a safe bundle about to issue with some operations is empty. -/
def Core.emptyHere (c : Core) (ops : List Instr) : Bool :=
  c.flow.pend.isEmpty && c.flow.again.isEmpty && decide (c.press.seqStart + c.press.seqBeats ≤ c.flow.bundleNo) &&
    !c.carriesBeat ops && !(c.eng.streams.any (fun p => p.2.bound)) && c.flow.xfers.isEmpty && c.flight.count == 0

/-- The operations of the open bundle that decode, whatever their legality. -/
def Issue.ops (i : Issue) : List (Nat × Instr) :=
  (List.range 8).filterMap (fun k =>
    let w := slotWord i.word k
    if w = 0 then Option.none else (decodeSlot k w).toOption.map (fun op => (k, op)))

/-- The operations of the open bundle that take effect: none in a stage that is disabled (R113). -/
def Issue.live (i : Issue) : List Instr := if i.disabled then [] else i.ops.map (fun p => p.2)

/-- Whether pre-emption is taken before the bundle being issued. -/
def Core.preemptsHere (c : Core) : Bool :=
  (header c.issue.word).safe && c.task.preempt && !c.task.timed && c.emptyHere c.issue.live

/-- Take a pre-emption before bundle F: the firmware is to be activated with cause 0x10, and leave is given back (R118,
R284). -/
def State.takePreemption (s : State) : State :=
  let t := s.core.task
  let s := if t.leave && !t.timed then s.dropLeave (.core s.cur) else s
  let s := s.modTask (fun t =>
    { t with preempt := false, preemptAt := none, alignReport := none
             leaveAsked := t.leaveAsked || (t.leave && !t.timed), leave := t.leave && t.timed, leaveEnding := false })
  s.queueEvent ⟨0x10, 0, s.core.flow.nextAddr.setWidth 64, 0⟩

/-- SAFE_BUNDLE: pre-emption is taken before an empty safe bundle when a request is pending; otherwise the bundle clears
the safe counter (R282, R283). -/
def execSafeBundle (s : State) : Out :=
  if s.core.preemptsHere then
    let s := s.modCore (fun c =>
      { c with flow := { c.flow with pos := c.issue.pos, goto := none }
               issue := { Issue.none with seq := c.issue.seq, setupSkip := c.issue.setupSkip } })
    done s.takePreemption
  else done (s.modTask (fun t => { t with safeCount := 0 }))

/-- SAFE_BOUND_OVERRUN (R283). -/
def execSafeBoundOverrun (s : State) : Out := done (s.raise 0x09 8 s.core.issue.addr 0 false false false false 0)
/-- CADENCE_OVERRUN (R320). -/
def execCadenceOverrun (s : State) : Out := done (s.raise 0x09 8 s.core.issue.addr 0 false false true false 0)

/-- R61. -/
def execNop (s : State) : Out := done s
/-- PAD_BUNDLE: fault 0x0B (R61, R76). -/
def execPadBundle (s : State) : Out := done (s.raiseHere 0x0B 8 0)

/-- An alignment instruction. -/
def isAlign : Instr → Bool
  | .align _ | .alignr _ | .realign => true
  | _ => false

/-! The checks of a bundle about to issue (R75, R267). -/

/-- The legal operations of slots k on, or the lowest slot whose check fails. -/
def State.scanSlots (s : State) : Nat → Nat → Except Nat (List (Nat × Instr))
  | _, 0 => .ok []
  | k, n + 1 =>
    let w := slotWord s.core.issue.word k
    if w = 0 then s.scanSlots (k + 1) n
    else
      match decodeSlot k w with
      | .error _ => .error k
      | .ok i =>
        if legalHere i k s then (s.scanSlots (k + 1) n).map (fun r => (k, i) :: r) else .error k

/-- An operation runs in a slot: the state with that slot current. -/
def State.atSlot (s : State) (k : Nat) : State := s.modIssue (fun i => { i with slot := k })

/-- The operand check of each operation that fails, with its slot. -/
def State.operandFailures (s : State) (ops : List (Nat × Instr)) : List (Nat × Check) :=
  ops.filterMap (fun p => (opCheck p.2 (s.atSlot p.1)).map (fun c => (p.1, c)))

/-- A check that ends the phase. -/
def Check.isFault : Check → Bool
  | .fault _ _ _ => true
  | _ => false

/-- R267: the lowest failing slot whose check raises a fault, else the lowest one. -/
def decide? (l : List (Nat × Check)) : Option (Nat × Check) := (l.find? (fun p => p.2.isFault)).orElse (fun _ => l.head?)

/-- The watch that matches at issue: the fetch, then the accesses by slot (R280). -/
def State.watchFound (s : State) (ops : List (Nat × Instr)) : Option (Nat × Word) :=
  let a := s.core.issue.addr
  if s.core.watched .fetch false a.toNat 32 then some (8, a.setWidth 64)
  else ops.findSome? (fun p => (watchHit p.2 (s.atSlot p.1)).map (fun va => (p.1, va)))

/-- The rows of an open bundle: those of its header, then its operations in the order in which their effects on the
state must come; the C slot is last but for `barm` (R99, R102). -/
def todoOf (h : Header) (ops : List (Nat × Instr)) : List Todo :=
  let head : List Todo := (match hintRow h with | some i => [.row i] | none => []) ++
    (if h.seg then [.row .segMark] else []) ++ (if h.safe then [.row .safeBundle] else [])
  let early (p : Nat × Instr) : Bool := match p.2 with
    | .immx _ => true
    | .barm _ _ _ => true
    | _ => false
  let first := ops.filter early
  let rest := ops.filter (fun p => !early p)
  let slots := first ++ rest.filter (fun p => p.1 != 2) ++ rest.filter (fun p => p.1 == 2)
  let body := slots.map (fun p => Todo.slot p.1)
  if head.isEmpty && body.isEmpty then [.row .nop] else head ++ body

/-- What the checks of an open bundle come to. -/
inductive Fetch where
  | freeze
  | fault (code slot : Nat) (vaddr : Word)
  | check (slot : Nat) (k : Check)
  | watch (slot : Nat) (va : Word)
  /-- The bundle goes no further than one row. -/
  | only (i : Instr)
  | go (ops : List (Nat × Instr)) (ports : List Nat)

/-- Ports that operations read, each once. -/
def portsOf (ops : List (Nat × Instr)) : List Nat := (ops.flatMap (fun p => portsIn (reads p.2))).eraseDups

/-- Check the open user bundle, with the entries at the heads of its ports in place. -/
def State.inspect (s : State) : Fetch :=
  let c := s.core
  let w := c.issue.word
  let h := header w
  if w = padWord then .only .padBundle
  else if h.hint = 0 ∧ h.dist ≠ 0 then .fault 0x01 8 0
  else
    match s.scanSlots 0 8 with
    | .error k => .fault 0x01 k 0
    | .ok all =>
      let ops := if c.issue.disabled then [] else all
      let t := c.task
      let bound := (c.regs.readCsr 0x101).toNat
      if c.preemptsHere then .only .safeBundle
      else if ops.any (fun p => s.freezes p.2) then .freeze
      else if c.carriesBeat (ops.map (fun p => p.2)) && !t.timed && !t.leave then .fault 0x0A 7 0
      else if t.timed && !ops.any (fun p => isAlign p.2) && decide (t.cadence.toNat ≤ t.ccount.toNat) then
        .only .cadenceOverrun
      else if !h.safe && bound != 0 && decide (bound ≤ t.safeCount.toNat) then .only .safeBoundOverrun
      else
        match decide? (s.operandFailures ops) with
        | some (k, x) => .check k x
        | none =>
          match s.watchFound ops with
          | some (k, va) => .watch k va
          | none => .go ops (portsOf ops)

/-- Open an issue. -/
def State.openIssue (s : State) (w : Bundle) (pos : Pos) (addr : Addr) : State :=
  let immx := match decodeSlot 1 (slotWord w 1) with
    | .ok (.immx p) => some p
    | _ => none
  s.modIssue (fun i =>
    { Issue.none with stage := .ops, word := w, pos := pos, addr := addr, seq := i.seq, setupSkip := i.setupSkip, slot := 8
                      immx := immx })

/-- Close an issue that has no further effect. -/
def State.shutIssue (s : State) : State :=
  s.modIssue (fun i => { Issue.none with seq := i.seq, setupSkip := i.setupSkip })

/-- Fill the ports of an open bundle with what stands at their heads. -/
def State.fillPorts (s : State) (ports : List Nat) : State :=
  let add (st : Store Vec) (n : Nat) : Store Vec := match s.peekPort n with
    | some v => put n v st
    | none => st
  s.modIssue (fun i => { i with popped := ports.foldl add i.popped })

/-- Count the bundle that issues (R283, R320), and note a chosen alignment index (R288). -/
def State.countBundle (s : State) (ops : List (Nat × Instr)) : State :=
  let safe := (header s.core.issue.word).safe
  let steps := ops.any (fun p => match p.2 with
    | .align _ | .alignr _ => true
    | _ => false)
  let c := s.core
  let report := safe && c.emptyHere (ops.map (fun p => p.2)) && c.eng.landQ.all (fun p => p.2.isEmpty) && c.eng.sends.isEmpty
  s.modTask (fun t =>
    { t with
      safeCount := if safe then t.safeCount else t.safeCount + 1
      ccount := if t.timed && !ops.any (fun p => isAlign p.2) then t.ccount + 1 else t.ccount
      alignReport := if steps && t.preemptAt == some (t.index.toNat + 1) then some report else t.alignReport })

/-- Fetch the user bundle at the core's place. What is found at the fetch is recorded with slot 8 and the bundle's address
(log 27). Code of a page that belongs to no program, or to no segment, takes the not-present trap (R193, R304). -/
def State.fetchUser (s : State) : State :=
  let f := s.core.flow
  -- Enter the target of a transfer that is not translated yet.
  let (s, e) : State × Entry := match f.goto with
    | some a => s.enter s.cur a
    | none => (s, .ok f.pos)
  let here := f.nextAddr
  match e with
  | .fault code => s.raise code 8 here (here.setWidth 64) false false false false 0
  | .trap cause => s.report (.trap cause 8 (here.setWidth 64))
  | .ok pos =>
    let s := (s.modFlow (fun f => { f with pos := pos, goto := none })).modLoops (fun l => l.placeIn pos.ver)
    match s.enterSegment pos.addr with
    | (s, .none) => s.report (.trap 0x02 8 (pos.addr.setWidth 64))
    | (s, .wait) => s
    | (s, .ok) =>
      if !s.core.mem.resident.contains pos.ver then
        if s.placed s.cur pos.ver.page then s.askReload s.cur pos.ver else s.report (.trap 0x02 8 (pos.addr.setWidth 64))
      else if s.bad.contains (.code s.cur pos.ver.page pos.idx) then
        s.raise 0x0D 8 pos.addr (pos.addr.setWidth 64) false false false false 0
      else
        let s := s.openIssue (s.core.mem.bundleAt pos) pos pos.addr
        let s := s.modFlow (fun f => f.cross pos.ver.vint)
        let s := s.modIssue (fun i => { i with disabled := !s.core.loops.enabled pos })
        let ops := if s.core.issue.disabled then [] else s.core.issue.ops
        let s := s.fillPorts (portsOf ops)
        match s.inspect with
        | .freeze => s.shutIssue
        | .fault code slot va => s.raiseHere code slot va
        | .check slot k => s.takeCheck slot k
        | .watch slot va =>
          if s.core.debugged then s.trapHere 0x05 slot va else s.raiseHere 0x13 slot va
        | .only i => s.modIssue (fun x => { x with todo := [.row i] })
        | .go ops ports =>
          let s := s.modEng (fun e => ports.foldl Engines.popPort e)
          let s := s.countBundle ops
          s.modIssue (fun i => { i with todo := todoOf (header i.word) ops })

/-! Firmware bundles (R273 to R276). -/

/-- Whether the firmware has a bundle to issue in this tick. -/
def Core.fwTurn (c : Core) : Bool :=
  match c.fw.mode with
  | .idle => false
  | .exclusive => true
  | .background => decide (c.fw.shareUsed < c.share)

/-- Fetch the next firmware bundle. Offsets wrap at 16 KiB. A bundle that fails a check of R75, a pad among them, ends the
phase with fault 0x01 (R276, log 69); the other bits of its header have no effect (log 70). -/
def State.fetchFirmware (s : State) : State :=
  let pc := s.core.fw.pc % 16384
  let w := find 0 (pc / 32) s.core.fw.text
  let s := s.modFw (fun f => { f with issuing := true, pc := pc
                                      shareUsed := if f.mode = .background then f.shareUsed + 1 else f.shareUsed })
  let s := s.openIssue w Pos.zero (BitVec.ofNat 48 pc)
  let h := header w
  if w = padWord ∨ (h.hint = 0 ∧ h.dist ≠ 0) then s.raiseHere 0x01 8 0
  else
    match s.scanSlots 0 8 with
    | .error k => s.raiseHere 0x01 k 0
    | .ok ops =>
      match decide? (s.operandFailures ops) with
      | some (k, x) => s.takeCheck k x
      | none => s.modIssue (fun i => { i with todo := todoOf ⟨false, false, 0, 0⟩ ops })

/-- BUNDLE_FETCH: the acting core fetches, checks and begins to issue a bundle: of the firmware when it is its turn
(R275), else of the user context. -/
def execBundleFetch (s : State) : Out := done (if s.core.fwTurn then s.fetchFirmware else s.fetchUser)

/-! The end of a bundle (R46 to R53, R108, R126, R170, R176, R224). -/

/-- Land one result in its destination: the enabled bits (R108). -/
def Core.landOne (c : Core) (p : Pending) : Core :=
  match p.dest with
  | .a n => { c with regs := c.regs.writeA n (p.value.setWidth 64) }
  | .v n => if n < 56 then { c with regs := c.regs.writeV n (mergeVec (c.regs.readV n) p.value p.en) } else c
  | .k n =>
    let en := p.en.setWidth 64
    { c with regs := c.regs.writeK n ((c.regs.readK n &&& ~~~en) ||| (p.value.setWidth 64 &&& en)) }
  | .csr n => c.writeCsr n (p.value.setWidth 64)
  | .trellis t b =>
    let set (st : Store (BitVec 32)) (i : Nat) : Store (BitVec 32) := put (512 * t + 64 * b + i) (elem p.value 32 i) st
    { c with regs := { c.regs with trellis := (List.range 64).foldl set c.regs.trellis } }
  | .f _ | .none => c

/-- Whether a result lands at the end of bundle b and tick t: at its due bundle, once it is ready; on an interlocked page once it is real
and due (R298); under the edge guard once it is ready, and not before its vintage landing, which is counted in ticks there
since no bundle issues while the guard holds the core (R312, log 39). -/
def Pending.lands (p : Pending) (b t : Nat) : Bool :=
  if p.interlocked then
    p.ready && decide (p.readyTick ≤ t) && (decide (p.due ≤ b) || (p.guarded && decide (p.vintTick ≤ t)))
  else if p.guarded && p.ready && decide (p.readyTick ≤ t) then true
  else p.ready && decide (p.readyTick ≤ t) && decide (p.due ≤ b)

/-- A drain port among destinations. -/
def Pending.port (p : Pending) : Option Nat :=
  match p.dest with
  | .v n => if 56 ≤ n then some (n - 56) else none
  | _ => none

/-- The entry that results push into a port: lane by lane, zeros elsewhere (R224). -/
def pushEntry (ps : List Pending) : Vec := ps.foldl (fun v p => mergeVec v p.value p.en) 0

/-- Push what lands in a port: fault 0x10 beyond E entries, and at a port that is not bound for draining (R224). -/
def State.pushPort (s : State) (n : Nat) (ps : List Pending) : State :=
  let x := s.core.eng.stream n
  let slot := ((ps.head?).map (fun p => p.slot)).getD 0
  if !x.bound || !x.drain || decide (x.total ≤ x.filled) then
    s.report (.fault 0x10 slot (((ps.head?).map (fun p => p.addr)).getD 0) 0 false 0)
  else
    let s := s.writePlace s.cur 0 (.bank (x.place x.filled)) (vecBytes (pushEntry ps) 256) false false
    s.modEng (fun e => e.setStream n { x with filled := x.filled + 1 })

/-- The lanes in which any of some bits stands, whole (R108). -/
def wholeLanes (en : Vec) : Vec := elemMask 32 (fun j => elem en 32 j != 0) 64

/-- R47, R108: of results in order, the last one wins: a vector lane that a later result writes is lost to the others. -/
def winners : List Pending → List Pending
  | [] => []
  | p :: r =>
    let lost := (r.filter (fun q => decide (q.dest = p.dest))).foldl (fun m q => m ||| wholeLanes q.en) 0
    (match p.dest with
     | .v _ => { p with en := p.en &&& ~~~lost }
     | _ => p) :: winners r

/-- Registers that results overwrite whole hold good data again (R207). -/
def mendRegs (core : Nat) (ls : List Pending) (l : List SoftPlace) : List SoftPlace :=
  let whole (d : Dest) (p : Pending) : Bool := decide (p.dest = d)
  l.filter (fun x => match x with
    | .scalar c n => !(c == core && ls.any (whole (.a n)))
    | .vector c n => !(c == core && ls.any (fun p => whole (.v n) p && p.en == BitVec.allOnes 2048))
    | .mask c n => !(c == core && ls.any (fun p => whole (.k n) p && p.en.setWidth 64 == BitVec.allOnes 64))
    | _ => true)

/-- Land results together (R47, R53): flags accumulate from all of them, and the last in order of slot and issue wins
each lane. -/
def State.landTogether (s : State) (ls : List Pending) : State :=
  let ls := winners (bySlot ls)
  let s := s.modCore (fun c =>
    let c := ls.foldl Core.landOne c
    { c with regs := ls.foldl (fun r p => r.orFlags p.flags) c.regs })
  let s := { s with bad := mendRegs s.cur ls s.bad }
  (List.range 4).foldl (fun (s : State) n =>
    let ps := ls.filter (fun p => p.port == some n)
    if ps.isEmpty then s else s.pushPort n ps) s

/-- Whether the port that a result pushes into has room, or takes no more entries (R224). -/
def Engines.roomFor (e : Engines) (p : Pending) : Bool :=
  match p.port with
  | some n => let x := e.stream n; decide (x.filled - x.taken < 2048) || decide (x.total ≤ x.filled)
  | none => true

/-- Whether a result lands late, where no bundle ends with it: on an interlocked page, or under the edge guard (R298,
R312). -/
def Core.late (c : Core) (t : Nat) (p : Pending) : Bool :=
  (p.interlocked || p.guarded) && p.lands (c.flow.bundleNo - 1) (t - 1) && decide (0 < c.flow.bundleNo)

/-- Whether a late result waits for room in its port: the core is frozen (R54, R224). -/
def Core.pushWaits (c : Core) (t : Nat) : Bool := c.flow.pend.any (fun p => c.late t p && !c.eng.roomFor p)

/-- Land what the tick before let land, where no bundle ended with it: late results of interlocked pages and results under
the edge guard (R298, R312). A full port holds its results back. -/
def State.landLate (s : State) : State :=
  let c := s.core
  let go (p : Pending) : Bool := c.late s.tick p && c.eng.roomFor p
  let ls := s.core.flow.pend.filter go
  if ls.isEmpty then s
  else (s.modFlow (fun f => { f with pend := f.pend.filter (fun p => !go p) })).landTogether ls

/-- Whether every result due at the end of the bundle has arrived, and every full drain port has room (R53, R54, R224). -/
def Core.landingReady (c : Core) (t : Nat) : Bool :=
  let b := c.flow.bundleNo
  c.flow.pend.all (fun p => decide (b < p.due) || p.interlocked || (p.ready && decide (p.readyTick ≤ t)) ||
      (c.mem.heldAccess p.seq).isSome) &&
    (c.flow.pend.filter (fun p => p.lands b t)).all c.eng.roomFor

/-- The next place in fetch order. -/
def State.afterHere (s : State) (p : Pos) : State × (Option Pos × Option Addr) :=
  match p.next with
  | .inl q => (s, some q, none)
  | .inr a =>
    match s.resolve s.cur a with
    | (s, some q) => (s, some q, none)
    | (s, none) => (s, none, some a)

/-- Go to a canonical address. -/
def State.goTo (s : State) (a : Addr) (p : Option Pos) : State × (Option Pos × Option Addr) :=
  match p with
  | some q => (s, some q, none)
  | none =>
    match s.resolve s.cur a with
    | (s, some q) => (s, some q, none)
    | (s, none) => (s, none, some a)

/-- R49, R51, R52: where fetch goes after the bundle: a pending transfer whose countdown ends, a loop return, the bundle
after an empty loop's body, or the next in fetch order. A countdown stays at 0, so a transfer of one delay bundle behind
one of two issues its target right after the older one's (log 71); a loop return goes before the end of a countdown, whose
remaining delay bundles are then the body's first (log 72), and drops a skip past an empty body (log 61). Where the setup
bundle of a count-0 level is itself the setup bundle of another, the first one's skip is taken and the second one's is dropped,
since the bundle that it would follow does not come next (DESIGN CHOICE, log 61). -/
def State.nextPlace (s : State) : State :=
  let i := s.core.issue
  let xs := s.core.flow.xfers.map (fun x => { x with countdown := x.countdown - 1 })
  let xs : List Xfer := match i.taken with
    | some (t, p) => xs ++ [⟨s.delays, t, p⟩]
    | none => xs
  let set (s : State) (dest : Option Pos × Option Addr) (xs : List Xfer) (skip : Option Pos) : State :=
    (s.modFlow (fun f => { f with xfers := xs, pos := dest.1.getD f.pos, goto := dest.2 })).modIssue
      (fun i => { i with setupSkip := skip })
  match xs with
  | ⟨0, t, p⟩ :: r =>
    let (s, dest) := s.goTo t p
    set s dest r none
  | _ =>
    match i.back with
    | some (a, p) =>
      let (s, dest) := s.goTo a p
      set s dest xs none
    | none =>
      match i.setupSkip with
      | some p =>
        if p.idx < 128 ∨ p.bundleAddr = none then set s (some p, none) xs none
        else
          match p.ver.treat with
          | .racked _ _ _ _ _ _ => set s (some p, none) xs none
          | _ =>
            let (s, dest) := s.goTo (p.ver.page + BitVec.ofNat 48 (32 * p.idx)) none
            set s dest xs none
      | none =>
        let (s, dest) := s.afterHere i.pos
        set s dest xs i.skip

/-- The target of a transfer that the bundle takes is translated at issue (R296, R297). -/
def State.translateTaken (s : State) : State :=
  match s.core.issue.taken with
  | some (t, none) =>
    let (s, p) := s.resolve s.cur t
    s.modIssue (fun i => { i with taken := some (t, p) })
  | _ => s

/-- Where fetch goes after the bundle, chosen as it issues. A drained level that has ended lets no-op bundles follow; while
a taken transfer is pending no pre-emption can be taken, and its iterations are set up again at once (R281, R287,
log 19). -/
def State.chooseNext (s : State) : State :=
  let c := s.core
  if c.flow.noOps then s
  else
    let pending := !c.flow.xfers.isEmpty || c.issue.taken.isSome
    let s := s.nextPlace
    match c.loops.draining with
    | none => s
    | some n =>
      if pending || c.task.status != .running then
        (s.modCore (fun c => c.setUpDrained n)).modLoops (fun l => { l with draining := none })
      else s.modFlow (fun f => { f with noOps := true })

/-- End the open user bundle: clears and restores of `vflags`, landings, press updates, ports, the barrier base and
leave; versions that the core has left are dropped (R311). -/
def State.closeUser (s : State) : State :=
  let c := s.core
  let b := c.flow.bundleNo
  let i := c.issue
  let ls := c.flow.pend.filter (fun p => p.lands b s.tick)
  let wroteBb := ls.any (fun p => decide (p.dest = .csr 0x003))
  let s := s.modCore (fun c =>
    { c with
      regs := i.flagWrites.foldl (fun r w => r.setFlags w.1 w.2) c.regs
      flow := { c.flow with pend := c.flow.pend.filter (fun p => !p.lands b s.tick) } })
  let s := (s.landTogether ls).pressEnd
  let s := s.modEng (fun e => e.applyBinds s.cluster (s.entryFails (clusterOf s.cur)) i.binds)
  let s := if wroteBb then s
    else s.modRegs (fun r => r.writeCsr 0x003 (wordOf (((r.readCsr 0x003).toNat + i.bbAdvance) % 1024)))
  let s := if s.core.task.leaveEnding then
      (s.dropLeave (.core s.cur)).modTask (fun t => { t with leave := false, leaveEnding := false })
    else s
  let s := (s.modFlow (fun f => { f with bundleNo := f.bundleNo + 1, lastTick := s.tick })).shutIssue
  s.modCore (fun c => if c.mem.stale.isEmpty then c else c.discard c.mem.stale)

/-- End the open firmware bundle: landings and the next offset (R273). -/
def State.closeFirmware (s : State) : State :=
  s.modCore (fun c =>
    let b := c.fw.bundleNo
    let ends := c.fw.mode == .idle
    let due := c.fw.pend.filter (fun p => decide (p.due ≤ b) || ends)
    let c := (bySlot due).foldl Core.landFw c
    let xs := c.fw.xfers.map (fun x => (x.1 - 1, x.2))
    let xs := match c.issue.taken with
      | some (t, _) => xs ++ [(2, t.toNat)]
      | none => xs
    let (pc, xs) : Nat × List (Nat × Nat) := match xs with
      | (0, t) :: r => (t, r)
      | _ => (c.fw.pc + 32, xs)
    { c with
      fw := { c.fw with pend := c.fw.pend.filter (fun p => !(decide (p.due ≤ b) || ends)), pc := if ends then 0 else pc
                        xfers := if ends then [] else xs, bundleNo := b + 1, issuing := false, held := none }
      issue := match c.fw.held with
        | some i => { i with seq := c.issue.seq }
        | none => { Issue.none with seq := c.issue.seq, setupSkip := c.issue.setupSkip } })

/-- FREEZE_END: every cause that held the bundle has ended, its results land together, and the next bundle may issue
(R46, R47, R53). -/
def execFreezeEnd (s : State) : Out := done (if s.fwIssuing then s.closeFirmware else s.closeUser)

/-- PRESS_BEAT: the beat of the bundle being issued (R172, R173). -/
def execPressBeat (s : State) : Out := done s.pressBeat

/-! No-op bundles (R95, R287). -/

/-- Whether something is in flight that no-op bundles carry to its end. -/
def Core.inFlight (c : Core) : Bool :=
  !c.flow.pend.isEmpty || !c.flow.again.isEmpty || decide (c.flow.bundleNo < c.press.seqStart + c.press.seqBeats)

/-- DRAIN_NO_OP_BUNDLES: after a `halt`, or after the last epilogue pass of a drained level, a no-op bundle issues, which
nothing counts and nothing checks. When nothing is in flight behind a drain, pre-emption is taken at the bundle that comes
next: the first body bundle, or the one that follows the level when no iteration remained (R287). -/
def execDrainNoOpBundles (s : State) : Out :=
  let c := s.core
  match c.loops.draining with
  | none => done (s.openIssue 0 c.flow.pos c.flow.pos.addr)
  | some n =>
    if c.inFlight then done (s.openIssue 0 c.flow.pos c.flow.pos.addr)
    else
      let s := s.modCore (fun c => { c with flow := { c.flow with noOps := false }, loops := { c.loops with draining := none } })
      if s.core.emptyHere [] && s.core.task.preempt then done (s.modCore Core.nameF).takePreemption
      else done (s.modCore (fun c => c.setUpDrained n))

/-! Requests for pre-emption (R282, R288). -/

/-- PREEMPTION_REQUEST: the request is pending until an empty safe bundle (R282). -/
def execPreemptionRequest (s : State) : Out :=
  match s.req with
  | some (.preemptionRequest core) =>
    let s := s.modCoreAt core (fun c =>
      if c.task.status = .running ∧ c.task.timed = false then { c with task := { c.task with preempt := true } } else c)
    done { s with req := none }
  | _ => done s

/-- The cores that run a launch. -/
def State.coresOf (s : State) (launch : Nat) : List Nat :=
  (s.cores.filter (fun p => decide (p.2.task.status ≠ .idle) && p.2.task.launch == launch)).map (fun p => p.1)

/-- The launches of the phase of a launch. -/
def State.siblings (s : State) (launch : Nat) : List Nat :=
  match find? launch s.fe.launches with
  | none => []
  | some l => (s.fe.launches.filter (fun p => p.2.phase == l.phase)).map (fun p => p.1)

/-- The cores of a timed phase that wait at a chosen index and have all reported. -/
def State.reported (s : State) : List Nat :=
  let waiting := (s.cores.filter (fun p => p.2.task.alignReport.isSome)).map (fun p => p.1)
  match waiting with
  | [] => []
  | c :: _ =>
    let all := (s.siblings (s.coreAt c).task.launch).flatMap s.coresOf
    if all.all (fun x => (s.coreAt x).task.alignReport.isSome) then all else []

/-- TIMED_PHASE_PREEMPTION: the front end chooses an alignment index for a timed phase; or, when every core has reported
at it, the whole phase is pre-empted there if all are empty, and otherwise none is (R288). A pre-empted core stays in its
`align` (R322). -/
def execTimedPhasePreemption (s : State) : Out :=
  match s.req with
  | some (.timedPhasePreemption launch k) =>
    let cores := (s.siblings launch).flatMap s.coresOf
    let s := cores.foldl (fun (s : State) n => s.modCoreAt n (fun c =>
      if c.task.timed then { c with task := { c.task with preemptAt := some k } } else c)) s
    done { s with req := none }
  | _ =>
    let cores := s.reported
    let all := cores.all (fun n => (s.coreAt n).task.alignReport == some true)
    let here := s.cur
    let s := cores.foldl (fun (s : State) n =>
      let s := s.modCoreAt n (fun c => { c with task := { c.task with alignReport := none, preemptAt := none } })
      if all then ({ s with cur := n } : State).takePreemption else s) s
    done { s with cur := here }

/-! Requests that only meters hold up (R345). -/

/-- The requests of a core's queues that wait for tokens: those at their heads, the walks of the first access that is not
translated, and a write-back. -/
def State.queueHeld (s : State) (core : Nat) : List (Nat × Nat) :=
  let u : State := { s with cur := core }
  let c := u.core
  let heads := ([headOf c.mem.loadQ, headOf c.mem.storeQ].filterMap (fun e => e.bind entryAccess)).flatMap (fun x =>
    (x.targets.getD []).flatMap (fun t =>
      (s.closedMeters (whoOf core x.instr) core t (useOf x.instr)).map (fun r => (whoOf core x.instr, r))))
  let walks := [c.mem.loadQ, c.mem.storeQ].flatMap (fun q =>
    match (queueAccesses q).find? (fun x => x.targets.isNone && !x.failed) with
    | none => []
    | some x => (s.closedAt (whoOf core x.instr) c.ctxId (s.accessWalks core x)).map (fun r => (whoOf core x.instr, r)))
  let leaves := c.task.status == .halted || (c.fw.queue.head?.map (fun e => e.cause)) == some 0x10
  let writes := c.mem.markerDue.isSome || (match headOf c.mem.storeQ with
    | some (.access x) => isWbk x.instr && x.targets.isSome
    | _ => leaves && c.mem.storeQ.isEmpty)
  heads ++ walks ++ (if writes then u.writeBackHeld.map (fun r => (whoStore core, r)) else [])

/-- The write-backs that a bank switch of a core waits for (R196). -/
def State.switchMeters (s : State) (core : Nat) : List (Nat × Nat) :=
  let cl := clusterOf core
  let c := s.clusterAt cl
  match c.switching with
  | [] => []
  | x :: _ =>
    if x.core ≠ core ∨ c.flushes x = false then []
    else c.allDirty.flatMap (fun b =>
      (s.closedAt (whoStore core) (s.clusterCtx cl) (s.blockCosts cl b)).map (fun r => (whoStore core, r)))

/-- The group tables of the bundle that a core would issue next. -/
def State.bundleHeld (s : State) (core : Nat) : List (Nat × Nat) :=
  let u : State := { s with cur := core }
  let c := u.core
  if c.task.status ≠ .running ∨ c.flow.goto.isSome ∨ c.issue.stage ≠ .closed ∨ c.loops.enabled c.flow.pos = false then []
  else
    let ops := (({ Issue.none with word := c.mem.bundleAt c.flow.pos } : Issue).ops).map (fun p => p.2)
    (ops.flatMap u.groupHeld).map (fun r => (whoColl core, r))

/-- At the end of a core's turn its requests that only tokens hold up stand at their meters, in the order in which they
came there; those that wait no longer have left (R345). -/
def State.noteHeld (s : State) (core : Nat) : State :=
  let ctx := (s.coreAt core).ctxId
  if s.metered ctx then
    s.holdAt ctx (16 * core) (16 * core + 16)
      (s.queueHeld core ++ s.engineHeld core ++ s.collHeld core ++ s.fetchHeld core ++ s.switchMeters core ++ s.bundleHeld core)
  else s

end Sys2Proof.Machine
end

