-- ==== Sys2Proof/Machine/FrontEnd.lean ====
section
/-! DEFINITION. The front end (R262, R263, R333 to R344, R347): submission, graphs, phases, dispatch, admission and leave. -/

namespace Sys2Proof.Machine

/-- Dies of a mask. -/
def maskDies (m : BitVec 8) : List Nat := (List.range 8).filter (fun d => m.getLsbD d)

/-! Link and clock changes (R328, R329). -/

/-- Running timed phases. -/
def State.timedRunning (s : State) : List Phase :=
  (s.fe.phases.map (fun p => p.2)).filter (fun p => p.timed && p.start.isSome)

/-- Whether a phase uses a link: the ring links between dies of its mask, and the cache-die links of those dies (R327). -/
def Phase.usesLink (p : Phase) (link : Nat) : Bool :=
  if link < 8 then p.mask.getLsbD link && p.mask.getLsbD ((link + 1) % 8)
  else decide (link < 16) && p.mask.getLsbD (link - 8)

/-- Whether a phase uses the clock of a die: its dies, and the cache die. -/
def Phase.usesClock (p : Phase) (die : Nat) : Bool := die == 8 || (decide (die < 8) && p.mask.getLsbD die)

/-- Whether a change must wait for a timed phase. -/
def State.mustDefer (s : State) : LinkRequest → Bool
  | .width link _ => s.timedRunning.any (fun p => p.usesLink link)
  | .clock die _ => s.timedRunning.any (fun p => p.usesClock die)

/-- Make a change. The estimates of ring time keep what they have reached when a clock changes (R317). -/
def State.applyChange (s : State) : LinkRequest → State
  | .width link w => { s with mgmt := { s.mgmt with widths := put link w s.mgmt.widths } }
  | .clock die point => s.keepEstimates.modDieAt die (fun d => { d with point := point })

/-- Whether a change is one of width. -/
def LinkRequest.isWidth : LinkRequest → Bool
  | .width _ _ => true
  | .clock _ _ => false

/-- Apply a list of changes, every width change first; those that must wait are deferred, in order. -/
def State.applyChanges (s : State) (l : List LinkRequest) : State :=
  let l := l.filter LinkRequest.isWidth ++ l.filter (fun r => !r.isWidth)
  let s := (l.filter (fun r => !s.mustDefer r)).foldl State.applyChange s
  { s with mgmt := { s.mgmt with deferred := l.filter s.mustDefer } }

/-! Queues and runs (R338, R339). -/

/-- A queue of a context. -/
def State.queueAt (s : State) (ctx q : Nat) : Queue := find Queue.empty q (s.ctxAt ctx).queues
/-- Replace a queue. -/
def State.setQueue (s : State) (ctx q : Nat) (x : Queue) : State :=
  s.modCtxAt ctx (fun c => { c with queues := put q x c.queues })
/-- Whether a context exists. -/
def State.hasCtx (s : State) (ctx : Nat) : Bool := (find? ctx s.contexts).isSome
/-- Places taken in a queue: graphs that wait and the one that runs (log 59). -/
def Queue.taken (x : Queue) : Nat := x.waiting.length + x.run.isSome.toNat
/-- Signal a vector of the virtual function of a context's partition (R263, R332, R339). -/
def State.signalVector (s : State) (ctx : Nat) (v : Option Nat) : State :=
  match v with
  | some n => { s with fe := { s.fe with msix := s.fe.msix ++ [((s.ctxAt ctx).part, n)] } }
  | none => s

/-! The registers of the queues in BAR0 of a partition's virtual function (R338). -/

/-- Places that are free in a queue. -/
def Queue.credit (x : Queue) : Nat := 256 - x.taken

/-- The status register of a queue. -/
def Queue.status (x : Queue) : Nat := x.overflow.toNat + 2 * x.badAddr.toNat + 4 * x.run.isSome.toNat

/-- The context that holds a window of a partition. -/
def State.windowCtx (s : State) (part k : Nat) : Option Nat :=
  (s.contexts.find? (fun p => p.2.part == part && p.2.window == k)).map (fun p => p.1)

/-- The context, the queue and the register that a byte offset in BAR0 names; none in an empty window. -/
def State.barPlace (s : State) (part off : Nat) : Option (Nat × Nat × Nat) :=
  (barDecode off).bind (fun p => (s.windowCtx part p.1).map (fun ctx => (ctx, p.2)))

/-- The context and the queue whose register of some offset a byte offset in BAR0 names. -/
def State.barQueue (s : State) (part off reg : Nat) : Option (Nat × Nat) :=
  (s.barPlace part off).bind (fun p => if p.2.2 = reg then some (p.1, p.2.1) else none)

/-- What a read of BAR0 gives: credit, status, the job counter; 0 elsewhere and in an empty window. -/
def State.barRead (s : State) (part off : Nat) : Word :=
  match s.barPlace part off with
  | none => 0
  | some (ctx, q, reg) =>
    let x := s.queueAt ctx q
    if reg = 0x08 then wordOf x.credit else if reg = 0x10 then wordOf x.status else if reg = 0x18 then x.completed else 0

/-- A doorbell write of a queue (R338): without credit, or with a bad address, the graph is discarded. -/
def Queue.ring (x : Queue) (addr : Word) : Queue :=
  let full := x.credit == 0
  let bad := addr.toNat % 64 != 0 || bits addr 63 48 != 0
  { x with
    overflow := x.overflow || full, badAddr := x.badAddr || bad
    waiting := if full || bad then x.waiting else x.waiting ++ [addr.setWidth 48] }

/-- DOORBELL (R338): the doorbell of an empty window is discarded. -/
def execDoorbell (s : State) : Out :=
  match s.req with
  | some (.doorbell part off addr) =>
    let s := { s with req := none }
    match s.barQueue part off 0x00 with
    | some (ctx, q) => done (s.setQueue ctx q ((s.queueAt ctx q).ring addr))
    | none => done s
  | _ => done s

/-- QUEUE_STATUS_CLEAR: write 1 to clear (R338). -/
def execQueueStatusClear (s : State) : Out :=
  match s.req with
  | some (.queueStatusClear part off b) =>
    let s := { s with req := none }
    match s.barQueue part off 0x10 with
    | some (ctx, q) =>
      let x := s.queueAt ctx q
      done (s.setQueue ctx q { x with overflow := x.overflow && !b.getLsbD 0, badAddr := x.badAddr && !b.getLsbD 1 })
    | none => done s
  | _ => done s

/-! Reading and writing as the front end does (R203, R341, R345). -/

/-- What the front end meets at an address. -/
inductive FeFinding where
  | ok
  | pause
  | fault (code : Nat)
  deriving DecidableEq, Repr

/-- An address of the front end: [63:48], translation and permission; a moving page or a copy-on-write page makes it
wait. -/
def State.feFinding (s : State) (ctx : Nat) (kind : AccessKind) (va : Word) : FeFinding :=
  if bits va 63 48 ≠ 0 then .fault 0x05
  else
    match s.walk ctx va.toNat with
    | .moving => .pause
    | .trap _ => .fault 0x05
    | .fault c => .fault c
    | .ok p =>
      match permission kind p with
      | .ok p => if (s.devAddr ctx ((physOf p va.toNat [0]).headD 0)).isSome then .ok else .fault 0x05
      | .fault c => .fault c
      | _ => .pause

/-- The check of a 32-bit word's address. -/
def State.wordFinding (s : State) (ctx : Nat) (kind : AccessKind) (va : Word) : FeFinding :=
  match s.feFinding ctx kind va with
  | .fault 0x05 => if va.toNat % 4 ≠ 0 then .fault 0x11 else .fault 0x05
  | x => if va.toNat % 4 ≠ 0 then .fault 0x11 else x

/-- The meters that count bytes at an address of a context when the front end, on the cache die, reads or writes them: the
memory, and the link to a stack of HBM4E (R9, R345). -/
def State.feMeters (s : State) (ctx va : Nat) : List Nat :=
  match s.walk ctx va with
  | .ok p => if cellarBase ≤ (physOf p va [0]).headD 0 then [meterCellar] else [meterHbm, meterLink]
  | _ => [meterHbm, meterLink]

/-- Whether meters are open to the front end. -/
def State.feOpen (s : State) (ctx : Nat) (rs : List Nat) : Bool := rs.all (s.meterOpen whoFrontEnd ctx)

/-- Count n bytes at some meters. -/
def State.feCount (s : State) (ctx : Nat) (rs : List Nat) (n : Nat) : State :=
  rs.foldl (fun (s : State) r => s.meterCount ctx r n) s

/-- What n bytes cost the front end at an address of a context: the walk to it and the bytes (R345, log 44). -/
def State.feCosts (s : State) (ctx va n : Nat) : List (Nat × Nat) :=
  if s.metered ctx then s.walkCosts (s.ctxView ctx) va ++ (s.feMeters ctx va).map (fun r => (r, n)) else []

/-- Whether the meters of some costs are open to the front end. -/
def State.feReady (s : State) (ctx : Nat) (costs : List (Nat × Nat)) : Bool := s.openAll whoFrontEnd ctx costs

/-- The walks to the pages in which n bytes lie. -/
def State.pageWalks (s : State) (ctx va n : Nat) : List (Nat × Nat) :=
  if s.metered ctx then
    (List.range ((va % 4096 + n + 4095) / 4096)).flatMap (fun i => s.walkCosts (s.ctxView ctx) (va / 4096 * 4096 + 4096 * i))
  else []

/-- What a record costs: it is written to memory and over the host link. -/
def State.recordCosts (s : State) (ctx va n : Nat) : List (Nat × Nat) := s.feCosts ctx va n ++ [(meterHost, n)]

/-- Write a record of the front end to a context's memory and over the host link; none while its page moves or does not
translate, or its meters are closed. -/
def State.writeOut (s : State) (ctx va : Nat) (bs : List Byte) : Option State :=
  let costs := s.recordCosts ctx va bs.length
  if s.feReady ctx costs && (List.range bs.length).all (fun i => s.feFinding ctx .write (wordOf (va + i)) != .pause) then
    (s.writeVa ctx va bs).map (fun s => s.countAll ctx costs)
  else none

/-- Retire the words of n bytes of a context's memory that fail ECC (R207). -/
def State.retireVa (s : State) (ctx va n : Nat) : State :=
  (List.range n).foldl (fun (s : State) i => match s.walk ctx (va + i) with
    | .ok p =>
      let pa := (physOf p (va + i) [0]).headD 0
      match s.devAddr ctx pa with
      | some a => s.retireBad a pa 1 State.badLine
      | none => s
    | _ => s) s

/-- The status record of a graph (R339). -/
def statusRecord (status node : Nat) (tag : Word) (flag0 : Bool) (fault : List Word) : List Byte :=
  leBytes status 4 ++ leBytes node 4 ++ leBytes tag.toNat 8 ++ leBytes flag0.toNat 4 ++ List.replicate 12 0 ++
    (fault.flatMap (fun (w : Word) => leBytes w.toNat 8) ++ List.replicate 32 0).take 32

/-- End the running graph of a queue: its status record is written, and then the job counter advances and the vector is
signalled (R339). While the record cannot be written the graph waits with it. -/
def State.finishGraph (s : State) (ctx q status node : Nat) (fault : List Word) : State :=
  let x := s.queueAt ctx q
  match x.run with
  | none => s
  | some r =>
    match s.writeOut ctx r.status.toNat (statusRecord status node r.tag r.flag0 fault) with
    | some s => (s.setQueue ctx q { x with run := none, completed := x.completed + 1 }).signalVector ctx x.vector
    | none => s.setQueue ctx q { x with run := some { r with node := node, wait := .status, ending := some (status, fault) } }

/-- Whether the status record of an ending graph can be written now. -/
def State.statusReady (s : State) (ctx : Nat) (r : GraphRun) : Bool :=
  (s.writeOut ctx r.status.toNat (List.replicate 64 0)).isSome

/-! Cancelling (R333). -/

/-- The firmware of a core whose task is cancelled: an activation that serves the task ends, one in the background goes on. -/
def Firmware.cancel (f : Firmware) : Firmware :=
  let f := { f with queue := f.queue.filter (fun e => !e.exclusive), held := none }
  if f.mode = .background then f
  else { f with mode := .idle, pend := [], xfers := [], issuing := false, event := none, segment := none, bmaps := [] }

/-- Cancel the task of a core in a cluster: nothing further issues, results are discarded, requests already sent go on; `fails`
tells what fails ECC in the cluster's banks. -/
def Core.cancelTask (c : Core) (cl : Cluster) (fails : Nat → Bool) : Core :=
  { c with
    issue := if c.fw.issuing && c.fw.mode == .background then c.issue else { Issue.none with seq := c.issue.seq }
    flow := { c.flow with pend := [], again := [], xfers := [], goto := none, wait := .none, finding := none, matched := [], noOps := false }
    loops := c.loops.clear
    press := { c.press with seqBeats := 0 }
    mem := { c.mem with loadQ := sentEntries c.mem.loadQ, storeQ := sentEntries c.mem.storeQ, segCopy := none, reload := none }
    eng := ({ c.eng with nests := [], sends := c.eng.sends.filter (fun x => x.departed.isSome) }).unbindAll cl fails
    fw := c.fw.cancel
    task := Task.none }

/-- Cancel the task of a core. -/
def State.cancelTask (s : State) (core : Nat) : State :=
  s.modCoreAt core (fun c => c.cancelTask (s.clusterAt (clusterOf core)) (s.entryFails (clusterOf core)))

/-- Cancel the tasks of a launch. -/
def State.cancelLaunch (s : State) (launch : Nat) : State :=
  (s.coresOf launch).foldl (fun (s : State) n =>
    let s := (s.cancelTask n).dropLeave (.core n)
    { s with colls := s.colls.filter (fun m => m.core != n) }) s

/-- The cores of a partition on a die, in ascending order (R335). -/
def State.allocation (s : State) (ctx die : Nat) : List Nat :=
  ((clusterList (s.partOf ctx)).filter (fun c => c / 8 == die)).flatMap clusterCores

/-- Entries left unread in the landing queues of some cores, and those on their way from them, are discarded (R326). -/
def State.dropLandings (s : State) (cores : List Nat) : State :=
  { s with cores := s.cores.map (fun p =>
    (p.1, if cores.contains p.1 then { p.2 with eng := { p.2.eng with landQ := [], sends := [] } } else p.2)) }

/-- The launches of a phase, by identifier. -/
def State.launchesOf (s : State) (phase : Nat) : List (Nat × Launch) := s.fe.launches.filter (fun p => p.2.phase == phase)

/-- Forget a phase: its launches, their pointers, its leave (R344), the entries its sends left unread (R326); changes
deferred to its end are made (R329). -/
def State.dropPhase (s : State) (phase : Nat) : State :=
  let ls := s.launchesOf phase
  let s := (ls.filter (fun l => l.2.timed)).foldl (fun (s : State) l => s.dropLandings (s.allocation l.2.ctx l.2.die)) s
  let s := ls.foldl (fun (s : State) p => s.modDieAt p.2.die (fun d =>
    { d with pointer := drop p.1 d.pointer, waiting := d.waiting.filter (· != 4 * p.2.ctx + p.2.cls) })) s
  let s := s.dropLeave (.phase phase)
  let s := { s with
    fe := { s.fe with launches := s.fe.launches.filter (fun p => p.2.phase != phase), phases := drop phase s.fe.phases
                      preempted := s.fe.preempted.filter (fun p => !ls.any (fun l => l.1 == p.task.launch))
                      banks := s.fe.banks.filter (fun b => !ls.any (fun l => l.1 == b.launch)) } }
  s.applyChanges s.mgmt.deferred

/-- Cancel a phase: every launch, then the phase. -/
def State.cancelPhase (s : State) (phase : Nat) : State :=
  ((s.launchesOf phase).foldl (fun (s : State) p => s.cancelLaunch p.1) s).dropPhase phase

/-- The phase that a queue's graph waits for. -/
def GraphRun.phase (r : GraphRun) : Option Nat :=
  match r.wait with
  | .phase id => some id
  | _ => none

/-! Completion records (R262, R263). -/

/-- The 32 bytes of a record, but for its sequence number. -/
def completionRecord (status code bytes : Nat) (tag : Word) : List Byte :=
  leBytes status 4 ++ leBytes code 1 ++ List.replicate 3 0 ++ leBytes bytes 8 ++ leBytes tag.toNat 8

/-- The word prod of a ring takes a value, in memory where the registration has put it there; none while it cannot be
written. -/
def State.writeProd (s : State) (ctx : Nat) (r : Ring) (prod : BitVec 32) : Option State :=
  let s := s.modCtxAt ctx (fun c => { c with ring := some { r with prod := prod } })
  match r.indices with
  | some a => s.writeOut ctx a.toNat (leBytes prod.toNat 4)
  | none => some s

/-- Put one record into a ring: bytes 24 to 27 hold its number. It is performed, and then prod advances and the vector is
signalled; none while it, or prod, cannot be written. -/
def State.putRecord (s : State) (ctx : Nat) (r : Ring) (rec : List Byte) : Option State :=
  let va := r.base.toNat + 32 * (r.prod.toNat % max 1 r.count)
  (s.writeOut ctx va (rec ++ leBytes r.prod.toNat 4 ++ List.replicate 4 0)).bind (fun s =>
    (s.writeProd ctx r (r.prod + 1)).map (fun s => s.signalVector ctx r.vector))

/-- Whether a ring is full. -/
def Ring.full (r : Ring) : Bool := decide (r.count ≤ (r.prod - r.cons).toNat)

/-- Write a record of a queue's node, or of a copy of the host; where the ring is full, or the record cannot be written, it
is held, and the answer says so (R263). A context without a ring gets no record. -/
def State.writeRecord (s : State) (ctx : Nat) (rec : List Byte) (q : Option Nat) : State × Bool :=
  match (s.ctxAt ctx).ring with
  | none => (s, false)
  | some r =>
    let written := if r.full || !r.held.isEmpty then none else s.putRecord ctx r rec
    match written with
    | some s => (s, false)
    | none => (s.modCtxAt ctx (fun c => { c with ring := some { r with held := r.held ++ [(rec, q)] } }), true)

/-- The state after the first held record of a context is written, if it can be, and the queue whose node it held. -/
def State.flushOne (s : State) (ctx : Nat) : Option (State × Option Nat) :=
  (s.ctxAt ctx).ring.bind (fun r => match r.held with
    | [] => none
    | x :: rest => if r.full then none else (s.putRecord ctx { r with held := rest } x.1).map (fun s => (s, x.2)))

/-- The word cons of a ring as it stands: in memory, where the registration has put it there (R263, log 79). -/
def State.ringCons (s : State) (ctx : Nat) (r : Ring) : BitVec 32 :=
  match r.indices with
  | some a => (s.readVa32 ctx (a.toNat + 4)).getD r.cons
  | none => r.cons

/-- The running graph of the queue that acts. -/
def State.run (s : State) : Option GraphRun := (s.queueAt s.fe.ctx s.fe.q).run
/-- Replace it. -/
def State.setRun (s : State) (r : GraphRun) : State :=
  s.setQueue s.fe.ctx s.fe.q { s.queueAt s.fe.ctx s.fe.q with run := some r }

/-- A node is complete, and the graph goes on with node i (R333). -/
def State.gotoNode (s : State) (r : GraphRun) (i : Nat) : State :=
  s.setRun { r with node := i, wait := .ready, done := r.done + 1 }

/-- The record that held a queue's node is written: the graph goes on, or ends as its node did (R263). -/
def State.recordDone (s : State) (ctx q : Nat) : State :=
  let s := { s with fe := { s.fe with ctx := ctx, q := q } }
  match s.run with
  | none => s
  | some r =>
    if r.wait ≠ .ring then s
    else
      match r.ending with
      | some (status, fault) => s.finishGraph ctx q status r.node fault
      | none => s.gotoNode r (r.node + 1)

/-- Write the held records that fit, in order; each lets its node go on. -/
def State.flushRecords (s : State) (ctx : Nat) : Nat → State
  | 0 => s
  | n + 1 =>
    match s.flushOne ctx with
    | none => s
    | some (s, none) => s.flushRecords ctx n
    | some (s, some q) => (s.recordDone ctx q).flushRecords ctx n

/-- cons takes a value, and the held records that fit are written. -/
def State.consume (s : State) (ctx : Nat) (cons : BitVec 32) : State :=
  match (s.ctxAt ctx).ring with
  | none => s
  | some r => (s.modCtxAt ctx (fun c => { c with ring := some { r with cons := cons } })).flushRecords ctx r.held.length

/-- COMPLETION_RING_RESUME: cons has been written by the host, or in memory by a graph node, or what held the first record
has ended; held records and their nodes go on (R263). -/
def execCompletionRingResume (s : State) : Out :=
  match s.req with
  | some (.completionRingResume ctx cons) =>
    let s := { s with req := none }
    match ((s.ctxAt ctx).ring.bind (fun r => r.indices)) with
    | some a => done (((s.writeVa ctx (a.toNat + 4) (leBytes cons.toNat 4)).map (fun s => s.consume ctx cons)).getD s)
    | none => done (s.consume ctx cons)
  | _ =>
    match (s.ctxAt s.fe.ctx).ring with
    | none => done s
    | some r => done (s.consume s.fe.ctx (s.ringCons s.fe.ctx r))

/-- Stop what the running node of a queue does: its phase, or its copy, which gets a record of a cancelled copy; the answer
says that the record is held. -/
def State.cancelNode (s : State) (ctx q : Nat) : State × Bool :=
  match (s.queueAt ctx q).run with
  | none => (s, false)
  | some r =>
    match r.wait with
    | .phase id => (s.cancelPhase id, false)
    | .copy =>
      let mine := s.fe.transfers.filter (fun t => t.ctx == ctx && t.q == some q)
      let s := { s with fe := { s.fe with transfers := s.fe.transfers.filter (fun t => !(t.ctx == ctx && t.q == some q)) } }
      mine.foldl (fun (p : State × Bool) t =>
        let (s, held) := p.1.writeRecord ctx (completionRecord 2 0 t.moved t.tag) (some q)
        (s, p.2 || held)) (s, false)
    | .ring => (s, true)
    | _ => (s, false)

/-- Cancel the running graph of a queue: status 2. One that is ending keeps its status; one whose node's record is held ends
once it is written. -/
def State.cancelRun (s : State) (ctx q : Nat) : State :=
  match (s.queueAt ctx q).run with
  | none => s
  | some r =>
    if r.ending.isSome then s
    else
      match s.cancelNode ctx q with
      | (s, true) => s.setQueue ctx q { s.queueAt ctx q with run := some { r with wait := .ring, ending := some (2, []) } }
      | (s, false) => s.finishGraph ctx q 2 r.node []

/-- CANCEL_GRAPH (R333, R338). -/
def execCancelGraph (s : State) : Out :=
  match s.req with
  | some (.cancelGraph part off) =>
    let s := { s with req := none }
    match s.barQueue part off 0x20 with
    | some (ctx, q) => done (s.cancelRun ctx q)
    | none => done s
  | _ => done s

/-- Cancel a job: the running graph, and the queued ones without status. -/
def State.cancelQueue (s : State) (ctx q : Nat) : State :=
  let s := s.cancelRun ctx q
  if s.hasCtx ctx then s.setQueue ctx q { s.queueAt ctx q with waiting := [] } else s

/-- CANCEL_JOB (R333, R338). -/
def execCancelJob (s : State) : Out :=
  match s.req with
  | some (.cancelJob part off) =>
    let s := { s with req := none }
    match s.barQueue part off 0x20 with
    | some (ctx, q) => done (s.cancelQueue ctx q)
    | none => done s
  | _ => done s

/-! The walk of a graph (R339 to R341). -/

/-- The address of a node, which can lie past 2^48. -/
def GraphRun.nodeAddr (r : GraphRun) (i : Nat) : Nat := r.header.toNat + 32 + 32 * i

/-- The address of a node as the registers and records hold it. -/
def GraphRun.nodeAddr48 (r : GraphRun) (i : Nat) : Addr := BitVec.ofNat 48 (r.nodeAddr i)

/-- The bytes of the current node; an address past 2^48 does not translate (R341). -/
def State.nodeBytes (s : State) (ctx : Nat) (r : GraphRun) : Fetched :=
  if 2 ^ 48 ≤ r.nodeAddr r.node then .fault 0x05 else s.fetchVa ctx (r.nodeAddr r.node) 32

/-- The record of a fault found by the front end (R268, R341). -/
def State.nodeRecord (s : State) (code : Nat) (addr : Addr) (vaddr : Word) : List Word :=
  faultRecord code 0xF false false false false 0 addr vaddr 0 s.ringTime

/-- Keep the last fault of a context (R346). -/
def State.keepFault (s : State) (ctx : Nat) (rec : List Word) : State := s.modCtxAt ctx (fun c => { c with lastFault := rec })

/-- The graph stops at its current node with a fault. -/
def State.nodeFault (s : State) (r : GraphRun) (code : Nat) (vaddr : Word) : State :=
  let rec_ := s.nodeRecord code (r.nodeAddr48 r.node) vaddr
  (s.keepFault s.fe.ctx rec_).finishGraph s.fe.ctx s.fe.q 1 r.node rec_

/-- Bytes i to i + n - 1 of a node are zero. -/
def zeroBytes (bs : List Byte) (i n : Nat) : Bool := fieldAt bs i n == 0

/-- Reserved bytes of a node by type (R340). -/
def nodeReservedOk (bs : List Byte) : Bool :=
  match fieldAt bs 0 1 with
  | 0 => zeroBytes bs 1 31
  | 1 => zeroBytes bs 1 7 && zeroBytes bs 17 15
  | 2 => zeroBytes bs 1 7 && zeroBytes bs 22 2 && decide (fieldAt bs 24 8 ≤ 2 ^ 40)
  | 3 => zeroBytes bs 1 7 && zeroBytes bs 24 8
  | 4 => zeroBytes bs 1 7 && zeroBytes bs 24 8 && fieldAt bs 16 4 != 0
  | 5 => zeroBytes bs 1 15 && zeroBytes bs 20 12
  | 6 => decide (fieldAt bs 1 1 ≤ 1) && zeroBytes bs 2 6 && zeroBytes bs 20 12
  | 7 => zeroBytes bs 1 7 && zeroBytes bs 20 12
  | _ => false

/-- A graph whose header cannot be used leaves its queue: bad address is set, and the job counter advances (R341). -/
def State.discardGraph (s : State) (ctx q : Nat) (x : Queue) (rest : List Addr) : State :=
  s.setQueue ctx q { x with waiting := rest, badAddr := true, completed := x.completed + 1 }

/-- Whether the address of a status record can be used: aligned, below 2^48, and it translates (R341); none while its page
moves. -/
def State.statusUsable (s : State) (ctx : Nat) (status : Word) : Option Bool :=
  if status.toNat % 64 ≠ 0 ∨ bits status 63 48 ≠ 0 then some false
  else
    match s.walk ctx status.toNat with
    | .ok p => some (s.devAddr ctx ((physOf p status.toNat [0]).headD 0)).isSome
    | .moving => none
    | _ => some false

/-- GRAPH_START: the header is read (R339, R341). It waits while the page of the header or of the status record moves
(R203); a header that fails ECC is discarded as one that does not translate, and the error is recorded (R207). -/
def execGraphStart (s : State) : Out :=
  let ctx := s.fe.ctx
  let q := s.fe.q
  let x := s.queueAt ctx q
  match x.waiting, x.run with
  | h :: rest, none =>
    match s.fetchVa ctx h.toNat 32 with
    | .pause => done s
    | .fault c =>
      let s := (s.countAll ctx (s.feCosts ctx h.toNat 32)).discardGraph ctx q x rest
      done (if c = 0x0D then (s.retireVa ctx h.toNat 32).contextError ctx else s)
    | .ok bs =>
      let status := wordOf (fieldAt bs 8 8)
      let tag := wordOf (fieldAt bs 16 8)
      let count := fieldAt bs 0 4
      let s := s.countAll ctx (s.feCosts ctx h.toNat 32)
      let x := s.queueAt ctx q
      match s.statusUsable ctx status with
      | none => done s
      | some false => done (s.discardGraph ctx q x rest)
      | some true =>
        let r : GraphRun := ⟨h, count, status.setWidth 48, tag, 0, [], false, .ready, false, 0, none⟩
        let s := s.setQueue ctx q { x with waiting := rest, run := some r }
        if count = 0 ∨ 65536 < count ∨ !zeroBytes bs 4 4 ∨ !zeroBytes bs 24 8 then
          let rec_ := s.nodeRecord 0x06 h 0
          done ((s.keepFault ctx rec_).finishGraph ctx q 1 0 rec_)
        else done s
  | _, _ => done s

/-- What bytes that the front end has read come to: the graph goes on with them, waits while their page moves, or stops; words
that fail ECC are retired (R203, R207, R341). -/
def State.withFetched (s : State) (r : GraphRun) (va n : Nat) (vaddr : Word) (k : State → List Byte → State) : Fetched → State
  | .ok bs => k (s.countAll s.fe.ctx (s.feCosts s.fe.ctx va n)) bs
  | .pause => s
  | .fault c => (if c = 0x0D then s.retireVa s.fe.ctx va n else s).nodeFault r c vaddr

/-- Bytes at an address, read so; the meters count them and the walk to them (R345). -/
def State.withBytes (s : State) (r : GraphRun) (va n : Nat) (vaddr : Word) (k : State → List Byte → State) : State :=
  s.withFetched r va n vaddr k (s.fetchVa s.fe.ctx va n)

/-- Run a node whose record can be read, is of the count and has no reserved field set; otherwise the graph stops. One that runs
past its last node stops with fault 0x06 (DESIGN CHOICE, log 59: R341 names this fault for an index that a node holds). A graph that
only waits to write its status record does so. -/
def State.withNode (s : State) (k : State → GraphRun → List Byte → State) : Out :=
  match s.run with
  | none => done s
  | some r =>
    match r.wait, r.ending with
    | .status, some (status, fault) => done (s.finishGraph s.fe.ctx s.fe.q status r.node fault)
    | _, _ =>
      if r.count ≤ r.node then done (s.nodeFault r 0x06 0)
      else done (s.withFetched r (r.nodeAddr r.node) 32 0 (fun s bs =>
        if nodeReservedOk bs then k s r bs else s.nodeFault r 0x06 0) (s.nodeBytes s.fe.ctx r))

/-- END_NODE: status 0; a reserved type or field stops the graph with fault 0x06. -/
def execEndNode (s : State) : Out := s.withNode (fun s r _ => s.finishGraph s.fe.ctx s.fe.q 0 r.node [])

/-- The predicate of a node: its word, or the graph stopped. -/
def State.withWord (s : State) (r : GraphRun) (va : Word) (k : State → BitVec 32 → State) : State :=
  match s.wordFinding s.fe.ctx .read va with
  | .fault c => s.nodeFault r c va
  | .pause => s
  | .ok => s.withBytes r va.toNat 4 va (fun s bs => k s (BitVec.ofNat 32 (leValue bs)))

/-- COND_NODE: both indices are checked (R341), after the predicate's address (log 59). -/
def execCondNode (s : State) : Out :=
  s.withNode (fun s r bs =>
    s.withWord r (wordOf (fieldAt bs 8 8)) (fun s p =>
      let tnz := fieldAt bs 16 4
      let tz := fieldAt bs 20 4
      if r.count ≤ tnz ∨ r.count ≤ tz then s.nodeFault r 0x06 0
      else s.gotoNode r (if p != 0 then tnz else tz)))

/-- LOOP_NODE (R341): the index is checked after the predicate's address (log 59). -/
def execLoopNode (s : State) : Out :=
  s.withNode (fun s r bs =>
    s.withWord r (wordOf (fieldAt bs 8 8)) (fun s p =>
      let top := fieldAt bs 16 4
      let last := fieldAt bs 20 4
      let n := find 0 r.node r.iters
      if r.count ≤ last then s.nodeFault r 0x06 0
      else if p = 0 ∨ n = top then
        s.gotoNode { r with iters := put r.node 0 r.iters, flag0 := r.flag0 || p != 0 } (last + 1)
      else s.gotoNode { r with iters := put r.node (n + 1) r.iters } (r.node + 1)))

/-- LOOP_END_NODE (R341). -/
def execLoopEndNode (s : State) : Out :=
  s.withNode (fun s r bs =>
    let i := fieldAt bs 16 4
    if r.count ≤ i then s.nodeFault r 0x06 0 else s.gotoNode r i)

/-- WAIT_NODE: the graph waits for a value in memory, or for ring time (R341). -/
def execWaitNode (s : State) : Out :=
  s.withNode (fun s r bs =>
    let x := wordOf (fieldAt bs 8 8)
    if fieldAt bs 1 1 = 1 then s.setRun { r with wait := .tick x }
    else s.withWord r x (fun s _ => s.setRun { r with wait := .mem (x.setWidth 48) (BitVec.ofNat 32 (fieldAt bs 16 4)) }))

/-- Whether what a graph waits for has come, or its word can no longer be read. -/
def State.waitOver (s : State) (ctx : Nat) (r : GraphRun) : Bool :=
  match r.wait with
  | .mem a v =>
    match s.fetchVa ctx a.toNat 4 with
    | .ok bs => BitVec.ofNat 32 (leValue bs) == v
    | .pause => false
    | .fault _ => true
  | .tick t => decide (t.toNat ≤ s.ringTime)
  | _ => false

/-- WAIT_SATISFIED (R341). -/
def execWaitSatisfied (s : State) : Out :=
  match s.run with
  | none => done s
  | some r =>
    if !s.waitOver s.fe.ctx r then done s
    else
      match r.wait with
      | .mem a _ => done (s.withBytes r a.toNat 4 (a.setWidth 64) (fun s _ => s.gotoNode r (r.node + 1)))
      | _ => done (s.gotoNode r (r.node + 1))

/-- SIGNAL_NODE: the word is performed at package scope (R341). -/
def execSignalNode (s : State) : Out :=
  s.withNode (fun s r bs =>
    let va := wordOf (fieldAt bs 8 8)
    match s.wordFinding s.fe.ctx .write va with
    | .fault c => s.nodeFault r c va
    | .pause => s
    | .ok =>
      match s.writeVa s.fe.ctx va.toNat (leBytes (fieldAt bs 16 4) 4) with
      | some s => (s.countAll s.fe.ctx (s.feCosts s.fe.ctx va.toNat 4)).gotoNode r (r.node + 1)
      | none => s.nodeFault r 0x05 va)

/-- COPY_NODE: the block transfer starts; its tag names the graph and the node (R341). -/
def execCopyNode (s : State) : Out :=
  s.withNode (fun s r bs =>
    let tag := wordOf (place (r.tag.toNat % 2 ^ 32) 32 + r.node)
    let t : Transfer :=
      ⟨s.fe.ctx, some s.fe.q, tag, wordOf (fieldAt bs 8 8), BitVec.ofNat 48 (fieldAt bs 16 6), fieldAt bs 24 8, 0⟩
    ({ s with fe := { s.fe with transfers := s.fe.transfers ++ [t] } }).setRun { r with wait := .copy })

/-- HOST_COPY (R262). -/
def execHostCopy (s : State) : Out :=
  match s.req with
  | some (.hostCopy c) =>
    let t : Transfer := ⟨c.ctx, none, c.tag, c.dst, c.src, c.count, 0⟩
    done { s with req := none, fe := { s.fe with transfers := s.fe.transfers ++ [t] } }
  | _ => done s

/-- Move bytes upward from byte i: how many have been written in all, and what stopped the copy: nothing, a page it must
wait for, or a fault. -/
def State.moveBytes (s : State) (ctx dst src : Nat) : Nat → Nat → State × Nat × Option (Option Nat)
  | 0, i => (s, i, none)
  | n + 1, i =>
    match s.feFinding ctx .read (wordOf (src + i)), s.feFinding ctx .write (wordOf (dst + i)) with
    | .ok, .ok =>
      match s.readVa ctx (src + i) 1 with
      | none => (s.retireVa ctx (src + i) 1, i, some (some 0x0D))
      | some bs =>
        match s.writeVa ctx (dst + i) bs with
        | some s =>
          ((s.feCount ctx (s.feMeters ctx (src + i)) 1).feCount ctx (s.feMeters ctx (dst + i)) 1).moveBytes ctx dst src n (i + 1)
        | none => (s, i, some (some 0x05))
    | .fault c, _ => (s, i, some (some c))
    | _, .fault c => (s, i, some (some c))
    | _, _ => (s, i, some none)

/-- The address a transfer writes from. -/
def Transfer.addr (t : Transfer) : Nat := bits t.dst 47 0
/-- The other module a transfer's destination lies on (R330; log 47). -/
def Transfer.far (t : Transfer) (s : State) : Option Nat :=
  if bits t.dst 63 48 = 0 ∨ bits t.dst 63 48 = s.moduleNo then none else some (bits t.dst 63 48)

/-- Read bytes upward from byte i for another module: the bytes, and what stopped the reading, as for moveBytes. -/
def State.readFar (s : State) (ctx src : Nat) : Nat → Nat → List Byte × Option (Option Nat)
  | 0, _ => ([], none)
  | n + 1, i =>
    match s.feFinding ctx .read (wordOf (src + i)) with
    | .ok =>
      match s.readVa ctx (src + i) 1 with
      | none => ([], some (some 0x0D))
      | some bs =>
        let y := s.readFar ctx src n (i + 1)
        (bs ++ y.1, y.2)
    | .fault c => ([], some (some c))
    | .pause => ([], some none)

/-- Whether the fabric takes a context's bytes to a module: it is reached, and the partition owns a port (R18). -/
def State.farReached (s : State) (ctx m : Nat) : Bool := s.reach.contains m && !(s.partOf ctx).fabricPorts.isEmpty

/-- The meters that count the bytes of a transfer beside those of its source and destination: the host link for a copy of
the host, and the link to the port and the port for one to another module (R9, R345). -/
def State.wayMeters (s : State) (t : Transfer) : List Nat :=
  (if t.q.isNone then [meterHost] else []) ++ (if (t.far s).isSome then [meterLink, meterFabric] else [])

/-- The meters that count the next bytes of a transfer, and the walks to them. -/
def State.transferMeters (s : State) (t : Transfer) : List Nat :=
  let at_ (va : Nat) : List Nat := s.feMeters t.ctx va ++ (s.pageWalks t.ctx va 1).map (fun x => x.1)
  s.wayMeters t ++ at_ (t.src.toNat + t.moved) ++ (if (t.far s).isSome then [] else at_ (t.addr + t.moved))

/-- Whether a transfer may run but for its meters: its next bytes do not wait for a page. One whose bytes have all gone to
another module waits for their acknowledgement (R331). -/
def State.transferFree (s : State) (t : Transfer) : Bool :=
  match t.far s with
  | none =>
    s.feFinding t.ctx .read (wordOf (t.src.toNat + t.moved)) != .pause &&
      s.feFinding t.ctx .write (wordOf (t.addr + t.moved)) != .pause
  | some m => !s.farReached t.ctx m ||
      (if t.moved < t.count then s.feFinding t.ctx .read (wordOf (t.src.toNat + t.moved)) != .pause
       else (s.port (s.sendPort t.ctx)).acked)

/-- The first transfer that may run: one that is free, and whose context's meters are open. -/
def State.readyTransfer (s : State) : Option Transfer :=
  s.fe.transfers.find? (fun t => s.transferFree t && s.feOpen t.ctx (s.transferMeters t))

/-- The writes and transfers of the front end that only meters hold up in a context (R345). -/
def State.feHeld (s : State) (ctx : Nat) : List (Nat × Nat) :=
  let closed (rs : List Nat) : List (Nat × Nat) := (rs.filter (fun r => !s.meterOpen whoFrontEnd ctx r)).map (fun r => (whoFrontEnd, r))
  let moves := (s.fe.transfers.filter (fun t => t.ctx == ctx && s.transferFree t)).flatMap (fun t => closed (s.transferMeters t))
  let ends := (s.ctxAt ctx).queues.flatMap (fun p => match p.2.run with
    | some r => if r.wait = .status then closed ((s.recordCosts ctx r.status.toNat 64).map (fun x => x.1)) else []
    | none => [])
  let recs := match (s.ctxAt ctx).ring with
    | some r =>
      if r.held.isEmpty || r.full then []
      else
        let places := (r.base.toNat + 32 * (r.prod.toNat % max 1 r.count)) :: (r.indices.map (fun a => a.toNat)).toList
        closed (places.flatMap (fun a => (s.recordCosts ctx a 4).map (fun x => x.1)))
    | none => []
  moves ++ ends ++ recs

/-- The graph of the queue that acts stops at its node with a fault, once the record of the node is written (R263). -/
def State.stopNode (s : State) (r : GraphRun) (code : Nat) (held : Bool) : State :=
  if held then
    let rec_ := s.nodeRecord code (r.nodeAddr48 r.node) 0
    (s.keepFault s.fe.ctx rec_).setRun { r with wait := .ring, ending := some (1, rec_) }
  else s.nodeFault r code 0

/-- The end of a transfer that left the list: its record is written, and its graph goes on, waits for the ring, or stops
with the copy's fault (R262, R263, R341). -/
def State.endTransfer (s : State) (t : Transfer) (n : Nat) (code : Option Nat) : State :=
  let (s, held) := s.writeRecord t.ctx (completionRecord (if code.isSome then 1 else 0) (code.getD 0) n t.tag) t.q
  match t.q with
  | none => s
  | some q =>
    let s := { s with fe := { s.fe with ctx := t.ctx, q := q } }
    match s.run with
    | none => s
    | some r =>
      match code with
      | some c => s.stopNode r c held
      | none => if held then s.setRun { r with wait := .ring } else s.gotoNode r (r.node + 1)

/-- A transfer to another module, which left the list: its bytes go as remote writes to the partition of the same number
(R330); it ends once they are acknowledged, or at a fault. -/
def State.farTransfer (s : State) (t : Transfer) (m : Nat) : State :=
  if !s.farReached t.ctx m then s.endTransfer t t.moved (some 0x05)
  else if t.count ≤ t.moved then s.endTransfer t t.moved none
  else
    let (bs, stop) := s.readFar t.ctx t.src.toNat (t.count - t.moved) t.moved
    let n := bs.length
    let s := s.sendMessage (s.sendPort t.ctx) 2 m (s.ctxAt t.ctx).part (bits t.tag 31 0) (n + 1) (t.addr + t.moved) bs
    let s := (List.range n).foldl
      (fun (s : State) i => s.feCount t.ctx (s.feMeters t.ctx (t.src.toNat + t.moved + i)) 1) s
    let s := (s.feCount t.ctx (s.wayMeters t) n).countAll t.ctx (s.pageWalks t.ctx (t.src.toNat + t.moved) n)
    match stop with
    | some (some c) =>
      (if c = 0x0D then s.retireVa t.ctx (t.src.toNat + t.moved + n) 1 else s).endTransfer t (t.moved + n) (some c)
    | _ => { s with fe := { s.fe with transfers := { t with moved := t.moved + n } :: s.fe.transfers } }

/-- BLOCK_TRANSFER_COMPLETE: a transfer is performed and its record written (R262). A transfer that meets a page that
moves waits there (R203). -/
def execBlockTransferComplete (s : State) : Out :=
  match s.readyTransfer with
  | none => done s
  | some t =>
    let s := { s with fe := { s.fe with transfers := s.fe.transfers.erase t } }
    match t.far s with
    | some m => done (s.farTransfer t m)
    | none =>
      let (s, n, stop) := s.moveBytes t.ctx t.addr t.src.toNat (t.count - t.moved) t.moved
      let s := s.feCount t.ctx (s.wayMeters t) (n - t.moved)
      let s := s.countAll t.ctx (s.pageWalks t.ctx (t.src.toNat + t.moved) (n - t.moved) ++
        s.pageWalks t.ctx (t.addr + t.moved) (n - t.moved))
      if stop = some none then done { s with fe := { s.fe with transfers := { t with moved := n } :: s.fe.transfers } }
      else done (s.endTransfer t n (stop.getD none))

/-! Phases (R335, R336, R340, R341). -/

/-- R341: a mask names at least one die, only dies of the partition, and one for a cluster-granular partition. -/
def State.maskOk (s : State) (ctx : Nat) (m : BitVec 8) : Bool :=
  let r := s.partOf ctx
  let ds := maskDies m
  !ds.isEmpty && ds.all (fun d => (dieList r).contains d && !(s.dieAt d).fenced) && (!r.dies.isEmpty || ds.length == 1)

/-- R336: the checks of a launch record. -/
def launchRecordOk (bs : List Byte) : Bool :=
  let f (i n : Nat) : Nat := fieldAt bs i n
  let timed := f 22 1 == 1
  let base := f 32 4 % 2 ^ 12
  let depth := f 32 4 / 2 ^ 16
  decide (f 0 8 < 2 ^ 48) && decide (f 8 8 < 2 ^ 48) && f 16 2 != 0 && f 18 2 != 0 && f 20 2 != 0 && decide (f 22 1 ≤ 1) &&
    decide (f 23 1 ≤ 4) && decide (1 ≤ f 28 4) && decide (f 28 4 ≤ 65536) && f 26 2 == 0 && f 40 8 == 0 && f 48 8 == 0 &&
    f 56 8 == 0 && (timed || (f 23 1 == 0 && f 36 4 == 0)) &&
    (f 32 4 == 0 || (decide (f 32 4 < 2 ^ 27) && f 32 4 / 2 ^ 12 % 2 ^ 4 == 0 && decide (1 ≤ depth) && decide (depth ≤ 1024) &&
      decide (base + depth ≤ 4096)))

/-- A launch from its record. -/
def launchOfRecord (bs : List Byte) (id phase ctx part cls die : Nat) : Launch :=
  let f (i n : Nat) : Nat := fieldAt bs i n
  { id := id, phase := phase, ctx := ctx, part := part, cls := cls, die := die, timed := f 22 1 == 1
    entry := BitVec.ofNat 48 (f 0 6), params := BitVec.ofNat 48 (f 8 6), ex := f 16 2, ey := f 18 2, ez := f 20 2
    duty := f 23 1, burst := f 36 4, cadence := f 28 4, bwin := BitVec.ofNat 32 (f 32 4)
    next := 0, done := 0, reserved := [], cancelled := false, lambda := [], interval := [] }

/-- Tiles of a launch. -/
def Launch.total (l : Launch) : Nat := l.ex * l.ey * l.ez

/-- PHASE_NODE: the launch starts on every die of the mask, or the phase ends at its start (R335, R336, R341). The mask is checked
before the launch record (log 59). -/
def execPhaseNode (s : State) : Out :=
  s.withNode (fun s r bs =>
    let ctx := s.fe.ctx
    let mask : BitVec 8 := BitVec.ofNat 8 (fieldAt bs 16 1)
    let rec_ := wordOf (fieldAt bs 8 8)
    if !s.maskOk ctx mask then s.nodeFault r 0x06 0
    else
      match s.feFinding ctx .read rec_ with
      | .fault c => s.nodeFault r c rec_
      | .pause => s
      | .ok =>
        s.withBytes r rec_.toNat 64 rec_ (fun s lb =>
          let id := s.fe.nextId
          let dies := maskDies mask
          let ls := dies.map (fun d => (id + 1 + d, launchOfRecord lb (id + 1 + d) id ctx (s.ctxAt ctx).part s.fe.q d))
          let sized := ls.all (fun p => !p.2.timed || p.2.total == (s.allocation ctx p.2.die).length)
          if rec_.toNat % 64 ≠ 0 ∨ launchRecordOk lb = false ∨ sized = false then s.nodeFault r 0x06 rec_
          else
            let timed := fieldAt lb 22 1 == 1
            let ph : Phase := ⟨id, ctx, s.fe.q, rec_.setWidth 48, r.nodeAddr48 r.node, mask, timed, false, false, none, none, false⟩
            let s := ls.foldl (fun (s : State) p => s.modDieAt p.2.die (fun d =>
              { d with pointer := put p.1 (((clusterList (s.partOf ctx)).filter (fun c => c / 8 == p.2.die)).headD 0) d.pointer })) s
            let s := { s with fe := { s.fe with
              nextId := id + 16, phases := put id ph s.fe.phases
              launches := ls.foldl (fun (st : Store Launch) (p : Nat × Launch) => put p.1 p.2 st) s.fe.launches } }
            s.setRun { r with wait := .phase id }))

/-- The node type that the front end would run next for a queue, when its record can be read. -/
def State.nodeType (s : State) (ctx : Nat) (r : GraphRun) : Option Nat :=
  if r.count ≤ r.node then none
  else (s.nodeBytes ctx r).bytes.bind (fun bs => if nodeReservedOk bs then some (fieldAt bs 0 1) else none)

/-- Whether a node waits for a page that moves: its own, or the one it names. -/
def State.nodePaused (s : State) (ctx : Nat) (r : GraphRun) : Bool :=
  match s.nodeBytes ctx r with
  | .pause => true
  | .fault _ => false
  | .ok bs =>
    let va := wordOf (fieldAt bs 8 8)
    match fieldAt bs 0 1 with
    | 1 | 3 | 4 => s.feFinding ctx .read va == .pause
    | 6 => fieldAt bs 1 1 == 0 && s.feFinding ctx .read va == .pause
    | 7 => s.feFinding ctx .write va == .pause
    | _ => false

/-- What running the node that a queue stands at costs: its record, and the word or launch record that it names (R345,
log 44). -/
def State.nodeCosts (s : State) (ctx : Nat) (r : GraphRun) : List (Nat × Nat) :=
  s.feCosts ctx (r.nodeAddr r.node) 32 ++ (match s.nodeBytes ctx r with
    | .ok bs =>
      let va := fieldAt bs 8 8
      match fieldAt bs 0 1 with
      | 1 => s.feCosts ctx va 64
      | 3 | 4 | 7 => s.feCosts ctx va 4
      | 6 => if fieldAt bs 1 1 = 0 then s.feCosts ctx va 4 else []
      | _ => []
    | _ => [])

/-- The row of the node a queue stands at. A node that cannot be run stops its graph in the row of an end node. -/
def nodeRow : Option Nat → Instr
  | some 1 => .phaseNode
  | some 2 => .copyNode
  | some 3 => .condNode
  | some 4 => .loopNode
  | some 5 => .loopEndNode
  | some 6 => .waitNode
  | some 7 => .signalNode
  | _ => .endNode

/-- Whether a graph that is to start waits for the page of its header, or of its status record. -/
def State.headerPaused (s : State) (ctx : Nat) (h : Addr) : Bool :=
  match s.fetchVa ctx h.toNat 32 with
  | .pause => true
  | .fault _ => false
  | .ok bs => (s.statusUsable ctx (wordOf (fieldAt bs 8 8))).isNone

/-- A context whose held records can go on: cons has changed in memory, or the first one can be written (R263). -/
def State.ringReady (s : State) : Option Nat :=
  (s.contexts.find? (fun p => match p.2.ring with
    | none => false
    | some r => s.ringCons p.1 r != r.cons || (s.flushOne p.1).isSome)).map (fun p => p.1)

/-- The row of a queue, if it can go on but for its meters. No graph starts in a context that is leaving (R355). -/
def State.queueRowFree (s : State) (ctx q : Nat) : Option Instr :=
  let x := s.queueAt ctx q
  match x.run with
  | none => match x.waiting with
    | [] => none
    | h :: _ => if s.headerPaused ctx h || s.mgmt.leaving.contains ctx then none else some .graphStart
  | some r =>
    match r.wait with
    | .status => if s.statusReady ctx r then some .endNode else none
    | .ready => if s.nodePaused ctx r then none else some (nodeRow (s.nodeType ctx r))
    | .mem _ _ | .tick _ => if s.waitOver ctx r then some .waitSatisfied else none
    | _ => none

/-- What the next row of a queue reads or writes, but for records (R345). -/
def State.queueCosts (s : State) (ctx q : Nat) : List (Nat × Nat) :=
  let x := s.queueAt ctx q
  match x.run with
  | none => match x.waiting with
    | [] => []
    | h :: _ => s.feCosts ctx h.toNat 32
  | some r =>
    match r.wait with
    | .ready => s.nodeCosts ctx r
    | .mem a _ => s.feCosts ctx a.toNat 4
    | _ => []

/-- The row of a queue, if it can go on. -/
def State.queueRow (s : State) (ctx q : Nat) : Option Instr :=
  (s.queueRowFree ctx q).bind (fun i => if s.feReady ctx (s.queueCosts ctx q) then some i else none)

/-- The reads of graphs that only meters hold up in a context (R345). -/
def State.graphHeld (s : State) (ctx : Nat) : List (Nat × Nat) :=
  (List.range 4).flatMap (fun q =>
    if (s.queueRowFree ctx q).isSome then
      (s.closedAt whoFrontEnd ctx (s.queueCosts ctx q)).map (fun r => (whoFrontEnd, r))
    else [])

/-! Starting a task (R41, R45, R115, R319). -/

/-- The tile coordinate of an index (R116). -/
def Launch.coord (l : Launch) (t : Nat) : Word :=
  wordOf (t % l.ex + place (t / l.ex % l.ey) 16 + place (t / (l.ex * l.ey)) 32)

/-- The registers at task start: the control registers of the context stay. -/
def Regs.start (r : Regs) (l : Launch) (t : Nat) : Regs :=
  let keep := r.csr.filter (fun p => decide (0x100 ≤ p.1))
  let csr := put 0x004 (l.bwin.setWidth 64) (put 0x005 (l.coord t) (put 0x006 (l.params.setWidth 64) keep))
  { a := [], v := [], k := [], vflags := 0, csr := csr, rb := 0, trellis := [] }

/-- A core at the start of tile t of a launch, with phase start S. Blocks that its cluster filled before, up to the stamp
given, are not hit any more: the task sees what earlier phases wrote (R234). -/
def Core.startTask (c : Core) (l : Launch) (t : Nat) (start : Word) (stamp : Nat) : Core :=
  { c with
    regs := c.regs.start l t
    loops := ⟨[], [], [], none⟩
    press := Press.clear
    flow := ⟨c.flow.pos, some l.entry, [], 0, none, 0, [], [], .none, none, [], false⟩
    issue := { Issue.none with seq := c.issue.seq }
    mem := { c.mem with loadQ := [], storeQ := [], refill := stamp, reload := none }
    eng := ⟨[], [], [], [], [], [], if l.timed then [] else c.eng.landQ, [], [], []⟩
    task := { Task.none with
      status := .running, launch := l.id, tile := t, timed := l.timed, duty := l.duty, burst := l.burst, leave := l.timed
      start := start, cadence := BitVec.ofNat 17 l.cadence }
    flight := ⟨[], 0, [], 0, 0, 0, 0, [], [], c.flight.fault⟩ }

/-- Launches other than those given lose their reservation of some cores. -/
def State.unreserve (s : State) (cores : List Nat) (keep : Launch → Bool) : State :=
  { s with fe := { s.fe with launches := s.fe.launches.map (fun (p : Nat × Launch) =>
    (p.1, if keep p.2 then p.2 else { p.2 with reserved := p.2.reserved.filter (fun n => !cores.contains n) })) } }

/-- Start a task on a core, which is reserved to nobody then. The banks that pre-empted tasks of other launches left in its
cluster are saved (R284, log 64). -/
def State.startTask (s : State) (core : Nat) (l : Launch) (t : Nat) (start : Word) : State :=
  let stamp := (s.clusterAt (clusterOf core)).stamp
  let s := (s.saveBanks (clusterOf core) (some l.id)).modCoreAt core (fun c => c.startTask l t start stamp)
  (s.loadProgram core l.ctx l.entry l.entry).unreserve [core] (fun _ => false)

/-! Dispatch of free tasks (R116, R342). -/

/-- Whether a core has no task and nothing of its last one is under way: requests and copies of a task that was cancelled or
met a fault go on, and until they end the core is given no task (DESIGN CHOICE, log 94: R116 has a core idle from a launch's
start, R75 and R333 let what was sent go on, and nothing says which comes first). -/
def Core.idle (c : Core) : Bool :=
  c.task.status == .idle && c.fw.mode != .exclusive && !c.fwHolds && c.eng.copies.isEmpty && c.eng.contribs.isEmpty &&
    c.eng.sends.isEmpty && c.mem.storeQ.isEmpty && c.mem.loadQ.isEmpty && !c.eng.drains

/-- Whether the cluster of a core serves a context, or may pass to it: none of its cores has a task (R206, log 22). -/
def State.clusterOpen (s : State) (core ctx : Nat) : Bool :=
  let cl := clusterOf core
  (s.clusterAt cl).ctx == some ctx || (clusterCores cl).all (fun n => (s.coreAt n).idle)

/-- Timed phases that wait for their start. -/
def State.timedWaiting (s : State) : List Phase :=
  (s.fe.phases.map (fun p => p.2)).filter (fun p => p.timed && p.start.isNone && !p.cancelled)

/-- Whether phase x goes before phase y: by class, then by submission. -/
def Phase.before (x y : Phase) : Bool := decide (x.q < y.q) || (x.q == y.q && decide (x.id < y.id))

/-- The one timed phase of its partition that reserves cores (R343). -/
def State.reserving (s : State) (p : Phase) : Bool :=
  (s.timedWaiting).all (fun x => x.id == p.id || (s.ctxAt x.ctx).part != (s.ctxAt p.ctx).part || p.before x)

/-- The timed launches to which a core of their allocation is reserved as soon as it becomes idle: those of the phases that
reserve cores now (R343). -/
def State.reservers (s : State) (core : Nat) : List Launch :=
  (s.fe.launches.map (fun p => p.2)).filter (fun l => l.timed && (s.allocation l.ctx l.die).contains core &&
    ((find? l.phase s.fe.phases).map (fun p => p.start.isNone && !p.cancelled && s.reserving p)).getD false)

/-- Whether a core may be given a task of a free launch: it is idle (R116), in a cluster that serves the launch's context or may
pass to it (R206), and reserved to none but launches of lower priority (R343). -/
def State.usable (s : State) (core : Nat) (l : Launch) : Bool :=
  (s.coreAt core).idle && s.clusterOpen core l.ctx && (s.reservers core).all (fun r => decide (l.cls < r.cls))

/-- Free launches of a die with a task that waits. -/
def State.waitingLaunches (s : State) (die : Nat) : List Launch :=
  (s.fe.launches.map (fun p => p.2)).filter (fun l => l.die == die && !l.timed && !l.cancelled && decide (l.next < l.total))

/-- The core that the next task of a launch goes to (R116): the first cluster at or after the pointer with a usable core,
its lowest one. -/
def State.coreFor (s : State) (l : Launch) : Option Nat :=
  let cls := (clusterList (s.partOf l.ctx)).filter (fun c => c / 8 == l.die)
  let p := find 0 l.id (s.dieAt l.die).pointer
  let order := cls.filter (fun c => decide (p ≤ c)) ++ cls.filter (fun c => decide (c < p))
  order.findSome? (fun c => (clusterCores c).find? (fun n => s.usable n l))

/-- The key of a context and class. -/
def creditKey (l : Launch) : Nat := 4 * l.ctx + l.cls

/-- The waiting launches of a class on a die: each context's credit rises at a choice in its class, whether or not a core is
usable for it (R342). -/
def State.waitingClass (s : State) (die cls : Nat) : List Launch := (s.waitingLaunches die).filter (fun l => l.cls == cls)

/-- The launches the dispatcher of a die chooses among: of those whose allocation has a core for a task, the ones of the
highest class (R342, log 22). -/
def State.contenders (s : State) (die : Nat) : List Launch :=
  let w := (s.waitingLaunches die).filter (fun l => (s.coreFor l).isSome)
  match minOf (w.map (fun l => l.cls)) with
  | none => []
  | some c => w.filter (fun l => l.cls == c)

/-- The credit of a contender at a choice, raised by its share. -/
def State.raised (s : State) (die : Nat) (l : Launch) : Int :=
  let d := s.dieAt die
  let old := if d.waiting.contains (creditKey l) then find 0 (creditKey l) d.credit else 0
  old + ((s.ctxAt l.ctx).share : Int)

/-- The launch of the highest credit, ties to the lowest context. -/
def bestLaunch (f : Launch → Int) : List Launch → Option Launch
  | [] => none
  | x :: r =>
    match bestLaunch f r with
    | none => some x
    | some y => if f y < f x ∨ (f x = f y ∧ x.ctx < y.ctx) then some x else some y

/-- The choice of a die's dispatcher: a core and a launch (R116, R342). -/
def State.dispatchChoice (s : State) (die : Nat) : Option (Nat × Nat) :=
  match bestLaunch (s.raised die) (s.contenders die) with
  | none => none
  | some l => (s.coreFor l).map (fun n => (n, l.id))

/-- The cluster after one in a launch's allocation, wrapping. -/
def State.clusterAfter (s : State) (l : Launch) (cl : Nat) : Nat :=
  let cls := (clusterList (s.partOf l.ctx)).filter (fun c => c / 8 == l.die)
  (cls.find? (fun c => decide (cl < c))).getD (cls.headD 0)

/-- TASK_DISPATCH: the next task of a free launch starts on a core; credits and the pointer move (R115, R116, R342). -/
def execTaskDispatch (core launch : Nat) (s : State) : Out :=
  match find? launch s.fe.launches with
  | none => done s
  | some l =>
    let die := l.die
    let cs := s.waitingClass die l.cls
    let total := (cs.map (fun c => (s.ctxAt c.ctx).share)).sum
    let new := ((s.waitingLaunches die).map creditKey).filter (fun k => !(s.dieAt die).waiting.contains k)
    let credit := cs.foldl (fun st c =>
      let x := s.raised die c
      put (creditKey c) (if c.id = launch then x - (total : Int) else x) st)
      (new.foldl (fun st k => put k 0 st) (s.dieAt die).credit)
    let pointer := put launch (s.clusterAfter l (clusterOf core)) (s.dieAt die).pointer
    let s := s.startTask core l l.next 0
    let s := { s with fe := { s.fe with launches := put launch { l with next := l.next + 1 } s.fe.launches } }
    let waiting := (s.waitingLaunches die).map creditKey
    done (s.modDieAt die (fun d => { d with credit := credit, pointer := pointer, waiting := waiting }))

/-! Contexts on clusters (R194, R206, R278, R285). -/

/-- The privileged registers that a context gives a core. -/
def Context.csrs (c : Context) (id : Nat) : Store Word :=
  [(0x100, c.feat.setWidth 64), (0x101, c.safebound.setWidth 64),
   (0x102, wordOf (id % 4096 + place c.key.toNat 12 + place c.seed.toNat 32))]

/-- The words of a cluster's banks and of its cores' instruction memory that hold good data again when they are cleared. -/
def mendCluster (cl : Nat) (l : List SoftPlace) : List SoftPlace :=
  l.filter (fun p => match p with
    | .bank c _ => c != cl
    | .cached c _ => c != cl
    | .code n _ _ => clusterOf n != cl
    | _ => true)

/-- Saved banks that resumed tasks wait for come back to their cluster (R286). -/
def State.dueBanks (s : State) (cl ctx : Nat) : State :=
  (s.fe.banks.filter (fun b => b.due && b.ctx == ctx && b.cluster == cl)).foldl State.returnBanks s

/-- A cluster's cores take the privileged registers of a context, and forget code and descriptors. -/
def State.giveRegisters (s : State) (cl ctx : Nat) : State :=
  let csrs := (s.ctxAt ctx).csrs ctx
  (clusterCores cl).foldl (fun (s : State) n => s.modCoreAt n (fun c =>
    { c with
      regs := { c.regs with csr := csrs.foldl (fun (st : Store Word) (p : Nat × Word) => put p.1 p.2 st) (c.regs.csr.filter (fun p => decide (p.1 < 0x110))) }
      mem := { c.mem with descs := [], code := [], stale := [], segAddr := 0, segCount := 0, pages := [], segHalves := []
                          segCopy := none, reload := none } })) s

/-- CONTEXT_CHANGE: the acting core's cluster passes to the context that the front end names: dirty bytes are written back, as
far as meters let them go; once none is left the banks are cleared and set to cache mode, and the cores take the context's
registers (R206, R345). -/
def execContextChange (s : State) : Out :=
  let cl := clusterOf s.cur
  let ctx := s.fe.ctx
  let s := s.flushOpen whoFrontEnd cl
  if !(s.clusterAt cl).allDirty.isEmpty then done s
  else
    let s := (s.saveBanks cl none).dropCache cl
    let s := s.modClusterAt cl (fun c => { c with modes := [], sram := [], switching := [], ctx := some ctx })
    let s := ({ s with bad := mendCluster cl s.bad } : State).dueBanks cl ctx
    done (s.giveRegisters cl ctx)

/-! Timed launches (R318, R328, R343). -/

/-- Whether a launch has all its cores. -/
def State.allReserved (s : State) (l : Launch) : Bool :=
  (s.allocation l.ctx l.die).all (fun n => l.reserved.contains n && (s.coreAt n).idle)

/-- Whether every launch of a phase has all its cores. -/
def State.phaseReserved (s : State) (p : Phase) : Bool := (s.launchesOf p.id).all (fun x => s.allReserved x.2)

/-- A core to reserve, with its launch; where a phase has all its cores and has not asked for leave, one of them, so that it
asks (R343). -/
def State.reserveChoice (s : State) : Option (Nat × Nat) :=
  ((s.timedWaiting).filter s.reserving).findSome? (fun p =>
    let asks := !p.asked && s.phaseReserved p
    (s.launchesOf p.id).findSome? (fun l =>
      ((s.allocation p.ctx l.2.die).find? (fun n => asks || ((s.coreAt n).idle && !l.2.reserved.contains n))).map
        (fun n => (n, l.1))))

/-- The allowance of a timed phase in milliwatts (R344). -/
def State.timedAllowance (s : State) (p : Phase) : Nat :=
  ((s.launchesOf p.id).map (fun l => (s.allocation p.ctx l.2.die).length * (220 * l.2.duty + 2 * l.2.burst))).sum

/-- TIMED_LAUNCH_RESERVATION: a core is reserved to a timed launch, and other waiting phases of the partition hold none; once
the phase has all its cores, it asks for leave (R343). -/
def execTimedLaunchReservation (core launch : Nat) (s : State) : Out :=
  match find? launch s.fe.launches with
  | none => done s
  | some l =>
    let l' := { l with reserved := if l.reserved.contains core then l.reserved else l.reserved ++ [core] }
    let s := { s with fe := { s.fe with launches := put launch l' s.fe.launches } }
    let s := s.unreserve ((List.range 8).flatMap (s.allocation l.ctx)) (fun x => x.phase == l.phase)
    match find? l.phase s.fe.phases with
    | none => done s
    | some p =>
      if p.asked || !s.phaseReserved p then done s
      else
        let w : LeaveRequest := ⟨.phase p.id, true, p.q, s.timedAllowance p⟩
        done { s with fe := { s.fe with phases := put p.id { p with asked := true } s.fe.phases }
                      gov := { s.gov with waiting := s.gov.waiting ++ [w] } }

/-- A timed phase that may start: leave is granted, its cores are reserved, its dies are at nominal (R318). -/
def State.startable (s : State) : Option Phase :=
  (s.timedWaiting).find? (fun p => p.granted && s.reserving p && s.phaseReserved p &&
    (maskDies p.mask).all (fun d => (s.dieAt d).point == 0))

/-- A cluster of a phase that another context had last. -/
def State.foreignCluster (s : State) (p : Phase) : Option Nat :=
  (((maskDies p.mask).flatMap (fun d => s.allocation p.ctx d)).find? (fun n => (s.clusterAt (clusterOf n)).ctx != some p.ctx)).map
    (fun n => n / 8 * 8)

/-- λ and I of the route between two dies as the links stand; I is rounded up at a width that does not divide it
(R325, R329; log 34). -/
def State.routeOf (s : State) (a b : Nat) : Nat × Nat :=
  if a = b then (4, 1)
  else if s.ringOpen a b then (let w := max 1 (find 16 (ringLink a b) s.mgmt.widths); (24, (64 + w - 1) / w))
  else (40, 16)

/-- TIMED_PHASE_START: S is chosen, the routes are fixed, and every task starts (R319, R328, R335, R343). -/
def execTimedPhaseStart (phase : Nat) (s : State) : Out :=
  match find? phase s.fe.phases with
  | none => done s
  | some p =>
    let dies := maskDies p.mask
    let e := (dies.map s.ringEstimate).foldl max 0
    let start := (e + 1024 + 63) / 64 * 64
    let routes (f : Nat × Nat → Nat) : Store Nat :=
      (dies.flatMap (fun a => dies.map (fun b => (8 * a + b, f (s.routeOf a b))))).foldl (fun st x => put x.1 x.2 st) []
    let ls := (s.launchesOf phase).map (fun l =>
      { l.2 with lambda := routes (fun x => x.1), interval := routes (fun x => x.2), reserved := [], next := l.2.total })
    let s := { s with fe := { s.fe with
      phases := put phase { p with start := some start } s.fe.phases
      launches := ls.foldl (fun st l => put l.id l st) s.fe.launches } }
    done (ls.foldl (fun (s : State) l => (s.allocation p.ctx l.die).zipIdx.foldl
      (fun (s : State) x => s.startTask x.1 l x.2 (wordOf start)) s) s)

/-! Leave (R15, R344). -/

/-- Milliwatts reserved. -/
def Governor.reserved (g : Governor) : Nat := (g.held.map (fun r => r.milliwatts)).sum
/-- The limit of R15 in milliwatts. -/
def powerLimit : Nat := 3600000
/-- Whether a request fits. -/
def Governor.fits (g : Governor) (r : LeaveRequest) : Bool := decide (g.draw + g.reserved + r.milliwatts ≤ powerLimit)

/-- Requests in the order of service: timed by class, then free by class, each in order of arrival. -/
def Governor.order (g : Governor) : List LeaveRequest :=
  ((List.range 4).flatMap (fun c => g.waiting.filter (fun r => r.timed && r.cls == c))) ++
    ((List.range 4).flatMap (fun c => g.waiting.filter (fun r => !r.timed && r.cls == c)))

/-- The first request that fits and is not held back by an earlier one of its class. -/
def Governor.pick (g : Governor) : List Nat → List LeaveRequest → Option LeaveRequest
  | _, [] => none
  | blocked, r :: rest =>
    if blocked.contains r.cls then g.pick blocked rest
    else if g.fits r then some r
    else g.pick (r.cls :: blocked) rest

/-- The request that is granted next. -/
def Governor.next (g : Governor) : Option LeaveRequest := if g.trip then none else g.pick [] g.order

/-- LEAVE_GRANT (R97, R344). -/
def execLeaveGrant (s : State) : Out :=
  match s.gov.next with
  | none => done s
  | some r =>
    let s := { s with gov := { s.gov with held := s.gov.held ++ [r], waiting := s.gov.waiting.erase r } }
    match r.owner with
    | .core n => done (s.modCoreAt n (fun c => { c with task := { c.task with leave := true, leaveAsked := false } }))
    | .phase id =>
      match find? id s.fe.phases with
      | none => done s
      | some p => done { s with fe := { s.fe with phases := put id { p with granted := true } s.fe.phases } }

/-- THERMAL_TRIP: no leave is granted, and the die's clock is lowered; the change waits for timed phases on the die (R16,
R329). The operating point taken is 1 (DESIGN CHOICE, log 77: R16 says no more than that the clock is lowered). -/
def execThermalTrip (s : State) : Out :=
  match s.req with
  | some (.thermalTrip die) =>
    let s := s.modDieAt die (fun d => { d with trip := true })
    done { s with req := none, gov := { s.gov with trip := true }
                  mgmt := { s.mgmt with requests := s.mgmt.requests ++ [.clock die 1] } }
  | _ => done s

/-- THERMAL_TRIP_CLEAR: leave is granted again when no die is tripped (R344). The die's clock goes back to operating point 0,
whatever SETCLK had set before (DESIGN CHOICE, log 77: the spec does not say whether it goes back, and to what). -/
def execThermalTripClear (s : State) : Out :=
  match s.req with
  | some (.thermalTripClear die) =>
    let s := s.modDieAt die (fun d => { d with trip := false })
    let tripped := (List.range 13).any (fun d => (s.dieAt d).trip)
    done { s with req := none, gov := { s.gov with trip := tripped }
                  mgmt := { s.mgmt with requests := s.mgmt.requests ++ [.clock die 0] } }
  | _ => done s

/-! The end of tasks and phases (R95, R116, R326, R333, R334). -/

/-- Whether a halted task has nothing left (R95, R234, R326). -/
def State.complete (s : State) (core : Nat) : Bool :=
  let c := s.coreAt core
  c.task.status == .halted && c.issue.stage == .closed && !c.inFlight && c.mem.loadQ.isEmpty && c.mem.storeQ.isEmpty &&
    c.eng.nests.isEmpty && c.eng.copies.isEmpty && c.eng.contribs.isEmpty && c.eng.sends.isEmpty &&
    !c.eng.drains && !c.eng.streams.any (fun p => p.2.drainable) && !s.colls.any (fun m => m.core == core) && c.flow.finding.isNone &&
    !c.fwHolds && ((s.clusterAt (clusterOf core)).ownBlocks core).isEmpty

/-- A phase whose launches are all complete: its graph goes on (R333). -/
def State.phaseOver (s : State) (phase : Nat) : State :=
  match find? phase s.fe.phases with
  | none => s
  | some p =>
    if (s.launchesOf phase).all (fun l => decide (l.2.total ≤ l.2.done)) then
      let s := s.dropPhase phase
      let s := { s with fe := { s.fe with ctx := p.ctx, q := p.q } }
      match s.run with
      | some r => if r.wait = .phase phase then s.gotoNode r (r.node + 1) else s
      | none => s
    else s

/-- TASK_COMPLETE: the task of the acting core is counted, its leave comes back, its levels end (R52, R95, R116). Its
landing queues stay until the phase ends (R326). -/
def execTaskComplete (s : State) : Out :=
  if !s.complete s.cur then done s
  else
    let t := s.core.task
    let s := s.dropLeave (.core s.cur)
    let s := s.modCore (fun c => { c with task := Task.none, loops := c.loops.clear, eng := { c.eng with streams := [] }
                                          flow := { c.flow with noOps := false } })
    match find? t.launch s.fe.launches with
    | none => done s
    | some l =>
      let s := { s with fe := { s.fe with launches := put t.launch { l with done := l.done + 1 } s.fe.launches } }
      done (s.phaseOver l.phase)

/-- The queue whose graph waits for a phase. -/
def State.stopPhase (s : State) (phase : Nat) (rec : List Word) : State :=
  match find? phase s.fe.phases with
  | none => s
  | some p =>
    let s := (s.keepFault p.ctx rec).cancelPhase phase
    match (s.queueAt p.ctx p.q).run with
    | some r => if r.wait = .phase phase then s.finishGraph p.ctx p.q 1 r.node rec else s
    | none => s

/-- A fault found after issue is taken (R268). -/
def State.takeFinding (s : State) : State :=
  match s.core.flow.finding with
  | some (.fault code slot addr va imp tcode) => s.raise code slot addr va false imp false false tcode
  | _ => s

/-- The core that a fault record names (R268). -/
def recordCore (rec : List Word) : Nat := bits (rec.getD 3 0) 8 0

/-- Of the phases that keep a fault record, the one whose record names the lowest core (R326, R334). -/
def State.faultedPhase (s : State) : Option (Nat × List Word) :=
  (s.fe.phases.filterMap (fun p => p.2.fault.map (fun r => (p.1, r)))).foldl
    (fun best x => match best with
      | some y => if recordCore x.2 < recordCore y.2 then some x else some y
      | none => some x) none

/-- Whether a core has met a fault. -/
def Core.faultFound (c : Core) : Bool :=
  c.task.status == .faulted || (match c.flow.finding with
    | some (.fault _ _ _ _ _ _) => true
    | _ => false)

/-- The kept record that is reported before a fault of the acting core: that of a lower core, or any where the core has met
none (R334). -/
def State.firstKept (s : State) : Option (Nat × List Word) :=
  s.faultedPhase.bind (fun x => if recordCore x.2 < s.cur ∨ s.core.faultFound = false then some x else none)

/-- FAULT_REPORT: the fault record of the acting core, or one that a phase keeps, reaches the front end, which ends the phase
with it (R268, R326, R334). A report of a phase that has ended is discarded. -/
def execFaultReport (s : State) : Out :=
  match s.firstKept with
  | some (id, rec_) => done (s.stopPhase id rec_)
  | none =>
    let s := s.takeFinding
    let t := s.core.task
    if t.status ≠ .faulted then done s
    else
      let rec_ := (List.range 4).map (fun i => find 0 i s.core.flight.fault)
      let s := s.dropLeave (.core s.cur)
      let s := { s with colls := s.colls.filter (fun m => m.core != s.cur) }
      let s := s.cancelTask s.cur
      match find? t.launch s.fe.launches with
      | none => done s
      | some l => done (s.stopPhase l.phase rec_)

/-! Requests that only meters hold up (R345). -/

/-- The write-backs that a change of context waits for, of clusters that serve a context: those of the cores chosen for tasks of
other contexts. -/
def State.changeHeld (s : State) (ctx : Nat) : List (Nat × Nat) :=
  let free := (List.range 8).filterMap (fun d => (s.dispatchChoice d).map (fun p => clusterOf p.1))
  let timed := (s.startable.bind s.foreignCluster).toList.map clusterOf
  ((free ++ timed).filter (fun cl => (s.clusterAt cl).ctx == some ctx)).flatMap (fun cl =>
    if s.someOpen whoFrontEnd cl (s.clusterAt cl).allDirty then []
    else (s.clusterAt cl).allDirty.flatMap (fun b =>
      (s.closedAt whoFrontEnd ctx (s.blockCosts cl b)).map (fun r => (whoFrontEnd, r))))

end Sys2Proof.Machine
end

