-- ==== Sys2Proof/Machine/Manage.lean ====
section
/-! DEFINITION. Management and the control OS (R17 to R20, R199, R201, R206, R239, R273, R307, R310, R329, R338, R346, R353
to R355): mailbox commands, contexts, page tables, migration and `mapx`. -/

namespace Sys2Proof.Machine

/-! The mailbox (R353). -/

/-- Write bytes of host memory. -/
def State.hostWrite (s : State) (a : Nat) (bs : List Byte) : State := { s with hostMem := writeBytes s.hostMem a bs }

/-- The result codes. -/
def rDone : Nat := 0
def rBusy : Nat := 1
def rNotFree : Nat := 2
def rBad : Nat := 3
def rSmall : Nat := 4
def rFenced : Nat := 5

/-- End a command: its result stands in bytes 4 to 7 of its block, then busy is 0. -/
def State.endCommand (s : State) (code : Nat) : State :=
  let s := s.hostWrite (s.mgmt.block.toNat + 4) (leBytes code 4)
  { s with mgmt := { s.mgmt with busy := false, cmd := none, result := code } }

/-- The units that an 8-byte entry of a resource list names: its type, its number of units and the first one stand in bytes 0,
2 to 3 and 4 to 7; an entry of type 0 names nothing (log 15). -/
def entryUnits (bs : List Byte) : List Nat := (List.range (fieldAt bs 2 2)).map (fun i => fieldAt bs 4 4 + i)

/-- Add the units of an entry to resources; none for a type that no list names (R17, R354). -/
def addEntry (r : Resources) (bs : List Byte) : Option Resources :=
  let us := entryUnits bs
  match fieldAt bs 0 1 with
  | 0 => some r
  | 1 => some { r with dies := r.dies ++ us }
  | 2 => some { r with clusters := r.clusters ++ us }
  | 3 => some { r with sets := r.sets ++ us }
  | 4 => some { r with ways := r.ways ++ us }
  | 5 => some { r with keys := r.keys ++ us }
  | 7 => some { r with fabricPorts := r.fabricPorts ++ us }
  | 8 => some { r with ethPorts := r.ethPorts ++ us }
  | _ => none

/-- No resources. -/
def noResources : Resources := ⟨[], [], [], [], [], [], []⟩

/-- The resources that a list of entries names to add, and to remove: bit 0 of byte 1 marks an entry to remove. -/
def resourceLists : List (List Byte) → Option (Resources × Resources)
  | [] => some (noResources, noResources)
  | e :: rest =>
    (resourceLists rest).bind (fun p =>
      if fieldAt e 1 1 % 2 = 1 then (addEntry p.2 e).map (fun r => (p.1, r)) else (addEntry p.1 e).map (fun r => (r, p.2)))

/-- The command that a 64-byte command block holds: the opcode in bytes 0 to 3, arguments in bytes 8 to 63 (R353). Numbers stand
in 8-byte words from byte 8; the six entries of a resource list from byte 16 (log 15). -/
def commandOf (bs : List Byte) : Command :=
  let arg (i : Nat) : Nat := fieldAt bs (8 + 8 * i) 8
  let lists := resourceLists ((List.range 6).map (fun i => (bs.drop (16 + 8 * i)).take 8))
  match fieldAt bs 0 4 with
  | 1 => .caps (arg 0) (arg 1)
  | 2 => .summary (arg 0) (arg 1)
  | 3 => match lists with
    | some (r, less) => if less = noResources then .pcreate (arg 0) r else .other
    | none => .other
  | 4 => match lists with
    | some (more, less) => .presize (arg 0) more less
    | none => .other
  | 5 => .pdestroy (arg 0)
  | 6 => .linkw (arg 0) (arg 1)
  | 7 => .setclk (arg 0) (arg 1)
  | 8 => .meter (arg 0) (arg 1) (arg 2) (arg 3)
  | 9 => .share (arg 0) (arg 1)
  | _ => .other

/-- Run the command that waits. -/
def State.withCommand (s : State) (k : Command → State) : Out :=
  match s.mgmt.cmd with
  | some c => done (k c)
  | none => done s

/-! The capability table (R354). -/

/-- Owners that are no partitions. -/
def ownerOs : Nat := 0xFFFE
def ownerFree : Nat := 0xFFFF

/-- The partition that satisfies a predicate, or free. -/
def State.ownerBy (s : State) (f : Resources → Bool) : Nat :=
  ((s.mgmt.partitions.find? (fun p => f p.2)).map (fun p => p.1)).getD ownerFree

/-- Whether a fabric port is gone: its optical die is fenced (R352), or a compute die that is bridged to it (R9, R20; log 84). -/
def State.portFenced (s : State) (p : Nat) : Bool :=
  (s.dieAt (9 + p / 4)).fenced || (s.dieAt (2 * (p / 4))).fenced || (s.dieAt (2 * (p / 4) + 1)).fenced

/-- One unit of a type: its index, its owner and whether it is listed as fenced; none when a fenced die removes it. -/
def State.capUnit (s : State) (type i : Nat) : Option (Nat × Bool) :=
  let gone (d : Nat) : Bool := (s.dieAt d).fenced
  match type with
  | 1 => some (if 8 ≤ i then ownerOs else s.ownerBy (fun r => r.dies.contains i), gone i)
  | 2 => if gone (i / 8) then none else some (s.ownerBy (fun r => (clusterList r).contains i), false)
  | 3 => if gone (i / 8) then none else some (s.ownerBy (fun r => (setList r).contains i), false)
  | 4 => some (s.ownerBy (fun r => r.ways.contains i), false)
  | 5 => some (s.ownerBy (fun r => r.keys.contains i), false)
  | 6 => some (if (find? i s.mgmt.partitions).isSome then i else ownerFree, false)
  | 7 => if s.portFenced i then none else some (s.ownerBy (fun r => r.fabricPorts.contains i), false)
  | 8 => some (if s.mgmt.osPorts.contains i then ownerOs else s.ownerBy (fun r => r.ethPorts.contains i), false)
  | _ => some (if (find? i s.mgmt.partitions).isSome then i else ownerFree, false)

/-- Units of each type: dies, clusters, pseudo-channel sets, ways, key slots, barrier tables, fabric ports, Ethernet ports,
meter sets. -/
def capCount : Nat → Nat
  | 1 => 13
  | 2 => 64
  | 3 => 64
  | 4 => 16
  | 5 => 256
  | 6 => 64
  | 7 => 16
  | 8 => 10
  | _ => 64

/-- A run of units: type, first, count, owner, fenced. -/
structure CapRun where
  type : Nat
  first : Nat
  count : Nat
  owner : Nat
  fenced : Bool
  deriving DecidableEq, Repr

/-- Add a unit at the end of a list of runs, newest first. -/
def addUnit (type i : Nat) (x : Nat × Bool) : List CapRun → List CapRun
  | [] => [⟨type, i, 1, x.1, x.2⟩]
  | r :: rest =>
    if r.first + r.count = i ∧ r.owner = x.1 ∧ r.fenced = x.2 then { r with count := r.count + 1 } :: rest
    else ⟨type, i, 1, x.1, x.2⟩ :: r :: rest

/-- The runs of a type in ascending order. -/
def State.capRuns (s : State) (type : Nat) : List CapRun :=
  ((List.range (capCount type)).foldl
    (fun acc i => match s.capUnit type i with
      | some x => addUnit type i x acc
      | none => acc) []).reverse

/-- The 32 bytes of a run. -/
def CapRun.bytes (r : CapRun) : List Byte :=
  leBytes r.type 1 ++ leBytes r.fenced.toNat 1 ++ leBytes r.owner 2 ++ leBytes r.first 4 ++ leBytes r.count 4 ++
    leBytes 1 4 ++ List.replicate 16 0

/-- The capability table: header and records. -/
def State.capTable (s : State) : List Byte :=
  let rs := (List.range 9).flatMap (fun t => s.capRuns (t + 1))
  leBytes 1 4 ++ leBytes rs.length 4 ++ List.replicate 24 0 ++ rs.flatMap CapRun.bytes

/-- Write a table into a host buffer: result 4 and nothing written where it does not fit. -/
def State.writeTable (s : State) (buf size : Nat) (bs : List Byte) : State :=
  if size < bs.length then s.endCommand rSmall else (s.hostWrite buf bs).endCommand rDone

/-- CAPS (R354). -/
def execCaps (s : State) : Out :=
  s.withCommand (fun c => match c with
    | .caps buf size => s.writeTable buf size s.capTable
    | _ => s)

/-! The summary snapshot (R346). The places of the fields within a record are the model's (log 31). -/

/-- A 64-byte record: type, owner, and fields of a width each. -/
def sumRecord (type ctx : Nat) (fields : List (Nat × Nat)) : List Byte :=
  (leBytes type 1 ++ [0] ++ leBytes ctx 2 ++ List.replicate 4 0 ++ fields.flatMap (fun (f : Nat × Nat) => leBytes f.1 f.2) ++
    List.replicate 64 0).take 64

/-- A set of small numbers as a mask. -/
def setMask (l : List Nat) : Nat := (l.eraseDups.map (fun i => 2 ^ i)).sum

/-- The records of a context: itself, its queues, the graphs that run, its phases, its last fault, its meters. -/
def State.ctxRecords (s : State) (ctx : Nat) (c : Context) : List (List Byte) :=
  let qs := (List.range 4).map (fun q => (q, find Queue.empty q c.queues))
  let regs := qs.flatMap (fun p => [(p.2.credit, 2), (p.2.status, 2), (p.2.completed.toNat, 8)])
  let self := sumRecord 1 ctx ([(c.key.toNat, 1), (c.share, 1), (c.window, 2), (c.seed.toNat, 4)] ++ regs)
  let queue := qs.map (fun p => sumRecord 2 ctx [(p.1, 4), (p.2.credit, 4), (p.2.completed.toNat, 8),
    (((p.2.run.map (fun r => r.header.toNat))).getD 0, 8)])
  let graphs := qs.filterMap (fun p => p.2.run.map (fun r => sumRecord 3 ctx ((p.1, 4) :: (r.node, 4) ::
    ((r.iters.filter (fun x => x.2 != 0)).take 8).map (fun x => (x.2, 4)))))
  let phases := ((s.fe.phases.map (fun p => p.2)).filter (fun p => p.ctx == ctx)).map (fun p =>
    sumRecord 4 ctx ([(p.record.toNat, 8), (p.mask.toNat, 8), (p.start.getD 0, 8)] ++
      (List.range 8).map (fun d => ((((s.launchesOf p.id).filter (fun l => l.2.die == d)).map (fun l => l.2.done)).sum, 4))))
  let fault := sumRecord 5 ctx (((c.lastFault ++ [0, 0, 0, 0]).take 4).map (fun (w : Word) => (w.toNat, 8)))
  let meters := (List.range 6).map (fun r =>
    let m := find Meter.off r c.meters
    sumRecord 8 ctx [(r, 8), (m.rate, 8), (m.burst, 8), (wrap 64 m.tokens, 8)])
  self :: queue ++ graphs ++ phases ++ [fault] ++ meters

/-- Records of the whole module: partitions, key slots, dies. -/
def State.moduleRecords (s : State) : List (List Byte) :=
  let parts := s.mgmt.partitions.map (fun p =>
    sumRecord 6 0xFFFF [(p.1, 2), (if p.2.dies.isEmpty then 1 else 0, 2),
      (if p.2.dies.isEmpty then setMask (clusterList p.2) else setMask (dieList p.2), 8), (setMask (setList p.2), 8),
      (setMask p.2.ways, 4)])
  let keys := (List.range 256).map (fun k =>
    let inUse := s.contexts.any (fun c => c.2.key.toNat == k)
    sumRecord 7 0xFFFF [(k, 4), (if inUse then 1 else 0, 4)])
  let dies := (List.range 13).map (fun d =>
    let x := s.dieAt d
    let lost := if 9 ≤ d then ((List.range 4).map (fun i => (s.port (4 * (d - 9) + i)).undelivered)).sum else 0
    sumRecord 9 0xFFFF [(d, 4), (x.corrected, 4), (x.trip.toNat, 1), (x.fenced.toNat, 1), (0, 2), (lost, 4)])
  parts ++ keys ++ dies

/-- The snapshot: header and records. -/
def State.snapshot (s : State) : List Byte :=
  let rs := s.contexts.flatMap (fun p => s.ctxRecords p.1 p.2) ++ s.moduleRecords
  leBytes 1 4 ++ leBytes rs.length 4 ++ leBytes s.ringTime 8 ++ List.replicate 48 0 ++ rs.flatten

/-- SUMMARY (R346). -/
def execSummary (s : State) : Out :=
  s.withCommand (fun c => match c with
    | .summary buf size => s.writeTable buf size s.snapshot
    | _ => s)

/-! Partitions (R17 to R20, R355). -/

/-- Whether a list has no repeats and stays below a bound. -/
def below (n : Nat) (l : List Nat) : Bool := decide l.Nodup && l.all (fun x => decide (x < n))

/-- R17: die-granular, or cluster-granular on one die with 1 to 8 of its sets; and one or more key slots. A partition may hold no
second-level way, and its lines are then kept nowhere (DESIGN CHOICE, log 95: R17 gives ways no number, and the 64 partitions
of R13 exceed the 16 ways). -/
def Resources.granular (r : Resources) : Bool :=
  below 8 r.dies && below 64 r.clusters && below 64 r.sets && below 16 r.ways && below 256 r.keys &&
    below 16 r.fabricPorts && below 10 r.ethPorts && !r.keys.isEmpty &&
    (if r.dies.isEmpty then
       (match r.clusters with
        | [] => false
        | c :: _ => r.clusters.all (fun x => x / 8 == c / 8) && !r.sets.isEmpty && r.sets.all (fun x => x / 8 == c / 8))
     else r.clusters.isEmpty && r.sets.isEmpty)

/-- Whether a named resource stands on a fenced die (R352). -/
def State.namesFenced (s : State) (r : Resources) : Bool :=
  let gone (d : Nat) : Bool := (s.dieAt d).fenced
  r.dies.any gone || r.clusters.any (fun c => gone (c / 8)) || r.sets.any (fun x => gone (x / 8)) ||
    r.fabricPorts.any s.portFenced

/-- Whether a list of resources is free: of every other partition, and of the control OS. -/
def State.allFree (s : State) (r : Resources) : Bool :=
  let free (type i : Nat) : Bool := match s.capUnit type i with
    | some x => x.1 == ownerFree
    | none => false
  let dieFree (d : Nat) : Bool := free 1 d && (List.range 8).all (fun k => free 2 (8 * d + k) && free 3 (8 * d + k))
  r.dies.all dieFree && r.clusters.all (free 2) && r.sets.all (free 3) && r.ways.all (free 4) && r.keys.all (free 5) &&
    r.fabricPorts.all (free 7) && r.ethPorts.all (free 8)

/-- PCREATE (R355). The checks run in the order argument, fence, freedom (log 32). -/
def execPcreate (s : State) : Out :=
  s.withCommand (fun c => match c with
    | .pcreate part r =>
      if 64 ≤ part ∨ Resources.granular r = false then s.endCommand rBad
      else if s.namesFenced r then s.endCommand rFenced
      else if (find? part s.mgmt.partitions).isSome || !s.allFree r then s.endCommand rNotFree
      else ({ s with mgmt := { s.mgmt with partitions := put part r s.mgmt.partitions } } : State).endCommand rDone
    | _ => s)

/-- Add resources, then remove some. -/
def Resources.change (r more less : Resources) : Resources :=
  let f (a b c : List Nat) : List Nat := (a ++ b).filter (fun x => !c.contains x)
  ⟨f r.dies more.dies less.dies, f r.clusters more.clusters less.clusters, f r.sets more.sets less.sets,
    f r.ways more.ways less.ways, f r.keys more.keys less.keys, f r.fabricPorts more.fabricPorts less.fabricPorts,
    f r.ethPorts more.ethPorts less.ethPorts⟩

/-- Whether every resource of a list belongs to another list. -/
def Resources.covers (r less : Resources) : Bool :=
  less.dies.all r.dies.contains && less.clusters.all r.clusters.contains && less.sets.all r.sets.contains &&
    less.ways.all r.ways.contains && less.keys.all r.keys.contains && less.fabricPorts.all r.fabricPorts.contains &&
    less.ethPorts.all r.ethPorts.contains

/-- The contexts of a partition. -/
def State.ctxsOf (s : State) (part : Nat) : List (Nat × Context) := s.contexts.filter (fun p => p.2.part == part)

/-- R355: whether what is to be removed is in use: a phase of the partition runs on its dies, or a context of the
partition holds it. Every context holds the sets and dies of its pool, its key slot, and the ways it retains (log 33). -/
def State.partInUse (s : State) (part : Nat) (less : Resources) : Bool :=
  let cs := s.ctxsOf part
  let runs (d : Nat) : Bool := s.fe.launches.any (fun l => l.2.part == part && l.2.die == d)
  (!less.dies.isEmpty && (!cs.isEmpty || less.dies.any runs)) || less.clusters.any (fun c => runs (c / 8)) ||
    (!less.sets.isEmpty && !cs.isEmpty) || less.sets.any (fun x => runs (x / 8)) ||
    (!less.ways.isEmpty && (cs.any (fun c => !c.2.retain.isEmpty) || s.fe.launches.any (fun l => l.2.part == part))) ||
    less.keys.any (fun k => cs.any (fun c => c.2.key.toNat == k))

/-- PRESIZE (R355). Where a partition loses ways, lines beyond those that it keeps leave its sets, the victims of R198 first
(DESIGN CHOICE, log 88: the spec does not say what becomes of them). -/
def execPresize (s : State) : Out :=
  s.withCommand (fun c => match c with
    | .presize part more less =>
      match find? part s.mgmt.partitions with
      | none => s.endCommand rBad
      | some r =>
        let new := Resources.change r more less
        if Resources.granular new = false ∨ Resources.covers r less = false then s.endCommand rBad
        else if s.namesFenced more then s.endCommand rFenced
        else if !s.allFree more then s.endCommand rNotFree
        else if s.partInUse part less then s.endCommand rBusy
        else
          let s := if less.ways.isEmpty then s else s.trimLines new
          ({ s with mgmt := { s.mgmt with partitions := put part new s.mgmt.partitions } } : State).endCommand rDone
    | _ => s)

/-! Contexts (R199, R206, R253, R278, R338, R342). -/

/-- Drop what a cluster holds of a context: translations, and when it served the context, its banks and its cache. -/
def Cluster.forget (c : Cluster) (ctx : Nat) : Cluster :=
  let c := { c with tlb := c.tlb.filter (fun e => e.ctx != ctx) }
  if c.ctx = some ctx then { c with modes := [], sram := [], switching := [], cache := [], ctx := none } else c

/-- Whether a graph of a context that has been cancelled still waits to write its status record, or the record of its node:
for its meters, a page that moves, or a ring that is full (R263, R333, R339). -/
def State.recordsWait (s : State) (ctx : Nat) : Bool :=
  (s.ctxAt ctx).queues.any (fun p => match p.2.run with
    | some r => r.wait != .status || s.statusUsable ctx (r.status.setWidth 64) != some false
    | none => false)

/-- Take a context away: its key slot is erased, the second-level lines of the slot are dropped, its banks, retention registers
and barrier table cleared, its window number free (R206, R355). -/
def State.removeContext (s : State) (ctx : Nat) : State :=
  let c := s.ctxAt ctx
  let key := s.keyOf ctx
  let slot := c.key.toNat
  { s with
    contexts := drop ctx s.contexts
    l2 := s.l2.filter (fun l => l.key != key)
    clusters := s.clusters.map (fun p => (p.1, p.2.forget ctx))
    cores := s.cores.map (fun p =>
      (p.1, { p.2 with mem := { p.2.mem with utlb := p.2.mem.utlb.filter (fun e => e.ctx != ctx) } }))
    migrations := s.migrations.filter (fun m => m.ctx != ctx)
    mapxCalls := s.mapxCalls.filter (fun m => m.ctx != ctx)
    fe := { s.fe with transfers := s.fe.transfers.filter (fun t => t.ctx != ctx)
                      preempted := s.fe.preempted.filter (fun p => p.ctx != ctx)
                      banks := s.fe.banks.filter (fun b => b.ctx != ctx) }
    mgmt := { s.mgmt with keyGen := put slot (find 0 slot s.mgmt.keyGen + 1) s.mgmt.keyGen
                          leaving := s.mgmt.leaving.filter (· != ctx) } }

/-- Destroy a context: its jobs are cancelled, and it is taken away once the status records of its graphs are written; until then
it is leaving (R333, R339, R355). -/
def State.destroyContext (s : State) (ctx : Nat) : State :=
  if !s.hasCtx ctx then s
  else
    let s := (List.range 4).foldl (fun (s : State) q => s.cancelQueue ctx q) s
    if s.recordsWait ctx then
      { s with mgmt := { s.mgmt with leaving := ctx :: s.mgmt.leaving.filter (· != ctx) } }
    else s.removeContext ctx

/-- CONTEXT_DESTRUCTION (R206). -/
def execContextDestruction (s : State) : Out :=
  match s.req with
  | some (.contextDestruction ctx) => done (({ s with req := none } : State).destroyContext ctx)
  | _ => done s

/-- PDESTROY (R355): every context of the partition is destroyed; the command ends, and the resources are free, once all are gone. -/
def execPdestroy (s : State) : Out :=
  s.withCommand (fun c => match c with
    | .pdestroy part =>
      if (find? part s.mgmt.partitions).isNone then s.endCommand rBad
      else
        let s := (s.ctxsOf part).foldl (fun (s : State) p => s.destroyContext p.1) s
        if !(s.ctxsOf part).isEmpty then s
        else ({ s with mgmt := { s.mgmt with partitions := drop part s.mgmt.partitions } } : State).endCommand rDone
    | _ => s)

/-- Whether the command that runs waits for contexts that are leaving. -/
def State.commandWaits (s : State) : Bool :=
  match s.mgmt.cmd with
  | some (.pdestroy part) => (s.ctxsOf part).any (fun p => s.mgmt.leaving.contains p.1)
  | _ => false

/-- A context that is leaving and may go now. -/
def State.leaver (s : State) : Option Nat := s.mgmt.leaving.find? (fun ctx => !s.recordsWait ctx)

/-- The smallest window number that no context of a partition holds. -/
def State.freeWindow (s : State) (part : Nat) : Option Nat :=
  (List.range 64).find? (fun k => !(s.ctxsOf part).any (fun p => p.2.window == k))

/-- R263: a ring is of a power of two of records, from 16 to 65,536, and aligned to 32 bytes. -/
def ringRequestOk (r : RingRequest) : Bool :=
  r.base.toNat % 32 == 0 && (List.range 13).any (fun i => r.count == 2 ^ (i + 4)) &&
    (match r.indices with
     | some a => a.toNat % 8 == 0
     | none => true)

/-- R303: a segment table holds at most 256 entries, aligned to 64 bytes. -/
def segTableOk (p : Program) : Bool := p.segCount == 0 || (decide (p.segCount ≤ 256) && p.segAddr.toNat % 64 == 0)

/-- R332: a virtual function has 64 vectors. -/
def vectorsOk (r : CtxRequest) : Bool :=
  r.vectors.all (fun p => decide (p.2 < 64)) && ((r.ring.bind (fun x => x.vector)).map (fun v => decide (v < 64))).getD true

/-- Queues that are registered with vectors (R339). -/
def vectorQueues (l : List (Nat × Nat)) : Store Queue :=
  (l.filter (fun p => decide (p.1 < 4))).foldl (fun st p => put p.1 { Queue.empty with vector := some p.2 } st) []

/-- CONTEXT_CREATION (R206, R253, R278, R338, R342): a window number, the key slot and seed, an invalid barrier table,
credits of 0 and the feature bits; its programs, its completion ring and the vectors of its queues (R263, R303, R339). A
request that names no partition, a key slot of none of its own, an identifier in use, a share out of range, a vector that its
virtual function has not, or a ring or a segment table that is none has no effect. The share is 1 where none is given (R342). -/
def execContextCreation (s : State) : Out :=
  match s.req with
  | some (.contextCreation r) =>
    let s := { s with req := none }
    match find? r.part s.mgmt.partitions, s.freeWindow r.part with
    | some p, some w =>
      let share := r.share.getD 1
      if s.hasCtx r.ctx || decide (4096 ≤ r.ctx) || !p.keys.contains r.key.toNat || decide (share < 1) || decide (255 < share) ||
          !vectorsOk r || !(r.ring.map ringRequestOk).getD true || !r.programs.all segTableOk then done s
      else
        let c : Context :=
          { part := r.part, key := r.key, keyGen := find 0 r.key.toNat s.mgmt.keyGen, seed := r.seed, root := r.root
            window := w, share := share, feat := r.feat, safebound := r.safebound, programs := r.programs
            ring := r.ring.map (fun x => ⟨x.base, x.count, x.vector, x.indices, 0, 0, []⟩)
            queues := vectorQueues r.vectors, btab := [], retain := [], meters := [], lastFault := [] }
        let s := s.setCtxAt r.ctx c
        done ((List.range 8).foldl (fun (s : State) d => s.modDieAt d (fun x =>
          { x with credit := (List.range 4).foldl (fun st q => drop (4 * r.ctx + q) st) x.credit
                   waiting := x.waiting.filter (fun k => k / 4 != r.ctx) })) s)
    | _, _ => done s
  | _ => done s

/-! Link widths, clocks, meters, shares (R329, R342, R345, R353). -/

/-- The dies at the ends of a link. -/
def linkDies (link : Nat) : List Nat :=
  if link < 8 then [link, (link + 1) % 8] else if link < 16 then [link - 8] else [9 + (link - 16) / 4]

/-- LINKW: the change is queued (R329). Links 0 to 7 are the ring links, 8 to 15 the cache-die links, 16 to 31 the fabric
ports; widths are in sixteenths of the full width (log 34). -/
def execLinkw (s : State) : Out :=
  s.withCommand (fun c => match c with
    | .linkw link w =>
      if 32 ≤ link ∨ w = 0 ∨ 16 < w then s.endCommand rBad
      else if (linkDies link).any (fun d => (s.dieAt d).fenced) then s.endCommand rFenced
      else ({ s with mgmt := { s.mgmt with requests := s.mgmt.requests ++ [.width link w] } } : State).endCommand rDone
    | _ => s)

/-- SETCLK: the change is queued (R329). -/
def execSetclk (s : State) : Out :=
  s.withCommand (fun c => match c with
    | .setclk die point =>
      if 13 ≤ die then s.endCommand rBad
      else if (s.dieAt die).fenced then s.endCommand rFenced
      else ({ s with mgmt := { s.mgmt with requests := s.mgmt.requests ++ [.clock die point] } } : State).endCommand rDone
    | _ => s)

/-- METER (R345). -/
def execMeter (s : State) : Out :=
  s.withCommand (fun c => match c with
    | .meter ctx res rate burst =>
      if !s.hasCtx ctx || decide (6 ≤ res) then s.endCommand rBad
      else
        (s.modCtxAt ctx (fun c =>
          { c with meters := put res { find Meter.off res c.meters with rate := rate, burst := burst } c.meters })).endCommand rDone
    | _ => s)

/-- SHARE (R342). -/
def execShare (s : State) : Out :=
  s.withCommand (fun c => match c with
    | .share ctx w =>
      if !s.hasCtx ctx || decide (w < 1) || decide (255 < w) then s.endCommand rBad
      else (s.modCtxAt ctx (fun c => { c with share := w })).endCommand rDone
    | _ => s)

/-- MANAGEMENT_TICK: the requests collected are applied, widths first; those that a timed phase's links or dies are in use
by wait for its end (R329). -/
def execManagementTick (s : State) : Out :=
  let l := s.mgmt.deferred ++ s.mgmt.requests
  done (({ s with mgmt := { s.mgmt with requests := [], deferred := [] } } : State).applyChanges l)

/-- An emergency reduction: the width falls at once; each timed phase that uses the link ends with fault 0x0E (R329). -/
def State.reduceWidth (s : State) (link w : Nat) : State :=
  let s := s.applyChange (.width link w)
  (s.timedRunning.filter (fun p => p.usesLink link)).foldl
    (fun (s : State) p => s.stopPhase p.id (s.nodeRecord 0x0E p.node 0)) s

/-- The width that a link has left after an emergency reduction: half of the present one (R329; log 26). -/
def State.halfWidth (s : State) (link : Nat) : Nat := max 1 (find 16 link s.mgmt.widths / 2)

/-- EMERGENCY_WIDTH_REDUCTION: a ring link or cache-die link has met 3 consecutive failed retries of one flit (R329). A fabric
port counts its own (`execRetryRequest`). -/
def execEmergencyWidthReduction (s : State) : Out :=
  match s.req with
  | some (.emergencyWidthReduction link w) => done (({ s with req := none } : State).reduceWidth link w)
  | _ => done s

/-! Register writes (R43, R45, R338, R353). -/

/-- The bits of a word from a byte offset, put into firmware instruction memory. -/
def Firmware.writeText (f : Firmware) (off : Nat) (x : Word) : Firmware :=
  let i := off / 32
  let sh := 64 * (off / 8 % 4)
  let old := find 0 i f.text
  { f with text := put i ((old &&& ~~~((BitVec.ofNat 256 (2 ^ 64 - 1)) <<< sh)) ||| (x.setWidth 256 <<< sh)) f.text }

/-- The die that a word stands on. -/
def softDie : SoftPlace → Nat
  | .memory w | .line w => homeDie (8 * w)
  | .bank cl _ | .cached cl _ => cl / 8
  | .code n _ _ | .press n _ | .scalar n _ | .vector n _ | .mask n _ => dieOf n

/-- A soft error (R207): a corrected one is repaired and counted on its die; an uncorrectable one waits for a read. -/
def State.softError (s : State) (p : SoftPlace) (x : Word) : State :=
  if x = 0 then s.modDieAt (softDie p) (fun d => { d with corrected := d.corrected + 1 })
  else { s with bad := p :: s.bad.filter (· != p) }

/-- REGISTER_WRITE: the mailbox starts the command of a block unless one runs (R353); read-only queue registers and empty
windows discard writes (R338); the control OS sets control registers of a core, its firmware text (R273) and host memory. A
command block with an unknown opcode has result 3. A soft error strikes a word (R207), and sensors report the draw (R344). -/
def execRegisterWrite (s : State) : Out :=
  match s.req with
  | some (.registerWrite r x) =>
    let s := { s with req := none }
    match r with
    | .mailbox =>
      if s.mgmt.busy || decide (x.toNat % 64 ≠ 0) || decide (bits x 63 48 ≠ 0) then done s
      else
        let c := commandOf (readBytes s.hostMem x.toNat 64)
        let s := { s with mgmt := { s.mgmt with busy := true, block := x.setWidth 48, cmd := some c } }
        done (if c.row.isNone then s.endCommand rBad else s)
    | .bar _ _ => done s
    | .control core num =>
      if csrValueLegal num.toNat x then done (s.modCoreAt core (fun c => c.writeCsr num.toNat x)) else done s
    | .fwText core off =>
      if off % 8 = 0 ∧ off < 16384 then
        done (s.modCoreAt core (fun c => { c with fw := c.fw.writeText off x }))
      else done s
    | .hostWord a => done (s.hostWrite a (leBytes x.toNat 8))
    | .softError p => done (s.softError p x)
    | .draw => done { s with gov := { s.gov with draw := x.toNat } }
  | _ => done s

/-! Page tables as the control OS writes them (R201, R202). -/

/-- Write 8 bytes at a physical address. -/
def State.writePhys64 (s : State) (ctx pa : Nat) (x : Word) : State :=
  match s.devAddr ctx pa with
  | some a => s.devWrites (s.keyOf ctx) a (leBytes x.toNat 8)
  | none => s

/-- The last-level entry that maps an address: its physical address, itself, and the page size. -/
def State.leafFrom (s : State) (ctx va : Nat) : Nat → Nat → Option (Nat × Word × Nat)
  | 0, table =>
    let i := va / 2 ^ 12 % 512
    match s.readPhys64 (s.ctxView ctx) (table + 8 * i), s.readPhys64 (s.ctxView ctx) (table + 8 * (i / 16 * 16)) with
    | .ok e, .ok g =>
      if !(e.getLsbD 0) then none
      else if e.getLsbD 10 || (g.getLsbD 0 && g.getLsbD 10) then
        (if g.getLsbD 0 then some (table + 8 * (i / 16 * 16), g, 2 ^ 16) else none)
      else some (table + 8 * i, e, 2 ^ 12)
    | _, _ => none
  | n + 1, table =>
    let sh := 21 + 9 * n
    let at_ := table + 8 * (va / 2 ^ sh % 512)
    match s.readPhys64 (s.ctxView ctx) at_ with
    | .error _ => none
    | .ok e =>
      if !(e.getLsbD 0) then none
      else if e.getLsbD 9 then (if n = 2 then none else some (at_, e, 2 ^ sh))
      else s.leafFrom ctx va n (place (bits e 47 12) 12)

/-- The leaf entry of an address. -/
def State.leafEntry (s : State) (ctx va : Nat) : Option (Nat × Word × Nat) :=
  s.leafFrom ctx va 3 (s.ctxAt ctx).root.toNat

/-- Fill a frame with zeros. -/
def State.zeroFrame (s : State) (ctx pa : Nat) : State :=
  (List.range 512).foldl (fun (s : State) i => s.writePhys64 ctx (pa + 8 * i) 0) s

/-- Map a 4 KiB page with an entry, taking missing tables from a list of free frames; none when they run out or a larger
page is in the way. -/
def State.mapFrom (s : State) (ctx va : Nat) (e : Word) : Nat → Nat → List Addr → Option (State × List Addr)
  | 0, table, free => some (s.writePhys64 ctx (table + 8 * (va / 2 ^ 12 % 512)) e, free)
  | n + 1, table, free =>
    let at_ := table + 8 * (va / 2 ^ (21 + 9 * n) % 512)
    match s.readPhys64 (s.ctxView ctx) at_ with
    | .error _ => none
    | .ok x =>
      if x.getLsbD 0 then (if x.getLsbD 9 then none else s.mapFrom ctx va e n (place (bits x 47 12) 12) free)
      else
        match free with
        | [] => none
        | f :: r =>
          let s := (s.zeroFrame ctx f.toNat).writePhys64 ctx at_ (f.setWidth 64 ||| 1)
          s.mapFrom ctx va e n f.toNat r

/-- Map a page of a context. -/
def State.mapPage (s : State) (ctx : Nat) (va : Addr) (e : Word) (free : List Addr) : Option (State × List Addr) :=
  s.mapFrom ctx va.toNat e 3 (s.ctxAt ctx).root.toNat free

/-- Drop every cached translation of an address of a context, as the control OS has the firmware do (R204). -/
def State.dropEverywhere (s : State) (ctx : Nat) (va : Word) : State :=
  { s with
    clusters := s.clusters.map (fun p => (p.1, { p.2 with tlb := tlbKeep ctx false va p.2.tlb }))
    cores := s.cores.map (fun p => (p.1, { p.2 with mem := { p.2.mem with utlb := tlbKeep ctx false va p.2.mem.utlb } })) }

/-! Page migration (R201, R239). -/

/-- Write back and drop the cluster-cache blocks of a physical range, 16 bytes at a time. -/
def State.flushRange (s : State) (ctx pa : Nat) : Nat → State
  | 0 => s
  | n + 1 =>
    let s := match s.devAddr ctx (pa + 16 * n) with
      | none => s
      | some a => (s.clusters.map (fun (p : Nat × Cluster) => p.1)).foldl (fun (s : State) cl =>
          (s.writeBack cl (a / 16)).modClusterAt cl (fun c => { c with cache := drop (a / 16) c.cache })) s
    s.flushRange ctx pa n

/-- Copy n words of 8 bytes between physical addresses of a context. A word that fails ECC is retired, and fails at its new
place as well (R207, log 82). -/
def State.copyPhys (s : State) (ctx dst src : Nat) : Nat → State
  | 0 => s
  | n + 1 =>
    let s := match s.devAddr ctx (src + 8 * n), s.devAddr ctx (dst + 8 * n) with
      | some a, some b =>
        if s.badLine a 8 then
          let t := (s.retireBad a (src + 8 * n) 8 State.badLine).contextError ctx
          { t with bad := .memory (b / 8) :: t.bad }
        else s.devWrites (s.keyOf ctx) b ((List.range 8).map (fun i => s.devByte (s.keyOf ctx) (a + i)))
      | _, _ => s
    s.copyPhys ctx dst src n

/-- The migration of a page that is under way. -/
def State.migration (s : State) (ctx : Nat) (page : Addr) : Option Migration :=
  s.migrations.find? (fun m => m.ctx == ctx && m.page == page)

/-- PAGE_MIGRATION: a step of the control OS: 0 marks the page moving; 1 drains the old home; 2 copies the page, with every
replica (R203), after the drain; 3 installs the new entry, and what cores still have queued for the old frames is translated
again (R201, R239). A step out of order has no effect. -/
def execPageMigration (s : State) : Out :=
  match s.req with
  | some (.pageMigration ctx page frame stage) =>
    let s := { s with req := none }
    match stage.toNat, s.migration ctx page with
    | 0, none =>
      match s.leafEntry ctx page.toNat with
      | none => done s
      | some (at_, e, size) =>
        if e.getLsbD 8 then done s
        else
          let old : Addr := BitVec.ofNat 48 (place (bits e 47 12) 12)
          let s := s.writePhys64 ctx at_ (e ||| 0x100)
          let s := s.dropEverywhere ctx (page.setWidth 64)
          let reps := if e.getLsbD 6 then (dieList (s.partOf ctx)).length else 1
          done { s with migrations := s.migrations ++ [⟨ctx, page, frame, old, size, reps, false⟩] }
    | 1, some m =>
      done { s with migrations := s.migrations.map (fun x => if x == m then { m with drained := true } else x) }
    | 2, some m =>
      if m.drained then
        let n := m.size * m.replicas
        done ((s.flushRange ctx m.oldFrame.toNat (n / 16)).copyPhys ctx m.frame.toNat m.oldFrame.toNat (n / 8))
      else done s
    | 3, some m =>
      match s.leafEntry ctx page.toNat with
      | none => done s
      | some (at_, e, _) =>
        let tier : Word := if cellarBase ≤ m.frame.toNat then 0x20 else 0
        let keep : Word := e &&& 0xFFFF000000000EDF
        let s := s.writePhys64 ctx at_ (keep ||| tier ||| (m.frame.setWidth 64 &&& 0x0000FFFFFFFFF000))
        done { s with
          migrations := s.migrations.filter (fun x => x != m)
          cores := s.cores.map (fun p => (p.1, p.2.retranslate m)) }
    | _, _ => done s
  | _ => done s

/-! `mapx` (R293, R294, R307, R310, R313). -/

/-- A state in which a core of a context issues a vintage 3 user bundle, for the encoding checks of R75. -/
def State.probe (s : State) (ctx : Nat) (w : Bundle) : State :=
  let c := Core.reset
  let c := { c with
    regs := { c.regs with csr := put 0x100 ((s.ctxAt ctx).feat.setWidth 64) c.regs.csr }
    issue := { Issue.none with word := w } }
  { s with cores := put s.cur c s.cores }

/-- The operations of a bundle that passes the encoding checks as a vintage 3 user bundle. -/
def State.bundleOps (s : State) (ctx : Nat) (w : Bundle) : Option (List (Nat × Instr)) :=
  let h := header w
  if w = padWord ∨ (h.hint = 0 ∧ h.dist ≠ 0) then none else ((s.probe ctx w).scanSlots 0 8).toOption

/-- The displacement of a direct transfer, in bundles. -/
def transferDisp : Instr → Option Int
  | .brEq f | .brNe f | .brLt f | .brGe f | .brLtu f | .brGeu f => some f.disp.toInt
  | .bz _ d | .bnz _ d => some d.toInt
  | .jmp d | .call d => some d.toInt
  | _ => none

/-- Whether an operation is a call. -/
def isCall : Instr → Bool
  | .call _ | .callr _ => true
  | _ => false

/-- The body length of a loop set-up. -/
def loopLen : Instr → Option Nat
  | .loop f | .loopi f => some (f.body.toNat + 1)
  | _ => none

/-- R307, R313: the checks of one bundle of a version against its landings. -/
def bundleLands (m : MapxRequest) (marks : List (Nat × Nat)) (total idx : Nat) (w : Bundle) (ops : List (Nat × Instr)) :
    Bool :=
  let lands (i : Nat) : Bool := marks.any (fun p => p.1 == i)
  let anchor := m.canon.toNat / 32 + anchorOf marks idx
  let target (i : Instr) : Bool := match transferDisp i with
    | none => true
    | some d =>
      let t : Int := (anchor : Int) + d
      let page : Int := m.canon.toNat / 32
      !(decide (page ≤ t) && decide (t < page + 128)) || marks.any (fun p => (p.2 : Int) == t - page)
  (!(header w).safe || lands idx) &&
    ops.all (fun o => target o.2 && (!isCall o.2 || lands (idx + 3)) && (match loopLen o.2 with
      | none => true
      | some n => lands (idx + 2) && decide (idx + 2 + n ≤ total)))

/-- The descriptor words that `mapx` installs: those submitted with a version number. -/
def mapxWords (m : MapxRequest) (version : Nat) : List Word :=
  (List.range 16).map (fun i => if i = 3 then wordOf version else m.words.getD i 0)

/-- R293, R294: header and map, for the vintage of the page. -/
def mapxHeader (m : MapxRequest) (vint : Nat) : Option Treatment :=
  let byteOk (n a : Nat) (b : Byte) : Bool :=
    b == 0xFF || (if b.toNat < 0x80 then decide (b.toNat < n) else decide (b.toNat - 0x80 < a))
  let used := m.map.filter (· != 0xFF)
  match descriptorTreatment m.canon vint (mapxWords m 1, m.map) with
  | some .interlocked => if m.native.isEmpty && m.annex.isEmpty && m.map.length == 128 then some .interlocked else none
  | some (.racked nat annex n a map v) =>
    if m.map.length = 128 ∧ 1 ≤ n ∧ n ≤ 128 ∧ m.native.length = n ∧ m.annex.length = a ∧ nat.toNat % 4096 = 0 ∧
        annex.toNat % 4096 = 0 ∧ (annex = 0 → a = 0) ∧ m.map.head? = some 0 ∧ used.Nodup ∧
        m.map.all (byteOk n a) = true then some (.racked nat annex n a map v)
    else none
  | _ => none

/-- Operations behind which the next bundle in order does not follow, with the delay bundles that issue first: none behind a
`halt` (R49, R95). -/
def leavesStraight : Instr → Option Nat
  | .jmp _ | .call _ | .jmpr _ | .callr _ | .ret => some 2
  | .halt => some 0
  | _ => none

/-- The longest run of bundles in order without `SAFE`: the run that reaches the first bundle, the bundles that are left until a
transfer leaves the order, and the rest of the version (log 83). -/
def straightRun (run : Nat) (left : Option Nat) : List (Bundle × List (Nat × Instr)) → Nat
  | [] => run
  | (w, ops) :: rest =>
    let here := if (header w).safe then 0 else run + 1
    let left := (ops.filterMap (fun o => leavesStraight o.2)).foldl (fun l n => some (min (l.getD n) n)) (left.map (· - 1))
    if left = some 0 then max here (straightRun 0 none rest) else max here (straightRun here left rest)

/-- Every check of R307. The safe bound of the version is the one that Idrok claims for it, or what its bundles show to be the
least, whichever is more (R38, log 83). -/
def State.mapxChecks (s : State) (m : MapxRequest) (vint : Nat) : Bool :=
  let bs := m.native ++ m.annex
  let marks := landings m.native.length m.map
  let ops := bs.map (s.bundleOps m.ctx)
  let run := straightRun 0 none (bs.zip (ops.map (fun o => o.getD [])))
  decide (m.canon.toNat % 4096 = 0) && decide (bits (m.words.getD 3 0) 63 32 = 0) && (mapxHeader m vint).isSome &&
    ops.all (fun o => o.isSome) &&
    ((bs.zip ops).zipIdx).all (fun (p : (Bundle × Option (List (Nat × Instr))) × Nat) => bundleLands m marks bs.length p.2 p.1.1 (p.1.2.getD [])) &&
    decide (max m.bound run ≤ m.declared)

/-- The bytes of bundles. -/
def bundleImage (l : List Bundle) : List Byte := l.flatMap (fun b => (List.range 32).map (fun i => b.extractLsb' (8 * i) 8))

/-- The page entry of a native or annex page: R and X, vintage 3. -/
def nativeEntry (frame : Addr) : Word := (frame.setWidth 64 &&& 0x0000FFFFFFFFF000) ||| 0x20B ||| (3 <<< 48)

/-- The page entry of a descriptor page: R. -/
def descEntry (frame : Addr) : Word := (frame.setWidth 64 &&& 0x0000FFFFFFFFF000) ||| 0x203

/-- Map a page and write its bytes, padded with pads. -/
def State.placePage (s : State) (ctx : Nat) (va frame : Addr) (bs : List Bundle) (free : List Addr) :
    Option (State × List Addr) :=
  match s.mapPage ctx va (nativeEntry frame) free with
  | none => none
  | some (s, free) =>
    let all := (bs ++ List.replicate 128 padWord).take 128
    match s.devAddr ctx frame.toNat with
    | none => none
    | some _ => (s.writeVa ctx va.toNat (bundleImage all)).map (fun s => (s, free))

/-- The version number of the descriptor that stands at DA, 0 where none is valid. -/
def State.oldVersion (s : State) (ctx : Nat) (page : Addr) (vint : Nat) : Nat :=
  match s.readVa ctx (descriptorAddr page) 256 with
  | none => 0
  | some bs =>
    let d := descriptorParts bs
    if (descriptorTreatment page vint d).isSome then bits (d.1.getD 3 0) 31 0 else 0

/-- Install a version: its pages, then its descriptor; none where a page cannot be mapped. -/
def State.installVersion (s : State) (m : MapxRequest) (t : Treatment) (version : Nat) : Option State :=
  let pages : Option (State × List Addr) := match t with
    | .racked nat annex _ _ _ _ =>
      match s.placePage m.ctx nat m.nativeFrame m.native m.tables with
      | none => none
      | some (s, free) => if annex = 0 then some (s, free) else s.placePage m.ctx annex m.annexFrame m.annex free
    | _ => some (s, m.tables)
  match pages with
  | none => none
  | some (s, free) =>
    let da : Addr := BitVec.ofNat 48 (descriptorAddr m.canon)
    let ready : Option State := match s.walk m.ctx da.toNat with
      | .ok _ => some s
      | _ => ((s.zeroFrame m.ctx m.descFrame.toNat).mapPage m.ctx (da &&& 0xFFFFFFFFF000) (descEntry m.descFrame) free).map
          (fun p => p.1)
    ready.bind (fun s => s.writeVa m.ctx da.toNat
      (((mapxWords m version).take 8).flatMap (fun w => leBytes w.toNat 8) ++ m.map ++ List.replicate 64 0))

/-- The cores of a context: those of the clusters that serve it (log 81). -/
def State.ctxCores (s : State) (ctx : Nat) : List Nat :=
  (s.cores.filter (fun p => (s.clusterAt (clusterOf p.1)).ctx == some ctx)).map (fun p => p.1)

/-- MAPX: the checks, then the pages and the descriptor with version + 1, then a request to the firmware of each core of
the context (R307, R310). A refused submission leaves everything as it was. The call returns when each of these cores has issued
its `vinval` (`State.vinvalIssued`). -/
def execMapx (s : State) : Out :=
  match s.req with
  | some (.mapx m) =>
    let s := { s with req := none }
    match s.walk m.ctx m.canon.toNat with
    | .ok p =>
      let vint := p.vint.toNat
      if !s.mapxChecks m vint then done s
      else
        let version := (s.oldVersion m.ctx m.canon vint + 1) % 2 ^ 32
        match mapxHeader m vint with
        | none => done s
        | some t =>
          match s.installVersion m t version with
          | none => done s
          | some s =>
            let e : FwEvent := ⟨0x12, 0, wordOf version, m.canon.setWidth 64⟩
            let ns := s.ctxCores m.ctx
            let s := ns.foldl (fun (s : State) n =>
              s.modCoreAt n (fun c => { c with fw := { c.fw with queue := c.fw.queue ++ [e] } })) s
            done (if ns.isEmpty then s else { s with mapxCalls := s.mapxCalls ++ [⟨m.ctx, m.canon, ns⟩] })
    | _ => done s
  | _ => done s

end Sys2Proof.Machine
end

