-- ==== Sys2Proof/Machine/Fabric.lean ====
section
/-! DEFINITION. Receiving flits of the scale-up fabric (R330, R331). -/

namespace Sys2Proof.Machine

/-- Whether the partition that a flit names owns the port. -/
def State.ownsPort (s : State) (port part : Nat) : Bool :=
  match find? part s.mgmt.partitions with
  | some r => r.fabricPorts.contains port
  | none => false

/-- R331: whether a port accepts a flit. -/
def State.accepts (s : State) (port : Nat) (v : Vec) : Bool :=
  let f := flitOf v
  flitGood v && f.seq == (s.port port).expect && s.ownsPort port f.part

/-- Count a flit that names a partition other than the owner of the port. -/
def State.countForeign (s : State) (port : Nat) (v : Vec) : State :=
  if flitGood v && !s.ownsPort port (flitOf v).part then
    s.setPort port { s.port port with undelivered := (s.port port).undelivered + 1 }
  else s

/-- R331: take a flit of a type. An accepted one is acknowledged, link control too, and delivered; any other is dropped, and a
retry request names the expected number. -/
def State.takeFlit (s : State) (port : Nat) (v : Vec) (type : Nat) (deliver : State → Flit → State) : State :=
  let f := flitOf v
  if s.accepts port v && f.type == type then
    let s := s.setPort port { s.port port with expect := (s.port port).expect + 1 }
    deliver (s.sendControl port 5 f.src f.part f.seq) f
  else
    let s := s.countForeign port v
    s.sendControl port 6 f.src f.part (s.port port).expect

/-- Valid payload bytes. -/
def Flit.data (f : Flit) : List Byte := f.payload.take (min f.len 224)

/-- FABRIC_IDLE: an idle flit is received and checked; it carries nothing. -/
def execFabricIdle (s : State) : Out :=
  match s.req with
  | some (.fabricIdle port v) => done (({ s with req := none } : State).takeFlit port v 0 (fun s _ => s))
  | _ => done s

/-- Change the last element of a list for which a predicate holds. -/
def updateLast {α : Type} (p : α → Bool) (f : α → α) : List α → List α
  | [] => []
  | x :: r => if p x && !r.any p then f x :: r else x :: updateLast p f r

/-- Collective data of another module: a flit of the contents of a group table, whose first one begins a call of a member, or
of the member's send buffer (log 24). -/
def State.takeRemote (s : State) (f : Flit) : State :=
  let i := f.tag / 2
  let mine (r : Remote) : Bool := r.src == f.src && r.index == i
  if f.tag % 2 = 1 ∧ f.addr = 0 then { s with remote := s.remote ++ [⟨f.src, i, f.data, []⟩] }
  else if f.tag % 2 = 1 then { s with remote := updateLast mine (fun r => { r with contents := r.contents ++ f.data }) s.remote }
  else { s with remote := updateLast mine (fun r => { r with data := r.data ++ f.data }) s.remote }

/-- COLLECTIVE_DATA: the payload reaches the collective unit. -/
def execCollectiveData (s : State) : Out :=
  match s.req with
  | some (.collectiveData port v) => done (({ s with req := none } : State).takeFlit port v 1 State.takeRemote)
  | _ => done s

/-! Remote writes and atomics (R216, R227, R331): performed through a context of the destination partition, in the order in
which their port has accepted them; one that meets a page that pauses, or a closed meter, waits (R201, R203, R345). -/

/-- Whether n bytes of a context can be accessed as the front end accesses them, at once or after a pause. -/
def State.reachable (s : State) (ctx : Nat) (kind : AccessKind) (va n : Nat) : Bool :=
  (List.range n).all (fun i => match s.feFinding ctx kind (wordOf (va + i)) with
    | .fault _ => false
    | _ => true)

/-- The context of a partition through which a remote access goes: the lowest one that reaches its bytes (log 35). -/
def State.remoteCtx (s : State) (part : Nat) (kinds : List AccessKind) (va n : Nat) : Option Nat :=
  ((s.ctxsOf part).find? (fun c => kinds.all (fun k => s.reachable c.1 k va n))).map (fun c => c.1)

/-- An atomic in a payload: function, size, operand, comparison value (log 36). -/
def remoteAtomicOf (bs : List Byte) : Option (AmoOp × Nat × Nat × Nat) :=
  ((amoByFn (fieldAt bs 0 1) ⟨0, 0, 0, false⟩).bind amoOpOf).map (fun op =>
    (op, if fieldAt bs 1 1 % 2 = 1 then 8 else 4, fieldAt bs 8 8, fieldAt bs 16 8))

/-- How a remote write or atomic accesses memory, and the bytes it accesses there; none for an atomic that is none. -/
def Flit.access (f : Flit) : Option (List AccessKind × Nat) :=
  if f.type = 3 then (remoteAtomicOf f.data).bind (fun x => if f.addr % x.2.1 = 0 then some ([.read, .write], x.2.1) else none)
  else some ([.write], f.data.length)

/-- What n bytes of a remote access cost in a context (R345). -/
def State.remoteCosts (s : State) (ctx : Nat) (f : Flit) (n : Nat) : List (Nat × Nat) :=
  s.feCosts ctx f.addr n ++ (if f.type = 3 then s.feCosts ctx f.addr n else [])

/-- Whether a remote access waits: for a page, or for its meters. -/
def State.remoteWaits (s : State) (f : Flit) : Bool :=
  match f.access with
  | none => false
  | some (kinds, n) =>
    match s.remoteCtx f.part kinds f.addr n with
    | none => false
    | some ctx =>
      kinds.any (fun k => (List.range n).any (fun i => s.feFinding ctx k (wordOf (f.addr + i)) == .pause)) ||
        !s.feReady ctx (s.remoteCosts ctx f n)

/-- Perform a remote access. One that no context reaches is not performed. -/
def State.performRemote (s : State) (port : Nat) (f : Flit) : State :=
  match f.access with
  | none => s
  | some (kinds, n) =>
    match s.remoteCtx f.part kinds f.addr n with
    | none => s
    | some ctx =>
      let costs := s.remoteCosts ctx f n
      if f.type = 3 then
        match remoteAtomicOf f.data, s.readVa ctx f.addr n with
        | some (op, _, x, c), some bs =>
          let old := leValue bs
          let new := amoValue op (8 * n) old (x % 2 ^ (8 * n)) (c % 2 ^ (8 * n))
          let s := ((s.writeVa ctx f.addr (leBytes new n)).getD s).countAll ctx costs
          s.sendFlit port ⟨4, true, 0, f.src, n, f.addr, f.part, 0, f.tag, leBytes old n⟩
        | _, _ => s
      else ((s.writeVa ctx f.addr f.data).getD s).countAll ctx costs

/-- A remote access that a port has accepted: performed at once, or behind those that wait. -/
def State.takeRemoteAccess (s : State) (port : Nat) (v : Vec) (f : Flit) : State :=
  let p := s.port port
  if !p.pending.isEmpty || s.remoteWaits f then s.setPort port { p with pending := p.pending ++ [v] } else s.performRemote port f

/-- The first port whose oldest waiting access can be performed now. -/
def State.remoteReady (s : State) : Option (Nat × Vec) :=
  (List.range 16).findSome? (fun n => match (s.port n).pending with
    | v :: _ => if s.remoteWaits (flitOf v) then none else some (n, v)
    | [] => none)

/-- Perform it. -/
def State.goOnRemote (s : State) : State :=
  match s.remoteReady with
  | none => s
  | some (n, v) => (s.setPort n { s.port n with pending := (s.port n).pending.tail }).performRemote n (flitOf v)

/-- REMOTE_WRITE: the payload is written at its address through a context of the destination partition; or, without a flit, the
oldest access that waited goes on. -/
def execRemoteWrite (s : State) : Out :=
  match s.req with
  | some (.remoteWrite port v) =>
    done (({ s with req := none } : State).takeFlit port v 2 (fun s f => s.takeRemoteAccess port v f))
  | _ => done s.goOnRemote

/-- REMOTE_ATOMIC: the atomic is applied once at its address, and a reply carries the old word (R216, R331); or, without a flit,
the oldest access that waited goes on. -/
def execRemoteAtomic (s : State) : Out :=
  match s.req with
  | some (.remoteAtomic port v) =>
    done (({ s with req := none } : State).takeFlit port v 3 (fun s f => s.takeRemoteAccess port v f))
  | _ => done s.goOnRemote

/-- ATOMIC_REPLY: the old word comes back under the tag of its request. -/
def execAtomicReply (s : State) : Out :=
  match s.req with
  | some (.atomicReply port v) =>
    done (({ s with req := none } : State).takeFlit port v 4 (fun s f =>
      s.setPort port { s.port port with replies := (s.port port).replies ++ [(f.tag, f.data)] }))
  | _ => done s

/-- The number that a flit of link control names: one of the other direction (log 37). -/
def Flit.names (f : Flit) : BitVec 32 := BitVec.ofNat 32 f.tag

/-- The flits of a port from a number on that it still keeps; none for a number that it does not keep. -/
def FabricPort.keptFrom (p : FabricPort) (n : BitVec 32) : List Vec := p.retry.dropWhile (fun v => (flitOf v).seq != n)

/-- A flit is acknowledged: it and those before it need not be sent again. -/
def FabricPort.acknowledge (p : FabricPort) (n : BitVec 32) : FabricPort :=
  match p.keptFrom n with
  | [] => p
  | _ :: r => { p with retry := r, retryCount := 0, retryStale := 0 }

/-- A retry is asked for: the port sends again from the named number, and keeps count of how often in a row one flit has been
sent again (R329, R331). Each flit that was on the link behind it is dropped there and asks again; these requests ask for
nothing new, and are waited out (log 26). -/
def FabricPort.resend (p : FabricPort) (n : BitVec 32) : FabricPort :=
  let kept := p.keptFrom n
  let again := p.retrySeq == n && p.retryCount != 0
  if kept.isEmpty then p
  else if again && p.retryStale != 0 then { p with retryStale := p.retryStale - 1 }
  else
    { p with sent := p.sent ++ kept, retrySeq := n, retryCount := if again then p.retryCount + 1 else 1
             retryStale := kept.length - 1 }

/-- ACKNOWLEDGE: flits up to the named one need not be sent again. -/
def execAcknowledge (s : State) : Out :=
  match s.req with
  | some (.acknowledge port v) =>
    done (({ s with req := none } : State).takeFlit port v 5 (fun s f => s.setPort port ((s.port port).acknowledge f.names)))
  | _ => done s

/-- The sender resends from the named number: the first time a retry, and each later time in a row because the retry before has
failed; after 3 failed retries the port's width is reduced (R329). -/
def State.retryAsked (s : State) (port : Nat) (n : BitVec 32) : State :=
  let p := (s.port port).resend n
  if p.retryCount = 4 then
    (s.setPort port { p with retryCount := 1 }).reduceWidth (16 + port) (s.halfWidth (16 + port))
  else s.setPort port p

/-- RETRY_REQUEST: the sender resends from the named number. -/
def execRetryRequest (s : State) : Out :=
  match s.req with
  | some (.retryRequest port v) =>
    done (({ s with req := none } : State).takeFlit port v 6 (fun s f => s.retryAsked port f.names))
  | _ => done s

/-! Requests that only meters hold up (R345). -/

/-- The remote accesses that wait for the meters of a context. -/
def State.remoteHeld (s : State) (ctx : Nat) : List (Nat × Nat) :=
  (List.range 16).flatMap (fun n => match (s.port n).pending with
    | [] => []
    | v :: _ =>
      let f := flitOf v
      match f.access with
      | none => []
      | some (kinds, k) =>
        if s.remoteCtx f.part kinds f.addr k = some ctx then
          (s.closedAt whoFrontEnd ctx (s.remoteCosts ctx f k)).map (fun r => (whoFrontEnd, r))
        else [])

/-- What the front end and the fabric ports ask of memory joins its meters (R345). -/
def State.noteFeHeld (s : State) : State :=
  (s.contexts.filter (fun p => s.metered p.1)).foldl
    (fun (s : State) p =>
      s.holdAt p.1 whoFrontEnd (whoFrontEnd + 1) (s.feHeld p.1 ++ s.graphHeld p.1 ++ s.changeHeld p.1 ++ s.remoteHeld p.1)) s

end Sys2Proof.Machine
end

