-- ==== Sys2Proof/Machine/Boot.lean ====
section
/-! DEFINITION. Boot, the admission of dies and the SPDM responder (R20, R349 to R352). -/

namespace Sys2Proof.Machine

/-! Measurement (R350). -/

/-- The 48 bytes of a digest. -/
def digestBytes (x : BitVec 384) : List Byte := leBytes x.toNat 48

/-- Measure bytes into the log. -/
def Boot.measure (b : Boot) (i : Nat) (bs : List Byte) : Boot := { b with log := put i (Config.sha384 bs) b.log }

/-- What log index 5 measures: the boot source, with the digest of the URL for a network boot. -/
def bootSource (x : BootImage) (network : Bool) : List Byte :=
  if network then 1 :: digestBytes (Config.sha384 x.url) else [0]

/-- The secret that a die's keys come from: its CDI, the HMAC of its device secret and the digest of its own first code; the
cache die has its stage 1 key. -/
def Boot.cdi (b : Boot) (d : Nat) : BitVec 384 :=
  if d = 8 then Config.stage1Key else Config.hmac384 (Config.deviceSecret d) (Config.sha384 (find [] d b.code))

/-- A die's identity certificate: its identity key, certified by the stage 1 key of the cache die. -/
def Boot.certificate (b : Boot) (d : Nat) : List Byte := Config.certify Config.stage1Key (Config.identityKey (b.cdi d))

/-! Joining the ring (R20, R352). -/

/-- What a die signs with: its CDI, or another value where its key is not its own. -/
def Boot.signingKey (b : Boot) (d : Nat) : BitVec 384 := if b.failing.contains d then ~~~(b.cdi d) else b.cdi d

/-- One side of a challenge: the die signs the 48-byte nonce of the other, which verifies its chain and the signature. -/
def Boot.sideOk (b : Boot) (d : Nat) (nonce : BitVec 384) : Bool :=
  Config.verifies (b.certificate d) (digestBytes nonce) (Config.signWith (b.signingKey d) (digestBytes nonce))

/-- A mutual challenge of two dies, with fresh nonces. -/
def State.challengeDies (s : State) (a d : Nat) : State × Bool :=
  ({ s with free := s.free + 2 },
    s.boot.sideOk d (Config.freshNonce s.free) && s.boot.sideOk a (Config.freshNonce (s.free + 1)))

/-- Whom a die has to meet: the cache die, and for a compute die each ring neighbour that has been admitted. -/
def Boot.challengers (b : Boot) (d : Nat) : List Nat :=
  (if d = 8 then [] else [8]) ++ (if d < 8 then [(d + 1) % 8, (d + 7) % 8].filter b.admitted.contains else [])

/-- The challenges of a die, which must all succeed. -/
def State.challengeAll (s : State) (d : Nat) : List Nat → State × Bool
  | [] => (s, true)
  | a :: r =>
    match s.challengeDies a d with
    | (s, true) => s.challengeAll d r
    | (s, false) => (s, false)

/-- Admit a die: its certificate is kept and measured. -/
def State.admitDie (s : State) (d : Nat) : State :=
  let c := s.boot.certificate d
  { s with boot := { (s.boot.measure (16 + d) c) with
    certs := put d c s.boot.certs, admitted := s.boot.admitted ++ [d], next := d + 1 } }

/-- Fence a die: its log entry is zero. -/
def State.fenceDie (s : State) (d : Nat) : State :=
  let s := s.modDieAt d (fun x => { x with fenced := true })
  { s with boot := { s.boot with log := put (16 + d) 0 s.boot.log, next := d + 1 } }

/-- Boot is over. The control OS writes the flash slot again after a network boot (R349). -/
def State.bootDone (s : State) : State :=
  { s with boot := { s.boot with stage := 3, flash := if s.boot.fromNetwork then s.boot.image else s.boot.flash } }

/-- Admit dies in ascending order until one does not answer or all are done; then boot is over. -/
def State.admitDies (s : State) : Nat → State
  | 0 => s
  | n + 1 =>
    let d := s.boot.next
    if 13 ≤ d then s.bootDone
    else if s.boot.silent.contains d then s
    else
      match s.challengeAll d (s.boot.challengers d) with
      | (s, true) => (s.admitDie d).admitDies n
      | (s, false) => (s.fenceDie d).admitDies n

/-- R349: whether the signature of stage 1 and its manifest verifies under the vendor key. -/
def stage1Good (x : BootImage) : Bool := Config.vendorSigned (x.stage1 ++ x.manifest) x.signature

/-- The digest that a manifest names, by its number (log 30). -/
def manifestDigest (x : BootImage) (i : Nat) : List Byte := (x.manifest.drop (48 * i)).take 48

/-- R349: whether the stage 2 images have the digests that the manifest names. -/
def stage2Good (x : BootImage) : Bool :=
  digestBytes (Config.sha384 x.os) == manifestDigest x 0 && digestBytes (Config.sha384 x.firmware) == manifestDigest x 1 &&
    digestBytes (Config.sha384 x.idrok) == manifestDigest x 2

/-- Stage 2: the images that the manifest names are measured and run, and dies are admitted. -/
def State.bootStage2 (s : State) (x : BootImage) : State :=
  if stage2Good x then
    let b := ((s.boot.measure 2 x.os).measure 3 x.firmware).measure 4 x.idrok
    ({ s with boot := { b with stage := 2, next := 0, admitted := [] } } : State).admitDies 14
  else { s with mgmt := { s.mgmt with bootFailed := true } }

/-- Stage 1 from a source: image, manifest with its configuration, and source are measured, then stage 2 follows. -/
def State.bootStage1 (s : State) (x : BootImage) (network : Bool) : State :=
  let b := { s.boot with stage := 1, image := some x, fromNetwork := network }
  let b := ((b.measure 0 x.stage1).measure 1 (x.manifest ++ x.config)).measure 5 (bootSource x network)
  ({ s with boot := b, mgmt := { s.mgmt with bootFailed := false } } : State).bootStage2 x

/-- The boot ROM tries the network: its image runs where the signature is good; otherwise boot has failed (R349). -/
def State.bootNetwork (s : State) : State :=
  match s.boot.network with
  | some x => if stage1Good x then s.bootStage1 x true else { s with mgmt := { s.mgmt with bootFailed := true } }
  | none => { s with mgmt := { s.mgmt with bootFailed := true } }

/-- POWER_ON: the boot ROM takes stage 1 from flash, or from the network where the slot is empty or fails its signature; a
failure of both leaves the ROM waiting (R349). -/
def execPowerOn (s : State) : Out :=
  if s.boot.powered then done s
  else
    let s : State := { s with boot := { s.boot with powered := true } }
    match s.boot.flash with
    | some x => done (if stage1Good x then s.bootStage1 x false else s.bootNetwork)
    | none => done s.bootNetwork

/-- BOOT_NETWORK_RETRY: the ROM tries the network again, every 60 s, with what the network answers now (R349). -/
def execBootNetworkRetry (s : State) : Out :=
  let s : State := match s.req with
    | some (.bootNetworkRetry x) => { s with req := none, boot := { s.boot with network := x } }
    | _ => s
  if s.boot.stage = 0 ∧ s.boot.powered = true then done s.bootNetwork else done s

/-- DIE_CHALLENGE_TIMEOUT: the die whose challenge is open does not answer within 10 ms and is fenced; admission goes on
(R20, R352). Fencing takes effect only at boot. -/
def execDieChallengeTimeout (s : State) : Out :=
  match s.req with
  | some (.dieChallengeTimeout die) =>
    let s := { s with req := none }
    if s.boot.stage = 2 ∧ s.boot.next = die ∧ die < 13 then done ((s.fenceDie die).admitDies 14) else done s
  | _ => done s

/-! The SPDM responder (R351). Response codes are those of DMTF SPDM 1.3 (log 38). -/

/-- Send a response on a port. -/
def State.respond (s : State) (port code : Nat) (payload : List Byte) : State :=
  { s with spdm := { s.spdm with responses := s.spdm.responses ++ [(port, code, payload)] } }

/-- An ERROR response: unexpected request 0x04, invalid request 0x01. -/
def State.spdmError (s : State) (port code : Nat) : State := s.respond port 0x7F (leBytes code 1)

/-- Whether the control OS serves a port: port 0, and those that it owns (R332, R351). -/
def State.serves (s : State) (port : Nat) : Bool := port == 0 || s.mgmt.osPorts.contains port

/-- Answer a request once the control OS runs; without it, and on a port that it does not serve, nothing answers. -/
def State.spdmAnswer (s : State) (port : Nat) (ready : Bool) (k : State → State) : Out :=
  let s := { s with req := none }
  if s.boot.stage < 3 ∨ s.serves port = false then done s
  else if ready then done (k s) else done (s.spdmError port 0x04)

/-- A fresh nonce. -/
def State.nonce (s : State) : State × List Byte :=
  ({ s with free := s.free + 1 }, (digestBytes (Config.freshNonce s.free)).take 32)

/-- The chain that the responder presents: that of the cache die. -/
def State.chain (s : State) : List Byte := find [] 8 s.boot.certs

/-- GET_VERSION: version 1.3; the exchange starts again. -/
def execGetVersion (s : State) : Out :=
  match s.req with
  | some (.getVersion port) =>
    s.spdmAnswer port true (fun s =>
      ({ s with spdm := { s.spdm with versioned := true, capable := false, negotiated := false } } : State).respond port 0x04
        (leBytes 1 1 ++ leBytes 0x1300 2))
  | _ => done s

/-- GET_CAPABILITIES: certificates, challenges and signed measurements; no mutual authentication, key exchange or secure
sessions. -/
def execGetCapabilities (s : State) : Out :=
  match s.req with
  | some (.getCapabilities port) =>
    s.spdmAnswer port s.spdm.versioned (fun s =>
      ({ s with spdm := { s.spdm with capable := true } } : State).respond port 0x61 (leBytes 0x16 4))
  | _ => done s

/-- NEGOTIATE_ALGORITHMS: ECDSA P-384 with SHA-384 and nothing else. -/
def execNegotiateAlgorithms (s : State) : Out :=
  match s.req with
  | some (.negotiateAlgorithms port ecdsa sha) =>
    s.spdmAnswer port s.spdm.capable (fun s =>
      if ecdsa && sha then
        ({ s with spdm := { s.spdm with negotiated := true } } : State).respond port 0x63 (leBytes 0x80 4 ++ leBytes 0x02 4)
      else s.spdmError port 0x01)
  | _ => done s

/-- GET_DIGESTS. -/
def execGetDigests (s : State) : Out :=
  match s.req with
  | some (.getDigests port) =>
    s.spdmAnswer port s.spdm.negotiated (fun s => s.respond port 0x01 (digestBytes (Config.sha384 s.chain)))
  | _ => done s

/-- GET_CERTIFICATE. -/
def execGetCertificate (s : State) : Out :=
  match s.req with
  | some (.getCertificate port) => s.spdmAnswer port s.spdm.negotiated (fun s => s.respond port 0x02 s.chain)
  | _ => done s

/-- A signed response: the payload, and the signature over the requester's nonce and the payload. -/
def State.respondSigned (s : State) (port code : Nat) (nonce : BitVec 256) (payload : List Byte) : State :=
  s.respond port code (payload ++ Config.ecdsaSign (leBytes nonce.toNat 32 ++ payload))

/-- CHALLENGE: the digest of the chain and a fresh nonce, signed. -/
def execChallenge (s : State) : Out :=
  match s.req with
  | some (.challenge port nonce) =>
    s.spdmAnswer port s.spdm.negotiated (fun s =>
      let chain := s.chain
      let (s, n) := s.nonce
      s.respondSigned port 0x03 nonce (digestBytes (Config.sha384 chain) ++ n))
  | _ => done s

/-- GET_MEASUREMENTS: measurement n is log index n, signed with a fresh nonce; an index without an entry is an error. -/
def execGetMeasurements (s : State) : Out :=
  match s.req with
  | some (.getMeasurements port i nonce) =>
    s.spdmAnswer port s.spdm.negotiated (fun s =>
      match find? i s.boot.log with
      | none => s.spdmError port 0x01
      | some d =>
        let (s, n) := s.nonce
        s.respondSigned port 0x60 nonce (leBytes i 1 ++ digestBytes d ++ n))
  | _ => done s

end Sys2Proof.Machine
end

