-- ==== Sys2Proof/Machine/Scalar.lean ====
section
/-! DEFINITION. The A slots (R77 to R85): each operation reads its sources as they stand and puts its result in flight
with the latency of `latency`. -/

namespace Sys2Proof.Machine

/-! Results (R77, R78). -/

/-- Signed division: all ones by zero, truncated toward zero, and -2^63 / -1 wraps (R78). -/
def divS (x y : Word) : Word := if y = 0 then BitVec.allOnes 64 else BitVec.ofInt 64 (x.toInt.tdiv y.toInt)
/-- Unsigned division. -/
def divU (x y : Word) : Word := if y = 0 then BitVec.allOnes 64 else wordOf (x.toNat / y.toNat)
/-- Signed remainder, with the sign of x. -/
def remS (x y : Word) : Word := if y = 0 then BitVec.allOnes 64 else BitVec.ofInt 64 (x.toInt.tmod y.toInt)
/-- Unsigned remainder. -/
def remU (x y : Word) : Word := if y = 0 then BitVec.allOnes 64 else wordOf (x.toNat % y.toNat)
/-- Bits [127:64] of the signed product. -/
def mulHi (x y : Word) : Word := BitVec.ofInt 64 (x.toInt * y.toInt / 2 ^ 64)
/-- Bits [127:64] of the unsigned product. -/
def mulHiU (x y : Word) : Word := wordOf (x.toNat * y.toNat / 2 ^ 64)
/-- Leading zeros. -/
def clzW (x : Word) : Word := if x = 0 then 64 else wordOf (63 - Nat.log2 x.toNat)
/-- Trailing zeros. -/
def ctzW (x : Word) : Word := wordOf (lowestBit 64 x.toNat)
/-- One bits. -/
def popW (x : Word) : Word := wordOf (popNat 64 x.toNat)
/-- A shift count: the low six bits. -/
def sh6 (y : Word) : Nat := y.toNat % 64

/-- An operation of two registers. -/
def State.runAR (s : State) (i : Instr) (f : FormAR) (g : Word → Word → Word) : Out :=
  guarded i s (fun s => s.landA f.d (g (s.readA f.s) (s.readA f.t)) (latency i))

/-- An operation of a register and an immediate. -/
def State.runAI (s : State) (i : Instr) (f : FormAI) (g : Word → Word → Word) : Out :=
  guarded i s (fun s => s.landA f.d (g (s.readA f.s) (s.immAI f.imm)) (latency i))

def execAdd (f : FormAR) (s : State) : Out := s.runAR (.add f) f (fun x y => x + y)
def execSub (f : FormAR) (s : State) : Out := s.runAR (.sub f) f (fun x y => x - y)
def execAnd (f : FormAR) (s : State) : Out := s.runAR (.and f) f (fun x y => x &&& y)
def execOr (f : FormAR) (s : State) : Out := s.runAR (.or f) f (fun x y => x ||| y)
def execXor (f : FormAR) (s : State) : Out := s.runAR (.xor f) f (fun x y => x ^^^ y)
def execAndn (f : FormAR) (s : State) : Out := s.runAR (.andn f) f (fun x y => x &&& ~~~y)
def execShl (f : FormAR) (s : State) : Out := s.runAR (.shl f) f (fun x y => x <<< sh6 y)
def execShr (f : FormAR) (s : State) : Out := s.runAR (.shr f) f (fun x y => x >>> sh6 y)
def execSar (f : FormAR) (s : State) : Out := s.runAR (.sar f) f (fun x y => x.sshiftRight (sh6 y))
def execMin (f : FormAR) (s : State) : Out := s.runAR (.min f) f (fun x y => if x.slt y then x else y)
def execMax (f : FormAR) (s : State) : Out := s.runAR (.max f) f (fun x y => if x.slt y then y else x)
def execMinu (f : FormAR) (s : State) : Out := s.runAR (.minu f) f (fun x y => if x.ult y then x else y)
def execMaxu (f : FormAR) (s : State) : Out := s.runAR (.maxu f) f (fun x y => if x.ult y then y else x)
def execSlt (f : FormAR) (s : State) : Out := s.runAR (.slt f) f (fun x y => wordBit (x.slt y))
def execSltu (f : FormAR) (s : State) : Out := s.runAR (.sltu f) f (fun x y => wordBit (x.ult y))
def execSeq (f : FormAR) (s : State) : Out := s.runAR (.seq f) f (fun x y => wordBit (x == y))
def execSne (f : FormAR) (s : State) : Out := s.runAR (.sne f) f (fun x y => wordBit (x != y))
def execMul (f : FormAR) (s : State) : Out := s.runAR (.mul f) f (fun x y => x * y)
def execMulh (f : FormAR) (s : State) : Out := s.runAR (.mulh f) f mulHi
def execMulhu (f : FormAR) (s : State) : Out := s.runAR (.mulhu f) f mulHiU
def execDiv (f : FormAR) (s : State) : Out := s.runAR (.div f) f divS
def execDivu (f : FormAR) (s : State) : Out := s.runAR (.divu f) f divU
def execRem (f : FormAR) (s : State) : Out := s.runAR (.rem f) f remS
def execRemu (f : FormAR) (s : State) : Out := s.runAR (.remu f) f remU
def execClz (f : FormAR) (s : State) : Out := s.runAR (.clz f) f (fun x _ => clzW x)
def execCtz (f : FormAR) (s : State) : Out := s.runAR (.ctz f) f (fun x _ => ctzW x)
def execPopc (f : FormAR) (s : State) : Out := s.runAR (.popc f) f (fun x _ => popW x)

/-! Immediates (R79). -/

def execAddi (f : FormAI) (s : State) : Out := s.runAI (.addi f) f (fun x y => x + y)
def execAndi (f : FormAI) (s : State) : Out := s.runAI (.andi f) f (fun x y => x &&& y)
def execOri (f : FormAI) (s : State) : Out := s.runAI (.ori f) f (fun x y => x ||| y)
def execXori (f : FormAI) (s : State) : Out := s.runAI (.xori f) f (fun x y => x ^^^ y)
def execSlti (f : FormAI) (s : State) : Out := s.runAI (.slti f) f (fun x y => wordBit (x.slt y))
def execSltui (f : FormAI) (s : State) : Out := s.runAI (.sltui f) f (fun x y => wordBit (x.ult y))

/-- An immediate shift: the count is imm12[5:0]. -/
def State.runShift (s : State) (i : Instr) (f : FormAI) (g : Word → Nat → Word) : Out :=
  guarded i s (fun s => s.landA f.d (g (s.readA f.s) (f.imm.toNat % 64)) (latency i))

def execShli (f : FormAI) (s : State) : Out := s.runShift (.shli f) f (fun x n => x <<< n)
def execShri (f : FormAI) (s : State) : Out := s.runShift (.shri f) f (fun x n => x >>> n)
def execSari (f : FormAI) (s : State) : Out := s.runShift (.sari f) f (fun x n => x.sshiftRight n)

/-! Constants (R80 to R82). -/

/-- R80. -/
def execMovi (f : FormAX) (s : State) : Out :=
  guarded (.movi f) s (fun s => s.landA f.d (s.immAX f.imm) (latency (.movi f)))

/-- A halfword put into a word. -/
def putHalf (x : Word) (hw : BitVec 2) (v : BitVec 16) : Word :=
  (x &&& ~~~((0xFFFF : Word) <<< (16 * hw.toNat))) ||| (v.setWidth 64 <<< (16 * hw.toNat))

/-- R81. -/
def execMovk (f : FormAK) (s : State) : Out :=
  guarded (.movk f) s (fun s => s.landA f.d (putHalf (s.readA f.d) f.hw f.imm) (latency (.movk f)))

/-- R64, R82: `immx` extends the immediate of slot 0 and has no effect of its own. -/
def execImmx (payload : BitVec 24) (s : State) : Out :=
  guarded (.immx payload) s (fun s => s.modIssue (fun i => { i with immx := some payload }))

/-! Three sources and bit fields (R83, R84). -/

def execMadd (f : FormAM) (s : State) : Out :=
  guarded (.madd f) s (fun s => s.landA f.d (s.readA f.s * s.readA f.t + s.readA f.u) (latency (.madd f)))
def execLea (f : FormAM) (s : State) : Out :=
  guarded (.lea f) s (fun s => s.landA f.d (s.readA f.s + (s.readA f.t <<< f.u.toNat)) (latency (.lea f)))
def execSel (f : FormAM) (s : State) : Out :=
  guarded (.sel f) s (fun s =>
    s.landA f.d (if s.readA f.u ≠ 0 then s.readA f.s else s.readA f.t) (latency (.sel f)))

/-- The field of a word at pos, len bits long. -/
def fieldOf (x : Word) (pos len : Nat) : Nat := x.toNat / 2 ^ pos % 2 ^ len

def execBfx (f : FormAM) (s : State) : Out :=
  guarded (.bfx f) s (fun s =>
    s.landA f.d (wordOfInt (sextNat (f.u.toNat + 1) (fieldOf (s.readA f.s) f.t.toNat (f.u.toNat + 1)))) (latency (.bfx f)))
def execBfxz (f : FormAM) (s : State) : Out :=
  guarded (.bfxz f) s (fun s =>
    s.landA f.d (wordOf (fieldOf (s.readA f.s) f.t.toNat (f.u.toNat + 1))) (latency (.bfxz f)))

/-- Insert the low len bits of y into x at pos. -/
def insertField (x y : Word) (pos len : Nat) : Word :=
  let m : Word := wordOf (2 ^ len - 1) <<< pos
  (x &&& ~~~m) ||| ((wordOf (fieldOf y 0 len) <<< pos) &&& m)

def execBfi (f : FormAM) (s : State) : Out :=
  guarded (.bfi f) s (fun s =>
    s.landA f.d (insertField (s.readA f.d) (s.readA f.s) f.t.toNat (f.u.toNat + 1)) (latency (.bfi f)))

/-! Control registers (R43, R44, R85). -/

def execCsrr (f : FormAI) (s : State) : Out :=
  guarded (.csrr f) s (fun s => s.landA f.d (s.readCsr f.imm.toNat) (latency (.csrr f)))
def execCsrw (f : FormAI) (s : State) : Out :=
  guarded (.csrw f) s (fun s => s.landCsr f.imm.toNat (s.readA f.s) (latency (.csrw f)))

end Sys2Proof.Machine
end

