-- ==== Sys2Proof/Machine/VectorMem.lean ====
section
/-! DEFINITION. Vector loads and stores (R208 to R212). -/

namespace Sys2Proof.Machine

/-- The bits of the elements of a vector load that its mask enables: its result lands in them alone (R108, R210). -/
def State.lvEnabled (s : State) (f : FormLV) : Vec :=
  let w := 8 * lvSize f
  elemMask w (fun j => s.en f.k w j) (2048 / w)

/-- A vector load. -/
def State.runVLoad (s : State) (i : Instr) (f : FormLV) : Out :=
  guarded i s (fun s => s.enqueueLoad i (.v (rotate s.core.regs.rb f.vd.toNat)) (s.lvEnabled f))

def execVld (f : FormLV) (s : State) : Out := s.runVLoad (.vld f) f
def execVldEf (f : FormLV) (s : State) : Out := s.runVLoad (.vldEf f) f
def execVlds (f : FormLV) (s : State) : Out := s.runVLoad (.vlds f) f
def execVldx (f : FormLV) (s : State) : Out := s.runVLoad (.vldx f) f
def execVldb (f : FormLV) (s : State) : Out := s.runVLoad (.vldb f) f
def execVst (f : FormLV) (s : State) : Out := s.runStore (.vst f)
def execVstEf (f : FormLV) (s : State) : Out := s.runStore (.vstEf f)
def execVsts (f : FormLV) (s : State) : Out := s.runStore (.vsts f)
def execVstx (f : FormLV) (s : State) : Out := s.runStore (.vstx f)
def execVstmc (f : FormLV) (s : State) : Out := s.runStore (.vstmc f)

end Sys2Proof.Machine
end

