-- ==== Sys2Proof/Machine/Dispatch.lean ====
section
/-! DEFINITION. The meaning of every row: one arm for each constructor of `Instr`. -/

namespace Sys2Proof.Machine

/-- What a row does. -/
def exec (i : Instr) (s : State) : Host.Outcome State Fault Refusal :=
  match i with
  | .branchTargetFill dist => Sys2Proof.Machine.execBranchTargetFill dist s
  | .callTargetFill dist => Sys2Proof.Machine.execCallTargetFill dist s
  | .loopExitFill dist => Sys2Proof.Machine.execLoopExitFill dist s
  | .add f => Sys2Proof.Machine.execAdd f s
  | .sub f => Sys2Proof.Machine.execSub f s
  | .and f => Sys2Proof.Machine.execAnd f s
  | .or f => Sys2Proof.Machine.execOr f s
  | .xor f => Sys2Proof.Machine.execXor f s
  | .andn f => Sys2Proof.Machine.execAndn f s
  | .shl f => Sys2Proof.Machine.execShl f s
  | .shr f => Sys2Proof.Machine.execShr f s
  | .sar f => Sys2Proof.Machine.execSar f s
  | .min f => Sys2Proof.Machine.execMin f s
  | .max f => Sys2Proof.Machine.execMax f s
  | .minu f => Sys2Proof.Machine.execMinu f s
  | .maxu f => Sys2Proof.Machine.execMaxu f s
  | .slt f => Sys2Proof.Machine.execSlt f s
  | .sltu f => Sys2Proof.Machine.execSltu f s
  | .seq f => Sys2Proof.Machine.execSeq f s
  | .sne f => Sys2Proof.Machine.execSne f s
  | .mul f => Sys2Proof.Machine.execMul f s
  | .mulh f => Sys2Proof.Machine.execMulh f s
  | .mulhu f => Sys2Proof.Machine.execMulhu f s
  | .div f => Sys2Proof.Machine.execDiv f s
  | .divu f => Sys2Proof.Machine.execDivu f s
  | .rem f => Sys2Proof.Machine.execRem f s
  | .remu f => Sys2Proof.Machine.execRemu f s
  | .clz f => Sys2Proof.Machine.execClz f s
  | .ctz f => Sys2Proof.Machine.execCtz f s
  | .popc f => Sys2Proof.Machine.execPopc f s
  | .addi f => Sys2Proof.Machine.execAddi f s
  | .andi f => Sys2Proof.Machine.execAndi f s
  | .ori f => Sys2Proof.Machine.execOri f s
  | .xori f => Sys2Proof.Machine.execXori f s
  | .slti f => Sys2Proof.Machine.execSlti f s
  | .sltui f => Sys2Proof.Machine.execSltui f s
  | .shli f => Sys2Proof.Machine.execShli f s
  | .shri f => Sys2Proof.Machine.execShri f s
  | .sari f => Sys2Proof.Machine.execSari f s
  | .movi f => Sys2Proof.Machine.execMovi f s
  | .movk f => Sys2Proof.Machine.execMovk f s
  | .immx payload => Sys2Proof.Machine.execImmx payload s
  | .madd f => Sys2Proof.Machine.execMadd f s
  | .lea f => Sys2Proof.Machine.execLea f s
  | .sel f => Sys2Proof.Machine.execSel f s
  | .bfx f => Sys2Proof.Machine.execBfx f s
  | .bfxz f => Sys2Proof.Machine.execBfxz f s
  | .bfi f => Sys2Proof.Machine.execBfi f s
  | .csrr f => Sys2Proof.Machine.execCsrr f s
  | .csrw f => Sys2Proof.Machine.execCsrw f s
  | .brEq f => Sys2Proof.Machine.execBrEq f s
  | .brNe f => Sys2Proof.Machine.execBrNe f s
  | .brLt f => Sys2Proof.Machine.execBrLt f s
  | .brGe f => Sys2Proof.Machine.execBrGe f s
  | .brLtu f => Sys2Proof.Machine.execBrLtu f s
  | .brGeu f => Sys2Proof.Machine.execBrGeu f s
  | .bz r disp => Sys2Proof.Machine.execBz r disp s
  | .bnz r disp => Sys2Proof.Machine.execBnz r disp s
  | .jmp disp => Sys2Proof.Machine.execJmp disp s
  | .call disp => Sys2Proof.Machine.execCall disp s
  | .jmpr r => Sys2Proof.Machine.execJmpr r s
  | .callr r => Sys2Proof.Machine.execCallr r s
  | .loop f => Sys2Proof.Machine.execLoop f s
  | .loopi f => Sys2Proof.Machine.execLoopi f s
  | .lbrk lvl => Sys2Proof.Machine.execLbrk lvl s
  | .trap code => Sys2Proof.Machine.execTrap code s
  | .align imm => Sys2Proof.Machine.execAlign imm s
  | .alignr r => Sys2Proof.Machine.execAlignr r s
  | .bwait bar => Sys2Proof.Machine.execBwait bar s
  | .barm bar c arrivals => Sys2Proof.Machine.execBarm bar c arrivals s
  | .mark scope => Sys2Proof.Machine.execMark scope s
  | .ldB f => Sys2Proof.Machine.execLdB f s
  | .ldBu f => Sys2Proof.Machine.execLdBu f s
  | .ldH f => Sys2Proof.Machine.execLdH f s
  | .ldHu f => Sys2Proof.Machine.execLdHu f s
  | .ldW f => Sys2Proof.Machine.execLdW f s
  | .ldWu f => Sys2Proof.Machine.execLdWu f s
  | .ldD f => Sys2Proof.Machine.execLdD f s
  | .ldx f => Sys2Proof.Machine.execLdx f s
  | .vld f => Sys2Proof.Machine.execVld f s
  | .vldEf f => Sys2Proof.Machine.execVldEf f s
  | .vlds f => Sys2Proof.Machine.execVlds f s
  | .vldx f => Sys2Proof.Machine.execVldx f s
  | .vldb f => Sys2Proof.Machine.execVldb f s
  | .pref f => Sys2Proof.Machine.execPref f s
  | .stB f => Sys2Proof.Machine.execStB f s
  | .stH f => Sys2Proof.Machine.execStH f s
  | .stW f => Sys2Proof.Machine.execStW f s
  | .stD f => Sys2Proof.Machine.execStD f s
  | .stx f => Sys2Proof.Machine.execStx f s
  | .vst f => Sys2Proof.Machine.execVst f s
  | .vstEf f => Sys2Proof.Machine.execVstEf f s
  | .vsts f => Sys2Proof.Machine.execVsts f s
  | .vstx f => Sys2Proof.Machine.execVstx f s
  | .vstmc f => Sys2Proof.Machine.execVstmc f s
  | .wbk f => Sys2Proof.Machine.execWbk f s
  | .amoAdd f => Sys2Proof.Machine.execAmoAdd f s
  | .amoFadd f => Sys2Proof.Machine.execAmoFadd f s
  | .amoMin f => Sys2Proof.Machine.execAmoMin f s
  | .amoMax f => Sys2Proof.Machine.execAmoMax f s
  | .amoMinu f => Sys2Proof.Machine.execAmoMinu f s
  | .amoMaxu f => Sys2Proof.Machine.execAmoMaxu f s
  | .amoAnd f => Sys2Proof.Machine.execAmoAnd f s
  | .amoOr f => Sys2Proof.Machine.execAmoOr f s
  | .amoXor f => Sys2Proof.Machine.execAmoXor f s
  | .amoSwap f => Sys2Proof.Machine.execAmoSwap f s
  | .amoCas f => Sys2Proof.Machine.execAmoCas f s
  | .amoFmin f => Sys2Proof.Machine.execAmoFmin f s
  | .amoFmax f => Sys2Proof.Machine.execAmoFmax f s
  | .redAdd f => Sys2Proof.Machine.execRedAdd f s
  | .redFadd f => Sys2Proof.Machine.execRedFadd f s
  | .redMin f => Sys2Proof.Machine.execRedMin f s
  | .redMax f => Sys2Proof.Machine.execRedMax f s
  | .redMinu f => Sys2Proof.Machine.execRedMinu f s
  | .redMaxu f => Sys2Proof.Machine.execRedMaxu f s
  | .redAnd f => Sys2Proof.Machine.execRedAnd f s
  | .redOr f => Sys2Proof.Machine.execRedOr f s
  | .redXor f => Sys2Proof.Machine.execRedXor f s
  | .redFmin f => Sys2Proof.Machine.execRedFmin f s
  | .redFmax f => Sys2Proof.Machine.execRedFmax f s
  | .pin size base ways slot => Sys2Proof.Machine.execPin size base ways slot s
  | .unpin slot => Sys2Proof.Machine.execUnpin slot s
  | .tsend vs die queue => Sys2Proof.Machine.execTsend vs die queue s
  | .tsendDeparture die => Sys2Proof.Machine.execTsendDeparture die s
  | .vfadd f => Sys2Proof.Machine.execVfadd f s
  | .vfsub f => Sys2Proof.Machine.execVfsub f s
  | .vfmul f => Sys2Proof.Machine.execVfmul f s
  | .vfma f => Sys2Proof.Machine.execVfma f s
  | .vfms f => Sys2Proof.Machine.execVfms f s
  | .vfmin f => Sys2Proof.Machine.execVfmin f s
  | .vfmax f => Sys2Proof.Machine.execVfmax f s
  | .vfabs f => Sys2Proof.Machine.execVfabs f s
  | .vfneg f => Sys2Proof.Machine.execVfneg f s
  | .vfceq f => Sys2Proof.Machine.execVfceq f s
  | .vfclt f => Sys2Proof.Machine.execVfclt f s
  | .vfcle f => Sys2Proof.Machine.execVfcle f s
  | .vfcun f => Sys2Proof.Machine.execVfcun f s
  | .vfrcp f => Sys2Proof.Machine.execVfrcp f s
  | .vfrsq f => Sys2Proof.Machine.execVfrsq f s
  | .vfexp2 f => Sys2Proof.Machine.execVfexp2 f s
  | .vflog2 f => Sys2Proof.Machine.execVflog2 f s
  | .vadd f => Sys2Proof.Machine.execVadd f s
  | .vsub f => Sys2Proof.Machine.execVsub f s
  | .vmul f => Sys2Proof.Machine.execVmul f s
  | .vmulh f => Sys2Proof.Machine.execVmulh f s
  | .vmin f => Sys2Proof.Machine.execVmin f s
  | .vmax f => Sys2Proof.Machine.execVmax f s
  | .vminu f => Sys2Proof.Machine.execVminu f s
  | .vmaxu f => Sys2Proof.Machine.execVmaxu f s
  | .vand f => Sys2Proof.Machine.execVand f s
  | .vor f => Sys2Proof.Machine.execVor f s
  | .vxor f => Sys2Proof.Machine.execVxor f s
  | .vshl f => Sys2Proof.Machine.execVshl f s
  | .vshr f => Sys2Proof.Machine.execVshr f s
  | .vsar f => Sys2Proof.Machine.execVsar f s
  | .vceq f => Sys2Proof.Machine.execVceq f s
  | .vclt f => Sys2Proof.Machine.execVclt f s
  | .vcltu f => Sys2Proof.Machine.execVcltu f s
  | .vsel f => Sys2Proof.Machine.execVsel f s
  | .vaddsat f => Sys2Proof.Machine.execVaddsat f s
  | .vsubsat f => Sys2Proof.Machine.execVsubsat f s
  | .vperm f => Sys2Proof.Machine.execVperm f s
  | .vslide vd vs n => Sys2Proof.Machine.execVslide vd vs n s
  | .vslideR vd vs n => Sys2Proof.Machine.execVslideR vd vs n s
  | .viota f => Sys2Proof.Machine.execViota f s
  | .vbcast f => Sys2Proof.Machine.execVbcast f s
  | .vmovs vd vs idx zx width => Sys2Proof.Machine.execVmovs vd vs idx zx width s
  | .vinsl vd vs idx width => Sys2Proof.Machine.execVinsl vd vs idx width s
  | .vredsum f => Sys2Proof.Machine.execVredsum f s
  | .vredmax f => Sys2Proof.Machine.execVredmax f s
  | .vredmin f => Sys2Proof.Machine.execVredmin f s
  | .kopAnd d a b k => Sys2Proof.Machine.execKopAnd d a b k s
  | .kopOr d a b k => Sys2Proof.Machine.execKopOr d a b k s
  | .kopXor d a b k => Sys2Proof.Machine.execKopXor d a b k s
  | .kopAndn d a b k => Sys2Proof.Machine.execKopAndn d a b k s
  | .kpop ad ks k => Sys2Proof.Machine.execKpop ad ks k s
  | .kpopMv ad ks k => Sys2Proof.Machine.execKpopMv ad ks k s
  | .kpopFf ad ks k => Sys2Proof.Machine.execKpopFf ad ks k s
  | .kfrom kd r => Sys2Proof.Machine.execKfrom kd r s
  | .kset kd r => Sys2Proof.Machine.execKset kd r s
  | .vcvt f => Sys2Proof.Machine.execVcvt f s
  | .vcvts f => Sys2Proof.Machine.execVcvts f s
  | .vmaxabs fmt latch vs k ty nf => Sys2Proof.Machine.execVmaxabs fmt latch vs k ty nf s
  | .vdecb vd vs t q => Sys2Proof.Machine.execVdecb vd vs t q s
  | .vdecbTab blk vs t => Sys2Proof.Machine.execVdecbTab blk vs t s
  | .vsplit vd vs ve ix ty row => Sys2Proof.Machine.execVsplit vd vs ve ix ty row s
  | .vsexp f => Sys2Proof.Machine.execVsexp f s
  | .vscalb f => Sys2Proof.Machine.execVscalb f s
  | .vflags vd clr => Sys2Proof.Machine.execVflags vd clr s
  | .vflagsSet vd vs => Sys2Proof.Machine.execVflagsSet vd vs s
  | .pset r w asgn bsgn => Sys2Proof.Machine.execPset r w asgn bsgn s
  | .ppush vs m h => Sys2Proof.Machine.execPpush vs m h s
  | .pfill vs h => Sys2Proof.Machine.execPfill vs h s
  | .pfillN vs h => Sys2Proof.Machine.execPfillN vs h s
  | .pacc mask delta kq => Sys2Proof.Machine.execPacc mask delta kq s
  | .pshift d r n => Sys2Proof.Machine.execPshift d r n s
  | .pdrain vd a row part fmt d nf => Sys2Proof.Machine.execPdrain vd a row part fmt d nf s
  | .pclr mask rb ex => Sys2Proof.Machine.execPclr mask rb ex s
  | .pclrSt ad mask => Sys2Proof.Machine.execPclrSt ad mask s
  | .pexpRows vs ty int => Sys2Proof.Machine.execPexpRows vs ty int s
  | .pexpCols vs ty mask part int => Sys2Proof.Machine.execPexpCols vs ty mask part int s
  | .cgoIn f => Sys2Proof.Machine.execCgoIn f s
  | .cgoOut f => Sys2Proof.Machine.execCgoOut f s
  | .cseq lvl c r => Sys2Proof.Machine.execCseq lvl c r s
  | .cstart f => Sys2Proof.Machine.execCstart f s
  | .cstartOut f => Sys2Proof.Machine.execCstartOut f s
  | .sbindIn f => Sys2Proof.Machine.execSbindIn f s
  | .sbindOut f => Sys2Proof.Machine.execSbindOut f s
  | .sbindOff port => Sys2Proof.Machine.execSbindOff port s
  | .streamFillRead port => Sys2Proof.Machine.execStreamFillRead port s
  | .streamDrainWrite port => Sys2Proof.Machine.execStreamDrainWrite port s
  | .bank mask mode => Sys2Proof.Machine.execBank mask mode s
  | .collAllreduceSum f => Sys2Proof.Machine.execCollAllreduceSum f s
  | .collAllreduceMax f => Sys2Proof.Machine.execCollAllreduceMax f s
  | .collAllgather f => Sys2Proof.Machine.execCollAllgather f s
  | .collRscatterSum f => Sys2Proof.Machine.execCollRscatterSum f s
  | .collRscatterMax f => Sys2Proof.Machine.execCollRscatterMax f s
  | .collBcast f => Sys2Proof.Machine.execCollBcast f s
  | .fwyield fin code => Sys2Proof.Machine.execFwyield fin code s
  | .tlbinv scope fs all => Sys2Proof.Machine.execTlbinv scope fs all s
  | .csrwp fs num => Sys2Proof.Machine.execCsrwp fs num s
  | .csrrp fd num => Sys2Proof.Machine.execCsrrp fd num s
  | .flread fd fi => Sys2Proof.Machine.execFlread fd fi s
  | .flwrite fs fi => Sys2Proof.Machine.execFlwrite fs fi s
  | .vinval fs all => Sys2Proof.Machine.execVinval fs all s
  | .bmap fh fe => Sys2Proof.Machine.execBmap fh fe s
  | .ringCountSend die => Sys2Proof.Machine.execRingCountSend die s
  | .ringCountReceipt die src count lam => Sys2Proof.Machine.execRingCountReceipt die src count lam s
  | .taskDispatch core launch => Sys2Proof.Machine.execTaskDispatch core launch s
  | .timedLaunchReservation core launch => Sys2Proof.Machine.execTimedLaunchReservation core launch s
  | .timedPhaseStart phase => Sys2Proof.Machine.execTimedPhaseStart phase s
  | .nop => Sys2Proof.Machine.execNop s
  | .padBundle => Sys2Proof.Machine.execPadBundle s
  | .bundleFetch => Sys2Proof.Machine.execBundleFetch s
  | .safeBundle => Sys2Proof.Machine.execSafeBundle s
  | .segMark => Sys2Proof.Machine.execSegMark s
  | .safeBoundOverrun => Sys2Proof.Machine.execSafeBoundOverrun s
  | .cadenceOverrun => Sys2Proof.Machine.execCadenceOverrun s
  | .freezeEnd => Sys2Proof.Machine.execFreezeEnd s
  | .loadDataArrival => Sys2Proof.Machine.execLoadDataArrival s
  | .loopEndEvaluation => Sys2Proof.Machine.execLoopEndEvaluation s
  | .drainNoOpBundles => Sys2Proof.Machine.execDrainNoOpBundles s
  | .ret => Sys2Proof.Machine.execRet s
  | .halt => Sys2Proof.Machine.execHalt s
  | .realign => Sys2Proof.Machine.execRealign s
  | .realignEffect => Sys2Proof.Machine.execRealignEffect s
  | .bbadv => Sys2Proof.Machine.execBbadv s
  | .leave => Sys2Proof.Machine.execLeave s
  | .leaveEnd => Sys2Proof.Machine.execLeaveEnd s
  | .atomicExecution => Sys2Proof.Machine.execAtomicExecution s
  | .atomicBounce => Sys2Proof.Machine.execAtomicBounce s
  | .atomicReissue => Sys2Proof.Machine.execAtomicReissue s
  | .writePerformed => Sys2Proof.Machine.execWritePerformed s
  | .clusterCacheWriteback => Sys2Proof.Machine.execClusterCacheWriteback s
  | .pageWalkComplete => Sys2Proof.Machine.execPageWalkComplete s
  | .retentionTakesEffect => Sys2Proof.Machine.execRetentionTakesEffect s
  | .tsendArrival => Sys2Proof.Machine.execTsendArrival s
  | .pressBeat => Sys2Proof.Machine.execPressBeat s
  | .nestStart => Sys2Proof.Machine.execNestStart s
  | .sequencerEmission => Sys2Proof.Machine.execSequencerEmission s
  | .copyElementsPerformed => Sys2Proof.Machine.execCopyElementsPerformed s
  | .barrierContribution => Sys2Proof.Machine.execBarrierContribution s
  | .bankSwitchComplete => Sys2Proof.Machine.execBankSwitchComplete s
  | .collectiveMatch => Sys2Proof.Machine.execCollectiveMatch s
  | .collectiveCompletion => Sys2Proof.Machine.execCollectiveCompletion s
  | .resume => Sys2Proof.Machine.execResume s
  | .fwtake => Sys2Proof.Machine.execFwtake s
  | .firmwareActivation => Sys2Proof.Machine.execFirmwareActivation s
  | .fwshareWindow => Sys2Proof.Machine.execFwshareWindow s
  | .preemptionRequest => Sys2Proof.Machine.execPreemptionRequest s
  | .timedPhasePreemption => Sys2Proof.Machine.execTimedPhasePreemption s
  | .segmentCopyComplete => Sys2Proof.Machine.execSegmentCopyComplete s
  | .codeReloadComplete => Sys2Proof.Machine.execCodeReloadComplete s
  | .mapx => Sys2Proof.Machine.execMapx s
  | .leaveGrant => Sys2Proof.Machine.execLeaveGrant s
  | .thermalTrip => Sys2Proof.Machine.execThermalTrip s
  | .thermalTripClear => Sys2Proof.Machine.execThermalTripClear s
  | .meterRefill => Sys2Proof.Machine.execMeterRefill s
  | .taskComplete => Sys2Proof.Machine.execTaskComplete s
  | .faultReport => Sys2Proof.Machine.execFaultReport s
  | .doorbell => Sys2Proof.Machine.execDoorbell s
  | .queueStatusClear => Sys2Proof.Machine.execQueueStatusClear s
  | .cancelGraph => Sys2Proof.Machine.execCancelGraph s
  | .cancelJob => Sys2Proof.Machine.execCancelJob s
  | .graphStart => Sys2Proof.Machine.execGraphStart s
  | .phaseNode => Sys2Proof.Machine.execPhaseNode s
  | .copyNode => Sys2Proof.Machine.execCopyNode s
  | .condNode => Sys2Proof.Machine.execCondNode s
  | .loopNode => Sys2Proof.Machine.execLoopNode s
  | .loopEndNode => Sys2Proof.Machine.execLoopEndNode s
  | .waitNode => Sys2Proof.Machine.execWaitNode s
  | .waitSatisfied => Sys2Proof.Machine.execWaitSatisfied s
  | .signalNode => Sys2Proof.Machine.execSignalNode s
  | .endNode => Sys2Proof.Machine.execEndNode s
  | .blockTransferComplete => Sys2Proof.Machine.execBlockTransferComplete s
  | .hostCopy => Sys2Proof.Machine.execHostCopy s
  | .completionRingResume => Sys2Proof.Machine.execCompletionRingResume s
  | .caps => Sys2Proof.Machine.execCaps s
  | .summary => Sys2Proof.Machine.execSummary s
  | .pcreate => Sys2Proof.Machine.execPcreate s
  | .presize => Sys2Proof.Machine.execPresize s
  | .pdestroy => Sys2Proof.Machine.execPdestroy s
  | .linkw => Sys2Proof.Machine.execLinkw s
  | .setclk => Sys2Proof.Machine.execSetclk s
  | .meter => Sys2Proof.Machine.execMeter s
  | .share => Sys2Proof.Machine.execShare s
  | .managementTick => Sys2Proof.Machine.execManagementTick s
  | .emergencyWidthReduction => Sys2Proof.Machine.execEmergencyWidthReduction s
  | .fabricIdle => Sys2Proof.Machine.execFabricIdle s
  | .collectiveData => Sys2Proof.Machine.execCollectiveData s
  | .remoteWrite => Sys2Proof.Machine.execRemoteWrite s
  | .remoteAtomic => Sys2Proof.Machine.execRemoteAtomic s
  | .atomicReply => Sys2Proof.Machine.execAtomicReply s
  | .acknowledge => Sys2Proof.Machine.execAcknowledge s
  | .retryRequest => Sys2Proof.Machine.execRetryRequest s
  | .contextChange => Sys2Proof.Machine.execContextChange s
  | .powerOn => Sys2Proof.Machine.execPowerOn s
  | .bootNetworkRetry => Sys2Proof.Machine.execBootNetworkRetry s
  | .dieChallengeTimeout => Sys2Proof.Machine.execDieChallengeTimeout s
  | .getVersion => Sys2Proof.Machine.execGetVersion s
  | .getCapabilities => Sys2Proof.Machine.execGetCapabilities s
  | .negotiateAlgorithms => Sys2Proof.Machine.execNegotiateAlgorithms s
  | .getDigests => Sys2Proof.Machine.execGetDigests s
  | .getCertificate => Sys2Proof.Machine.execGetCertificate s
  | .challenge => Sys2Proof.Machine.execChallenge s
  | .getMeasurements => Sys2Proof.Machine.execGetMeasurements s
  | .registerWrite => Sys2Proof.Machine.execRegisterWrite s
  | .contextCreation => Sys2Proof.Machine.execContextCreation s
  | .contextDestruction => Sys2Proof.Machine.execContextDestruction s
  | .pageMigration => Sys2Proof.Machine.execPageMigration s

end Sys2Proof.Machine
end

