-- ==== Sys2Proof/Machine/Schedule.lean ====
section
/-! DEFINITION. Which row comes next (log 1): the rows of the open bundle, then those of the acting core before its next
bundle, then those of the other cores of the tick, then those of the front end and of the tick's end. Each row is one
step. -/

namespace Sys2Proof.Machine

/-- A row and the state in which it runs; no row when the state only moves on. -/
abbrev NextRow := State × Option Instr

/-! Rows of a core (R46 to R54, R75, R173, R251, R254, R269, R275). -/

/-- Whether a core has met a trap. -/
def Core.trapFound (c : Core) : Bool :=
  match c.flow.finding with
  | some (.trap _ _ _) => true
  | _ => false

/-- Whether the oldest switch of a cluster may take effect: the accesses to its scratchpad banks that were issued up to its
bundle are done, those among them that a record holds too; and where it must write dirty bytes back, some can go (R196, R345). -/
def State.switchReady (s : State) (cl : Nat) : Bool :=
  let c := s.clusterAt cl
  match c.switching with
  | [] => false
  | x :: _ =>
    (clusterCores cl).all (fun n => !((s.coreAt n).windowAccesses.any (c.awaits x))) &&
      (!c.flushes x || s.someOpen (whoStore x.core) cl c.allDirty)

/-- The first of some choices. -/
def firstRow : List (Option Instr) → Option Instr
  | [] => none
  | some i :: _ => some i
  | none :: r => firstRow r

/-- A row when a condition holds. -/
def rowIf (b : Bool) (i : Instr) : Option Instr := if b then some i else none

/-- The row of an engine or queue of the acting core that can go on; whether the stream drivers are stopped (R53). -/
def State.engineRow (s : State) (stopped : Bool) : Option Instr :=
  firstRow [s.memRow, s.streamRow stopped, rowIf (s.readyCopy s.cur).isSome .copyElementsPerformed,
    rowIf (s.switchReady (clusterOf s.cur)) .bankSwitchComplete]

/-- Contributions that have arrived at the barriers of the acting core: they come behind the operations of the bundle of their
tick (R254). -/
def State.contribRow (s : State) : Option Instr := rowIf (!s.core.eng.contribs.isEmpty) .barrierContribution

/-- The row of the sequencer with the bundle being issued (R251). -/
def State.nestRow (s : State) : Option Instr :=
  match s.core.eng.nests with
  | [] => none
  | n :: _ =>
    if s.core.issue.nestDone || (n.bundle.map (fun b => decide (s.core.flow.bundleNo ≤ b))).getD false then none
    else if n.started then some .sequencerEmission else some .nestStart

/-- Whether ring time lets a `realign` take effect (R325). -/
def State.realignDue (s : State) : Bool :=
  s.core.task.realigning && decide (s.core.task.start.toNat ≤ s.ringEstimate (dieOf s.cur))

/-- Whether the open bundle can end. -/
def State.canLand (s : State) : Bool :=
  let c := s.core
  if c.fw.issuing then c.fw.pend.all (fun p => decide (c.fw.bundleNo < p.due) || p.ready) else c.landingReady s.tick

/-- Put the user bundle that waits for its landing aside while a firmware bundle issues (R275). -/
def State.holdBundle (s : State) : State :=
  s.modCore (fun c =>
    { c with fw := { c.fw with held := some c.issue }
             issue := { Issue.none with seq := c.issue.seq, setupSkip := c.issue.setupSkip } })

/-- Set the stage of the open bundle. -/
def State.atStage (s : State) (x : BundleStage) : State := s.modIssue (fun i => { i with stage := x })

/-- The next row of the open bundle; none when it must wait for another tick. -/
def State.openRow (s : State) : Option NextRow :=
  let c := s.core
  match c.issue.stage with
  | .closed => none
  | .ops =>
    match c.issue.todo with
    | .row r :: rest => some (s.modIssue (fun i => { i with slot := 8, todo := rest }), some r)
    | .slot k :: rest =>
      match (decodeSlot k (slotWord c.issue.word k)).toOption with
      | none => some (s.modIssue (fun i => { i with todo := rest }), none)
      | some op => some ((s.atSlot k).modIssue (fun i => { i with todo := rest, read := s.readsOf op }), some op)
    | [] => some (if c.fw.issuing then s.atStage .landing else s.translateTaken.atStage .engines, none)
  | .engines =>
    match firstRow [s.nestRow, s.engineRow false, s.contribRow, rowIf s.realignDue .realignEffect] with
    | some r => some (s, some r)
    | none => some (s.atStage .press, none)
  | .press => some (s.atStage .loops, rowIf (c.press.beatAt c.flow.bundleNo) .pressBeat)
  | .loops => some (s.atStage .next, rowIf (c.endsLoop && !c.flow.noOps) .loopEndEvaluation)
  | .next => some (s.chooseNext.atStage .landing, none)
  | .landing =>
    if c.faultFound then none
    else
      match firstRow [s.engineRow true, s.contribRow, rowIf s.realignDue .realignEffect] with
      | some r => some (s, some r)
      | none =>
        if s.canLand then some ({ s with acted := true }, some .freezeEnd)
        else if c.fwTurn && !c.fw.issuing && !s.acted then some ({ s.holdBundle with acted := true }, some .bundleFetch)
        else none

/-- R269: whether a trap may be taken: every request that can be performed is done, and results past their bundle have
landed. What is left in the queues is held up by the access that failed, or waits for a bank switch that such an access
holds up in turn. -/
def State.trapReady (s : State) : Bool :=
  let c := s.core.failWaiting (s.waitsForSwitch s.cur)
  (c.mem.loadQ ++ c.mem.storeQ).all (fun e => c.mem.takes e || ((entryAccess e).map (fun x => x.physical)).getD false) &&
    c.flow.pend.all (fun p => decide (c.flow.bundleNo ≤ p.due) || (c.mem.heldAccess p.seq).isSome)

/-- R284: whether the oldest event may start: copies are complete before a pre-empted core is released. -/
def Core.eventReady (c : Core) : Bool :=
  match c.fw.queue with
  | [] => false
  | e :: _ => c.eventDue && (e.cause != 0x10 ||
      (c.eng.copies.isEmpty && c.eng.contribs.isEmpty && c.mem.loadQ.isEmpty && c.mem.storeQ.isEmpty))

/-- Whether the oldest event of the acting core may start: what the stores of a pre-empted task left in the cluster cache is
home, so that it is seen where the task goes on (R284, log 68). -/
def State.eventReady (s : State) : Bool :=
  s.core.eventReady && ((s.core.fw.queue.head?.map (fun e => e.cause)) != some 0x10 || (s.cluster.ownBlocks s.cur).isEmpty)

/-- Whether that is to be written back now. -/
def State.leaveHome (s : State) : Bool := s.core.eventReady && !s.eventReady && s.writeBackReady

/-- End a wait. -/
def State.endWait (s : State) : State := s.modFlow (fun f => { f with wait := .none })

/-- The operation of a record that is due to be issued again, in hidden issue (R270). One whose result holds up what touches it is
issued at once, so that the guard's freeze ends (R301, R312). -/
def State.againRow (s : State) : Option NextRow :=
  let f := s.core.flow
  (f.again.find? (fun g => decide (g.bundle ≤ f.bundleNo) || g.entry.holds f.bundleNo)).map (fun g =>
    ((s.modFlow (fun f => { f with again := f.again.erase g })).modIssue
      (fun i => { i with again := some g, slot := g.entry.slot }), g.entry.instr))

/-- The row of the user context before its next bundle (R54, R95, R100, R287, R322): first what is to be issued again. A
scratchpad access that finds its bank busy with a copy freezes the core, and so does a target whose reading a meter holds up
(R345). -/
def State.userRow (s : State) : Option NextRow :=
  let c := s.core
  s.againRow.orElse fun _ =>
  if c.pushWaits s.tick || s.bankConflict s.cur then none else
  match c.flow.wait with
  | .barrier n => if (c.eng.barrier n).complete then some (s.endWait, none) else none
  | .leave => if c.task.leave then some (s.endWait, none) else none
  | .align t =>
    if s.ringEstimate (dieOf s.cur) < t ∨ c.task.alignReport.isSome then none else some (s.endWait, none)
  | .none =>
    let acted : State := { s with acted := true }
    match c.task.status with
    | .running =>
      if (c.flow.goto.map (s.enterOpen s.cur)).getD true then
        some (acted, some (if c.flow.noOps then .drainNoOpBundles else .bundleFetch))
      else none
    | .halted =>
      if c.inFlight || !c.eng.nests.isEmpty then some (acted, some .drainNoOpBundles)
      else if c.mem.storeQ.isEmpty && !(s.cluster.ownBlocks s.cur).isEmpty && s.writeBackReady then
        some (s, some .clusterCacheWriteback)
      else none
    | _ => none

/-- The next row of the acting core when no bundle is open; none when its turn is over. Contributions that no bundle of the tick
comes before end it. -/
def State.closedRow (s : State) : Option NextRow :=
  let c := s.core
  if c.issue.again.isSome then some (s.modIssue (fun i => { i with again := none }), none)
  else if c.faultFound then none
  else
    match firstRow [s.engineRow (c.task.status == .running && !c.flow.noOps), rowIf s.realignDue .realignEffect,
      rowIf ((c.mem.segCopy.map s.segmentOpen).getD false) .segmentCopyComplete,
      rowIf ((c.mem.reload.map s.reloadOpen).getD false) .codeReloadComplete,
      rowIf (c.trapFound && c.recordFree && s.trapReady) .firmwareActivation, rowIf s.eventReady .firmwareActivation,
      rowIf s.leaveHome .clusterCacheWriteback] with
    | some r => some (s, some r)
    | none =>
      let last : Option NextRow := s.contribRow.map (fun r => ({ s with acted := true }, some r))
      if s.acted then last
      else if c.fwTurn then some ({ s with acted := true }, some .bundleFetch)
      else if c.trapFound || c.fwHolds then last
      else s.userRow.orElse (fun _ => last)

/-- The next row of the acting core. -/
def State.coreRow (s : State) : Option NextRow :=
  match s.core.issue.stage with
  | .closed => s.closedRow
  | _ => s.openRow

/-- A core's turn begins. -/
def State.startTurn (s : State) (n : Nat) (rest : List Nat) : State :=
  ({ s with cur := n, turn := rest, acted := false } : State).landLate

/-! Rows of the front end and of the module (R347). -/

/-- A task that is complete. Once the host has had its turn in a tick, completions and faults reach the front end in the next
one (R347). -/
def State.completionRow (s : State) : Option NextRow :=
  if s.hostTurn then none
  else (s.cores.find? (fun p => s.complete p.1)).map (fun p => ({ s with cur := p.1 }, some .taskComplete))

/-- A core with a fault, the lowest first; or a phase that keeps a record (R326, R334). -/
def State.faultRow (s : State) : Option NextRow :=
  if s.hostTurn then none
  else
    match s.cores.find? (fun p => p.2.faultFound) with
    | some p => some ({ s with cur := p.1 }, some .faultReport)
    | none => if s.faultedPhase.isSome then some (s, some .faultReport) else none

/-- The next request of the outside world. -/
def State.inputRow (s : State) : Option NextRow :=
  match s.inputs with
  | [] => none
  | r :: rest => some ({ s with inputs := rest, req := some r, hostTurn := true }, some r.row)

/-- A timed phase whose cores have all reported at the chosen index (R288). -/
def State.reportRow (s : State) : Option NextRow :=
  if s.reported.isEmpty then none else some ({ s with req := none }, some .timedPhasePreemption)

/-- A queue that can go on and has not gone on in this tick. -/
def State.graphRow (s : State) : Option NextRow :=
  s.contexts.findSome? (fun c => (List.range 4).findSome? (fun q =>
    let k := 4 * c.1 + q
    if s.fe.served.contains k then none
    else (s.queueRow c.1 q).map (fun r => ({ s with fe := { s.fe with ctx := c.1, q := q, served := k :: s.fe.served } }, some r))))

/-- Leave that can be granted, and a transfer that can run. -/
def State.leaveRow (s : State) : Option NextRow := if s.gov.next.isSome then some (s, some .leaveGrant) else none
def State.transferRow (s : State) : Option NextRow :=
  if s.readyTransfer.isSome then some (s, some .blockTransferComplete) else none

/-- A completion ring with held records that can go on (R263). -/
def State.ringRow (s : State) : Option NextRow :=
  s.ringReady.map (fun c => ({ s with fe := { s.fe with ctx := c }, req := none }, some .completionRingResume))

/-- The row by which a cluster passes to a context, as far as meters let its dirty bytes go (R206, R345). -/
def State.changeRow (s : State) (core ctx : Nat) : Option NextRow :=
  let cl := clusterOf core
  if s.someOpen whoFrontEnd cl (s.clusterAt cl).allDirty then
    some ({ s with cur := core, fe := { s.fe with ctx := ctx } }, some .contextChange)
  else none

/-- Start a row on a core whose cluster must serve a context: it passes to the context first (R206). -/
def State.onCluster (s : State) (core ctx : Nat) (i : Instr) : Option NextRow :=
  if (s.clusterAt (clusterOf core)).ctx = some ctx then some (s, some i) else s.changeRow core ctx

/-- A free task to dispatch (R342). -/
def State.dispatchRow (s : State) : Option NextRow :=
  (List.range 8).findSome? (fun d => (s.dispatchChoice d).bind (fun p => (find? p.2 s.fe.launches).bind (fun l =>
    s.onCluster p.1 l.ctx (.taskDispatch p.1 p.2))))

/-- A core to reserve, and a timed phase to start (R343). -/
def State.reserveRow (s : State) : Option NextRow :=
  s.reserveChoice.map (fun p => (s, some (.timedLaunchReservation p.1 p.2)))
def State.startRow (s : State) : Option NextRow :=
  s.startable.bind (fun p => match s.foreignCluster p with
    | some n => s.changeRow n p.ctx
    | none => some (s, some (.timedPhaseStart p.id)))

/-- The collective unit (R259, R261). -/
def State.matchRow (s : State) : Option NextRow :=
  match s.nextMatch with
  | .wait => none
  | _ => some (s, some .collectiveMatch)
def State.collDoneRow (s : State) : Option NextRow :=
  if s.colls.any s.completable then some (s, some .collectiveCompletion) else none

/-- The mailbox (R353), whose command may wait for contexts that are leaving (R355). -/
def State.commandRow (s : State) : Option NextRow :=
  if s.commandWaits then none else (s.mgmt.cmd.bind Command.row).map (fun r => (s, some r))

/-- A context that is leaving and may go (R355). -/
def State.leavingRow (s : State) : Option NextRow :=
  s.leaver.map (fun c => ({ s with req := some (.contextDestruction c) }, some .contextDestruction))

/-- A remote write or atomic that waited and can be performed (R331). -/
def State.remoteRow (s : State) : Option NextRow :=
  s.remoteReady.map (fun p => ({ s with req := none }, some (if (flitOf p.2).type = 3 then .remoteAtomic else .remoteWrite)))

/-- Count records that arrive (R316). -/
def State.receiptRow (s : State) : Option NextRow :=
  (s.records.find? (fun r => decide (r.2.2.2.2 ≤ s.tick))).map (fun r =>
    (s, some (.ringCountReceipt r.1 r.2.1 r.2.2.1 r.2.2.2.1)))

/-- Timed sends that depart or arrive (R325). -/
def State.departureRow (s : State) : Option NextRow :=
  s.cores.findSome? (fun p => ((List.range 8).find? (fun d => s.departs p.1 d)).map (fun d =>
    ({ s with cur := p.1 }, some (.tsendDeparture d))))
def State.arrivalRow (s : State) : Option NextRow := if s.arrivingCore.isSome then some (s, some .tsendArrival) else none

/-- Retention that takes effect (R219). -/
def State.retentionRow (s : State) : Option NextRow :=
  if s.contexts.any (fun c => c.2.retain.any (fun r => !r.2.active)) then some (s, some .retentionTakesEffect) else none

/-- The timers of the tick: counts every 256 ticks of a die (R316), meters and windows every 1,024 (R275, R345), management
every 800,000 (R329). -/
def State.timers (s : State) : List Instr :=
  ((List.range 8).filter (fun d => (s.dieAt d).count.toNat % 256 = 0 && !(s.dieAt d).fenced)).map Instr.ringCountSend ++
    (if (s.tick + 1) % 1024 = 0 then [.meterRefill, .fwshareWindow] else []) ++
    (if (s.tick + 1) % 800000 = 0 then [.managementTick] else [])

/-- The next tick begins: every compute die counts, and the cores take their turns. What meters have held up in the tick that
ends has joined them (R345). -/
def State.nextTick (s : State) : State :=
  let s := s.noteFeHeld
  let s := (List.range 8).foldl (fun (s : State) d => s.modDieAt d (fun x => { x with count := x.count + 1 })) s
  let s := { s with tick := s.tick + 1, ended := false, hostTurn := false, closing := false, due := [], fe := { s.fe with served := [] } }
  match s.cores.map (fun p => p.1) with
  | [] => s
  | n :: r => s.startTurn n r

/-- The rows of the module in the order in which they are looked for: what can complete a task or raise a fault, then the events
of the front end in the order of R347, then what it does. -/
def moduleRows : List (State → Option NextRow) :=
  [State.receiptRow, State.departureRow, State.arrivalRow, State.collDoneRow, State.matchRow, State.completionRow,
    State.faultRow, State.inputRow, State.reportRow, State.graphRow, State.leaveRow, State.transferRow, State.remoteRow,
    State.ringRow, State.reserveRow, State.dispatchRow, State.startRow, State.commandRow, State.leavingRow,
    State.retentionRow]

/-- What comes when every core has had its turn. -/
def State.moduleRow (s : State) : NextRow :=
  match moduleRows.findSome? (fun f => f s) with
  | some x => x
  | none =>
    if !s.closing then ({ s with closing := true, due := s.timers }, none)
    else
      match s.due with
      | i :: r => ({ s with due := r }, some i)
      | [] => (s.nextTick, none)

/-- Whether a request is what the network answers to the boot ROM. -/
def isNetworkAnswer : Request → Bool
  | .bootNetworkRetry _ => true
  | _ => false

/-- Rows of boot (R349, R352): power-on, the challenge of a die that does not answer, and the network, with its next answer
where one waits. -/
def State.bootRow (s : State) : NextRow :=
  if !s.boot.powered then (s, some .powerOn)
  else if s.boot.stage = 2 then ({ s with req := some (.dieChallengeTimeout s.boot.next) }, some .dieChallengeTimeout)
  else
    match s.inputs.find? isNetworkAnswer with
    | some r => ({ s with inputs := s.inputs.erase r, req := some r }, some .bootNetworkRetry)
    | none => ({ s with req := none }, some .bootNetworkRetry)

/-- The next row. -/
def nextRow (s : State) : NextRow :=
  if s.boot.powered = false ∨ s.boot.stage < 3 then s.bootRow
  else if s.ended then s.moduleRow
  else
    match s.coreRow with
    | some x => x
    | none =>
      match s.turn with
      | n :: r => ((s.noteHeld s.cur).startTurn n r, none)
      | [] => ({ s.noteHeld s.cur with ended := true }, none)

end Sys2Proof.Machine
end

