-- ==== Sys2Proof/Machine/Step.lean ====
section
/-! DEFINITION. One step of the machine: the next row, run. -/

namespace Sys2Proof.Machine

/-- One step: the row that comes next is run; where no row runs, the state moves on. -/
def step (s : State) : Host.Outcome State Fault Refusal :=
  match nextRow s with
  | (t, some i) => exec i t
  | (t, none) => .next t

/-- The place that a bundle's first row has in the list of rows of an open bundle. -/
def firstTodo (b : Bundle) : List Todo :=
  match decodeBundle b with
  | .ok ((k, _) :: _) => [.slot k]
  | _ =>
    match rowOfBundle b with
    | some i => [.row i]
    | none => []

/-- The state in which the very next step runs the row of a bundle whose low bits are w: boot is over, and the acting
core runs a task that has fetched the bundle from its native page at address 0; for a firmware operation the bundle is
one of the firmware context (log 5). -/
def State.withFetchWord (s : State) (nbits w : Nat) : State :=
  let b := bundleOfBytes (bundleBytes (BitVec.ofNat 256 (w % 2 ^ nbits)))
  let fw := match rowOfBundle b with
    | some i => fwOnly i
    | none => false
  let s := { s with boot := { s.boot with powered := true, stage := 3 }, ended := false }
  s.modCore (fun c =>
    { c with
      task := { c.task with status := .running }
      mem := { c.mem with code := [(Pos.zero.ver, [b])] }
      flow := { c.flow with pos := Pos.zero, goto := none, wait := .none, finding := none }
      fw := { c.fw with issuing := fw, mode := if fw then .exclusive else c.fw.mode }
      issue := { Issue.none with stage := .ops, word := b, pos := Pos.zero, slot := 8, todo := firstTodo b } })

end Sys2Proof.Machine
end

