-- ==== Sys2Proof/Safety.lean ====
section
/-! DEFINITION. What claims about the machine are stated in: the invariants of the state, and the parts of it that a frame
speaks of. -/

namespace Sys2Proof.Machine

/-- The form of every byte memory: addresses rising, no listed byte equal to what an unlisted address reads as. -/
def State.memWf (s : State) : Prop :=
  s.mem.wf = true ∧ s.hostMem.wf = true ∧ ∀ p ∈ s.clusters, Memory.wf p.2.sram = true

/-- Two states agree on every memory a store reaches: HBM4E and cellar, key tags, host memory, the banks and caches of the
clusters. -/
def State.sameMemory (s t : State) : Prop :=
  t.mem = s.mem ∧ t.keyTag = s.keyTag ∧ t.hostMem = s.hostMem ∧ t.clusters = s.clusters ∧ t.l2 = s.l2

/-- Two states agree outside the cores. -/
def State.sameModule (s t : State) : Prop := t = { s with cores := t.cores }

/-- Two states agree but for their contexts: what counting bytes at meters leaves alone (R345). -/
def State.sameButContexts (s t : State) : Prop := t = { s with contexts := t.contexts }

/-- Two states hold the same contexts, but for the tokens of their meters. -/
def State.onlyCounts (s t : State) : Prop := ∀ n, t.ctxAt n = { s.ctxAt n with meters := (t.ctxAt n).meters }

/-- Two states agree on every core but the acting one. -/
def State.sameOthers (s t : State) : Prop := ∀ n, n ≠ s.cur → t.coreAt n = s.coreAt n

/-- Two cores agree but for results in flight and the bundle being issued. -/
def Core.sameButFlight (c d : Core) : Prop :=
  d.regs = c.regs ∧ d.loops = c.loops ∧ d.press = c.press ∧ d.mem = c.mem ∧ d.eng = c.eng ∧ d.task = c.task ∧
    d.flight = c.flight

/-! Completion: what an operation answers when its checks pass. -/

/-- An operation passes its checks (R75). One that is issued again in hidden issue has passed them at its first issue (R270). -/
def Passes (i : Instr) (s : State) : Prop := i.wellFormed = true ∧ opCheck i s = none

/-- The same at its first issue, for operations that are never issued again: those that leave no result in flight. -/
def PassesFirst (i : Instr) (s : State) : Prop := s.core.issue.again = none ∧ opCheck i s = none

/-- An operation that passes its checks answers the next state t. -/
def Completes (i : Instr) (s t : State) : Prop := Passes i s → exec i s = .next t

/-- An operation at its first issue that passes its encoding check and reads nothing that fails ECC: its operand checks are
what is left (R75, R207, R270). -/
def FirstIssue (i : Instr) (s : State) : Prop :=
  s.core.issue.again = none ∧ encCheck i s.core.issue.slot s = true ∧ readsStruck i s = false

/-- The result number that the next result or access of the acting core gets, and the results in flight of the context
that issues. -/
def State.inFlight (s : State) : List Pending := if s.core.fw.issuing then s.core.fw.pend else s.core.flow.pend

/-- An operation that passes its checks puts one result for vector register d in flight: element j of width w has value
g j, and exactly the elements that `on` picks are written (R107, R108). -/
def VectorResult (i : Instr) (s : State) (d : Reg) (w : Nat) (on : Nat → Bool) (flags : FlagVec) (l : Latency)
    (g : Nat → BitVec w) : Prop :=
  Passes i s → ∃ v en, exec i s = .next (s.land (.v (rotate s.core.regs.rb d.toNat)) v en flags l) ∧
    ∀ j, j < 2048 / w → elem v w j = g j ∧ elem en w j = if on j then BitVec.allOnes w else 0

/-- An operation that passes its checks puts one result in flight that writes all of vector register d: n elements of width
w, and zeros above them. -/
def WholeResult (i : Instr) (s : State) (d : Reg) (w n : Nat) (flags : FlagVec) (l : Latency) (g : Nat → BitVec w) : Prop :=
  Passes i s → ∃ v,
    exec i s = .next (s.land (.v (rotate s.core.regs.rb d.toNat)) v (BitVec.allOnes 2048) flags l) ∧
    (∀ j, j < n → elem v w j = g j) ∧ ∀ b, n * w ≤ b → v.getLsbD b = false

/-- An operation that passes its checks puts one result for mask register d in flight: bit b has value g b, and exactly
the bits that `on` picks are written. -/
def MaskResult (i : Instr) (s : State) (d : Nat) (on : Nat → Bool) (flags : FlagVec) (l : Latency) (g : Nat → Bool) : Prop :=
  Passes i s → ∃ v en : Word, exec i s = .next (s.landK d v en flags l) ∧
    ∀ b, b < 64 → v.getLsbD b = g b ∧ en.getLsbD b = on b

/-- An operation that passes its checks enters a queue of the core with the elements of its access: the entry is the last
one of the queue, is not translated yet and carries the next result number (R228). -/
def Enters (q : CoreMem → List QueueEntry) (i : Instr) (s t : State) (elems : List MemElem) : Prop :=
  ∃ x : Access, q t.core.mem = q s.core.mem ++ [.access x] ∧ x.instr = i ∧ x.ops = memOperands i s ∧
    x.elems = elems ∧ x.targets = none ∧
    x.seq = s.core.issue.seq ∧ x.physical = s.core.fw.issuing

/-- One more result is in flight in t than in s: for destination d, without a value yet, of the number of an access that
entered a queue. (An access is never computed again from an entry of the flight record: it is made again, R270.) -/
def Awaits (s t : State) (d : Dest) (en : Vec) : Prop :=
  ∃ p : Pending, t.inFlight = s.inFlight ++ [p] ∧ p.en = en ∧ p.ready = false ∧
    (s.core.issue.again = none → p.dest = d ∧ p.seq = s.core.issue.seq)

/-- A scalar load of n bytes into register d: it enters the load queue, and its result waits for the data (R103). -/
def ScalarLoad (i : Instr) (s : State) (d : Reg) (ea : Word) (n : Nat) : Prop :=
  Passes i s → ∃ t, exec i s = .next t ∧ Enters CoreMem.loadQ i s t [⟨0, ea, n⟩] ∧ Awaits s t (s.destA d) scalarBits ∧
    t.core.mem.storeQ = s.core.mem.storeQ ∧ s.sameModule t

/-- A vector load into register d of elements of n bytes: the enabled elements enter the load queue; with none enabled
nothing happens (R208 to R210). -/
def VectorLoad (i : Instr) (s : State) (d : Reg) (n : Nat) (on : Nat → Bool) (elems : List MemElem) : Prop :=
  Passes i s → ∃ t, exec i s = .next t ∧ s.sameModule t ∧ t.core.mem.storeQ = s.core.mem.storeQ ∧
    (if elems = [] then t = s
     else Enters CoreMem.loadQ i s t elems ∧ ∃ en, Awaits s t (.v (rotate s.core.regs.rb d.toNat)) en ∧
       ∀ j, j < 256 / n → elem en (8 * n) j = if on j then BitVec.allOnes (8 * n) else 0)

/-- A store: its elements enter the store queue; with none nothing happens. Memory itself is written when the store is
performed. -/
def StoreQueued (i : Instr) (s : State) (elems : List MemElem) : Prop :=
  Passes i s → ∃ t, exec i s = .next t ∧ s.sameModule t ∧ t.core.mem.loadQ = s.core.mem.loadQ ∧
    t.inFlight = s.inFlight ∧ (if elems = [] then t = s else Enters CoreMem.storeQ i s t elems)

/-- An atomic: it enters the store queue, and its old value is awaited in a63 (R215, R217). -/
def AtomicQueued (i : Instr) (s : State) (elems : List MemElem) : Prop :=
  Passes i s → ∃ t, exec i s = .next t ∧ s.sameModule t ∧ t.core.mem.loadQ = s.core.mem.loadQ ∧
    Enters CoreMem.storeQ i s t elems ∧ Awaits s t (s.destA 63) scalarBits

/-- The elements of a vector access that a mask enables, in ascending order, each with its address (R107, R208). -/
def enabledElems (s : State) (k : BitVec 3) (n : Nat) (ea : Nat → Word) : List MemElem :=
  ((List.range (256 / n)).filter (fun j => s.en k (8 * n) j)).map (fun j => ⟨j, ea j, n⟩)

/-- R127: node (l, i) of the pairwise tree over the elements of `leaf`, an absent one being none. -/
def treeNode (g : Nat → Nat → Nat × BitVec 5) (leaf : Nat → Option Nat) : Nat → Nat → Option Nat
  | 0, i => leaf i
  | l + 1, i =>
    match treeNode g leaf l (2 * i), treeNode g leaf l (2 * i + 1) with
    | some x, some y => some (g x y).1
    | some x, none => some x
    | none, y => y

/-- R147: bit b of a compare of width w: the AND of the predicates of the elements in lane b; both bits of a 64-bit element
take its predicate. -/
def lanePredicate (w : Nat) (p : Nat → Bool) (b : Nat) : Bool :=
  if w = 64 then p (b / 2) else (List.range (32 / w)).all (fun t => p (b * (32 / w) + t))

/-- R147, R109: the mask bits a compare of width w writes under steering mask k. -/
def laneWritten (w : Nat) (k : Word) (b : Nat) : Bool := if w = 64 then k.getLsbD (b / 2 * 2) else k.getLsbD b

/-- Every register file, engine and queue of a core outside its sequencing is as it was. -/
def Core.sameButIssue (c d : Core) : Prop :=
  d.regs = c.regs ∧ d.loops = c.loops ∧ d.press = c.press ∧ d.flow = c.flow ∧ d.mem = c.mem ∧ d.eng = c.eng ∧
    d.task = c.task ∧ d.fw = c.fw ∧ d.flight = c.flight

/-! Rounding (R120, R123 to R126): what the one rounding of an exact value is, said without the functions that compute it. An
exact magnitude is N / D in units of the smallest subnormal of the format. -/

/-- The floating-point formats of R120, and those of the VR instructions. -/
def allFormats : List FloatFormat :=
  [f64Format, f32Format, f16Format, bf16Format, e4m3Format, e5m2Format, e2m3Format, e2m1Format]
def vectorFormats : List FloatFormat := [f32Format, f16Format, bf16Format, f64Format]

/-- R120: the fields of an encoding: its sign, and the rest. -/
def FloatFormat.signOf (f : FloatFormat) (x : Nat) : Bool := x.testBit (f.ebits + f.mbits)
def FloatFormat.rest (f : FloatFormat) (x : Nat) : Nat := x % 2 ^ (f.ebits + f.mbits)

/-- R120: the magnitude of an encoding without sign, in units of the smallest subnormal. -/
def FloatFormat.units (f : FloatFormat) (r : Nat) : Nat :=
  let e := r / 2 ^ f.mbits; let m := r % 2 ^ f.mbits
  if e = 0 then m else (2 ^ f.mbits + m) * 2 ^ (e - 1)

/-- R120: the encodings that are numbers, infinities and NaNs, and the NaNs that signal (R123). -/
def FloatFormat.isNumber (f : FloatFormat) (x : Nat) : Prop := f.rest x ≤ f.maxEnc
def FloatFormat.isInf (f : FloatFormat) (x : Nat) : Prop := f.kind = .ieee ∧ f.rest x = f.infEnc
def FloatFormat.isNaN (f : FloatFormat) (x : Nat) : Prop := ¬ f.isNumber x ∧ ¬ f.isInf x
def FloatFormat.signals (f : FloatFormat) (x : Nat) : Prop :=
  f.isNaN x ∧ 7 ≤ f.mbits ∧ x.testBit (f.mbits - 1) = false

/-- The value of a number, in units of the smallest subnormal. -/
def FloatFormat.value (f : FloatFormat) (x : Nat) : Int :=
  if f.signOf x then -(f.units (f.rest x) : Int) else f.units (f.rest x)

/-- A magnitude of at most m + 1 significant bits: representable but for the upper end of the exponent range. -/
def OnGrid (m n : Nat) : Prop := ∃ k s, k < 2 ^ (m + 1) ∧ n = k * 2 ^ s

/-- R124: n is N / D rounded to m + 1 significant bits in a mode: one of the two neighbours, a tie going to the even one. -/
def RoundsTo (mode : Rounding) (neg : Bool) (m N D n : Nat) : Prop :=
  ∃ lo hi, OnGrid m lo ∧ lo * D ≤ N ∧ (∀ g, OnGrid m g → g * D ≤ N → g ≤ lo) ∧
    OnGrid m hi ∧ N ≤ hi * D ∧ (∀ g, OnGrid m g → N ≤ g * D → hi ≤ g) ∧
    n = match mode with
      | .rtz => lo
      | .rup => if neg then lo else hi
      | .rdn => if neg then hi else lo
      | .rne => if 2 * N < (lo + hi) * D then lo else if (lo + hi) * D < 2 * N then hi
        else if lo / (hi - lo) % 2 = 0 then lo else hi

/-- R124 to R126: r is what an operation delivers for a nonzero exact value of magnitude N / D: the rounded value or what an
overflow gives, with OF, UF and NX. A value is tiny when it lies below the smallest normal one after a rounding with one bit
more below. -/
def Delivers (f : FloatFormat) (mode : Rounding) (sat neg : Bool) (N D : Nat) (r : Nat × BitVec 5) : Prop :=
  ∃ n n', RoundsTo mode neg f.mbits N D n ∧ RoundsTo mode neg f.mbits (2 * N) D n' ∧
    (n ≤ f.units f.maxEnc → ∃ enc, enc ≤ f.maxEnc ∧ f.units enc = n ∧ r.1 = f.signed neg enc ∧
      r.2 = if n * D = N then 0 else if n' < 2 ^ (f.mbits + 1) then flagUF ||| flagNX else flagNX) ∧
    (f.units f.maxEnc < n → r.2 = flagOF ||| flagNX ∧ r.1 =
      if sat = true ∨ f.kind = .finite then f.signed neg f.maxEnc
      else if f.kind = .nanOnly then f.nanEnc
      else if mode = .rtz ∨ (mode = .rup ∧ neg = true) ∨ (mode = .rdn ∧ neg = false) then f.signed neg f.maxEnc
      else f.signed neg f.infEnc)

/-- n * 2^e as a fraction. -/
def scaledBy (n : Nat) (e : Int) : Nat × Nat := if 0 ≤ e then (n * 2 ^ e.toNat, 1) else (n, 2 ^ (-e).toNat)

/-- R124: N / D rounded to an integer. -/
def nearestInt (mode : Rounding) (neg : Bool) (N D : Nat) : Nat :=
  let q := N / D; let r := N % D; let up := if r = 0 then q else q + 1
  match mode with
  | .rtz => q
  | .rup => if neg then q else up
  | .rdn => if neg then up else q
  | .rne => if 2 * r < D then q else if D < 2 * r then q + 1 else if q % 2 = 0 then q else q + 1

/-- R123: NV when one of some inputs signals. -/
def signalFlags (f : FloatFormat) (xs : List Nat) (fl : BitVec 5) : Prop :=
  ((∃ x ∈ xs, f.signals x) → fl = flagNV) ∧ ((∀ x ∈ xs, ¬ f.signals x) → fl = 0)

/-! Fetching (R57, R75): what the checks of a user bundle run in. -/

/-- The acting core arrives at a place: where it stands, or the target of a transfer, translated (R296). -/
def State.arrivesAt (s u : State) (pos : Pos) : Prop :=
  (s.core.flow.goto = none ∧ u = s ∧ pos = s.core.flow.pos) ∨ ∃ a, s.core.flow.goto = some a ∧ s.enter s.cur a = (u, .ok pos)

/-- The user bundle at a place of instruction memory, opened, with the entries at the heads of its ports. -/
def State.openedAt (s : State) (pos : Pos) : State :=
  let s := (s.modFlow (fun f => { f with pos := pos, goto := none })).modLoops (fun l => l.placeIn pos.ver)
  let s := (s.enterSegment pos.addr).1
  let s := (s.openIssue (s.core.mem.bundleAt pos) pos pos.addr).modFlow (fun f => f.cross pos.ver.vint)
  let s := s.modIssue (fun i => { i with disabled := !s.core.loops.enabled pos })
  s.fillPorts (portsOf (if s.core.issue.disabled then [] else s.core.issue.ops))

/-- R75: a slot of the open bundle whose word is no operation, or none that is legal there. -/
def State.illegalSlot (s : State) (k : Nat) : Prop :=
  slotWord s.core.issue.word k ≠ 0 ∧ ∀ i, decodeSlot k (slotWord s.core.issue.word k) = .ok i → legalHere i k s = false

/-- The acting core has met a fault, and its record holds the code and the slot (R268). -/
def State.faultedWith (s : State) (code slot : Nat) : Prop :=
  s.core.task.status = .faulted ∧ bits (find 0 0 s.core.flight.fault) 11 0 = code + 256 * slot

/-! Page walks (R202), said level by level. -/

/-- The entry that the walk of an address reads at level k: at level 0 from the root, then from the table that the entry above
names. -/
def State.entryAt (s : State) (v : View) (va : Nat) : Nat → Except Nat Word
  | 0 => s.readPhys64 v ((s.ctxAt v.ctx).root.toNat + 8 * (va / 2 ^ 39 % 512))
  | k + 1 =>
    match s.entryAt v va k with
    | .ok e => s.readPhys64 v (bits e 47 12 * 2 ^ 12 + 8 * (va / 2 ^ (30 - 9 * k) % 512))
    | .error c => .error c

/-- A valid entry that names a table: no leaf, no reserved bit, no attribute. -/
def tableEntry (e : Word) : Prop :=
  e.getLsbD 0 = true ∧ bits e 8 1 = 0 ∧ e.getLsbD 9 = false ∧ e.getLsbD 11 = false ∧ bits e 63 48 = 0

/-- The walk of an address comes to level k. -/
def State.walksTo (s : State) (v : View) (va k : Nat) : Prop :=
  ∀ j, j < k → ∃ e, s.entryAt v va j = .ok e ∧ tableEntry e

/-- What a leaf entry of a page of some size gives: fault 0x05 for a reserved bit or a misaligned frame, a moving page, or the
page with its attributes. -/
def leafGives (e : Word) (va size : Nat) (x : Xlat) : Prop :=
  (e.getLsbD 11 = true ∨ bits e 63 56 ≠ 0 ∨ bits e 47 12 * 2 ^ 12 % size ≠ 0 → x = .fault 0x05) ∧
  (e.getLsbD 11 = false → bits e 63 56 = 0 → bits e 47 12 * 2 ^ 12 % size = 0 → x = if e.getLsbD 8 then .moving else .ok
    ⟨BitVec.ofNat 48 (va / size * size), size, BitVec.ofNat 48 (bits e 47 12 * 2 ^ 12), e.getLsbD 1, e.getLsbD 2, e.getLsbD 3,
      e.getLsbD 4, e.getLsbD 5, e.getLsbD 6, e.getLsbD 7, BitVec.ofNat 8 (bits e 55 48)⟩)

/-! What loads and atomics find (R192, R195, R197). -/

/-- The byte of a place as its home holds it: of a bank, or of memory under a key. -/
def State.homeByte (s : State) (key : Nat) (p : Place) (i : Nat) : Byte :=
  match p with
  | .bank off => readByte s.cluster.sram (off + i)
  | .mem a _ => s.devByte key (a + i)

/-- The acting core's results with the value of access x in place. -/
def State.delivered (s : State) (x : Access) (v : Vec) : List Pending :=
  s.core.flow.pend.map (fun p => if p.seq = x.seq then { p with value := v, ready := true, readyTick := s.tick } else p)

/-- Whether a block of the acting core's cluster cache has a place already or finds one free (R197). -/
def State.blockFits (s : State) (blk : Nat) : Prop :=
  (find? blk s.cluster.cache).isSome = true ∨ s.cluster.cache.length < 32768 * s.cluster.cacheBanks

/-! What the elements of a store write (R209, R212, R227). -/

/-- The writes of a store to banks, and to memory, in the order of its elements: where each begins, and its bytes. -/
def bankWrites (x : Access) (ts : List Target) : List (Nat × List Byte) :=
  ts.flatMap (fun t => t.places.filterMap (fun p => match p with
    | .bank off => some (off, storeBytes x t.elem)
    | .mem _ _ => none))
def memWrites (x : Access) (ts : List Target) : List (Nat × List Byte) :=
  ts.flatMap (fun t => t.places.filterMap (fun p => match p with
    | .bank _ => none
    | .mem a _ => some (a, storeBytes x t.elem)))

/-- The byte that the last of some writes puts at a place, if one reaches it. -/
def lastWrite (l : List (Nat × List Byte)) (a : Nat) : Option Byte :=
  l.reverse.findSome? (fun w => if w.1 ≤ a then w.2[a - w.1]? else none)

end Sys2Proof.Machine
end

