-- ==== Sys2Proof/Certificates/Slice0/Obligations.lean ====
section
/-! DEFINITION. The statements for the provers. A slot operation's statement speaks of the operation once its checks have
passed (`opCheck`, R75); what the checks take is stated on its own. -/

namespace Sys2Proof.Machine

/-! Scalar operations (R77 to R85). A result is stated by value; what putting it in flight does is `ResultInFlight`. -/

/-- R77: the arithmetic and logic of the AR group. -/
def Claims.ScalarBasics : Prop :=
  ∀ (s : State) (f : FormAR), let x := s.readA f.s; let y := s.readA f.t
    Completes (.add f) s (s.landA f.d (BitVec.ofNat 64 (x.toNat + y.toNat)) ⟨1, 1⟩) ∧
    Completes (.sub f) s (s.landA f.d (BitVec.ofInt 64 ((x.toNat : Int) - y.toNat)) ⟨1, 1⟩) ∧
    Completes (.mul f) s (s.landA f.d (BitVec.ofNat 64 (x.toNat * y.toNat)) ⟨3, 3⟩) ∧
    Completes (.mulh f) s (s.landA f.d (BitVec.ofInt 64 (x.toInt * y.toInt / 2 ^ 64)) ⟨3, 3⟩) ∧
    Completes (.mulhu f) s (s.landA f.d (BitVec.ofNat 64 (x.toNat * y.toNat / 2 ^ 64)) ⟨3, 3⟩) ∧
    Completes (.and f) s (s.landA f.d (x &&& y) ⟨1, 1⟩) ∧
    Completes (.or f) s (s.landA f.d (x ||| y) ⟨1, 1⟩) ∧
    Completes (.xor f) s (s.landA f.d (x ^^^ y) ⟨1, 1⟩) ∧
    Completes (.andn f) s (s.landA f.d (x &&& ~~~y) ⟨1, 1⟩)

/-- R77: shifts by the low six bits of a[t], minima and maxima, comparisons. -/
def Claims.ScalarShiftsAndCompares : Prop :=
  ∀ (s : State) (f : FormAR), let x := s.readA f.s; let y := s.readA f.t; let n := y.toNat % 64
    Completes (.shl f) s (s.landA f.d (BitVec.ofNat 64 (x.toNat * 2 ^ n)) ⟨1, 1⟩) ∧
    Completes (.shr f) s (s.landA f.d (BitVec.ofNat 64 (x.toNat / 2 ^ n)) ⟨1, 1⟩) ∧
    Completes (.sar f) s (s.landA f.d (BitVec.ofInt 64 (x.toInt / 2 ^ n)) ⟨1, 1⟩) ∧
    Completes (.min f) s (s.landA f.d (if x.toInt ≤ y.toInt then x else y) ⟨1, 1⟩) ∧
    Completes (.max f) s (s.landA f.d (if x.toInt ≤ y.toInt then y else x) ⟨1, 1⟩) ∧
    Completes (.minu f) s (s.landA f.d (if x.toNat ≤ y.toNat then x else y) ⟨1, 1⟩) ∧
    Completes (.maxu f) s (s.landA f.d (if x.toNat ≤ y.toNat then y else x) ⟨1, 1⟩) ∧
    Completes (.slt f) s (s.landA f.d (if x.toInt < y.toInt then 1 else 0) ⟨1, 1⟩) ∧
    Completes (.sltu f) s (s.landA f.d (if x.toNat < y.toNat then 1 else 0) ⟨1, 1⟩) ∧
    Completes (.seq f) s (s.landA f.d (if x = y then 1 else 0) ⟨1, 1⟩) ∧
    Completes (.sne f) s (s.landA f.d (if x = y then 0 else 1) ⟨1, 1⟩)

/-- R77, R78: quotients truncate toward zero, remainders take the sign of x, division by zero gives all ones, and
-2^63 / -1 gives -2^63 with remainder 0. -/
def Claims.ScalarDivision : Prop :=
  ∀ (s : State) (f : FormAR), let x := s.readA f.s; let y := s.readA f.t
    Completes (.div f) s (s.landA f.d
      (if y = 0 then BitVec.allOnes 64 else BitVec.ofInt 64 (x.toInt.tdiv y.toInt)) ⟨18, 24⟩) ∧
    Completes (.divu f) s (s.landA f.d
      (if y = 0 then BitVec.allOnes 64 else BitVec.ofNat 64 (x.toNat / y.toNat)) ⟨18, 24⟩) ∧
    Completes (.rem f) s (s.landA f.d
      (if y = 0 then BitVec.allOnes 64 else BitVec.ofInt 64 (x.toInt.tmod y.toInt)) ⟨18, 24⟩) ∧
    Completes (.remu f) s (s.landA f.d
      (if y = 0 then BitVec.allOnes 64 else BitVec.ofNat 64 (x.toNat % y.toNat)) ⟨18, 24⟩) ∧
    (x = BitVec.intMin 64 → y = BitVec.allOnes 64 →
      Completes (.div f) s (s.landA f.d (BitVec.intMin 64) ⟨18, 24⟩) ∧ Completes (.rem f) s (s.landA f.d 0 ⟨18, 24⟩))

/-- R77: leading zeros, trailing zeros and one bits of a[s]; a zero has 64 leading and 64 trailing zeros. -/
def Claims.ScalarCounts : Prop :=
  ∀ (s : State) (f : FormAR), let x := s.readA f.s
    (∀ n, n ≤ 64 → x.toNat < 2 ^ (64 - n) → (n < 64 → 2 ^ (63 - n) ≤ x.toNat) →
      Completes (.clz f) s (s.landA f.d (BitVec.ofNat 64 n) ⟨1, 1⟩)) ∧
    (∀ n, n ≤ 64 → (∀ i, i < n → x.getLsbD i = false) → (n < 64 → x.getLsbD n = true) →
      Completes (.ctz f) s (s.landA f.d (BitVec.ofNat 64 n) ⟨1, 1⟩)) ∧
    Completes (.popc f) s (s.landA f.d (BitVec.ofNat 64 ((List.range 64).countP (fun i => x.getLsbD i))) ⟨1, 1⟩)

/-- R79, R64: the immediate operations; the immediate is sign-extended, from 36 bits in slot 0 under `immx`; shift counts
are imm12[5:0]. -/
def Claims.ScalarImmediates : Prop :=
  ∀ (s : State) (f : FormAI), let x := s.readA f.s; let n := f.imm.toNat % 64
    ∀ y : Word, (∀ p, s.core.issue.immx = some p → s.core.issue.slot = 0 → y = BitVec.ofInt 64 (p ++ f.imm).toInt) →
      (s.core.issue.immx = none ∨ s.core.issue.slot ≠ 0 → y = BitVec.ofInt 64 f.imm.toInt) →
    Completes (.addi f) s (s.landA f.d (x + y) ⟨1, 1⟩) ∧
    Completes (.andi f) s (s.landA f.d (x &&& y) ⟨1, 1⟩) ∧
    Completes (.ori f) s (s.landA f.d (x ||| y) ⟨1, 1⟩) ∧
    Completes (.xori f) s (s.landA f.d (x ^^^ y) ⟨1, 1⟩) ∧
    Completes (.slti f) s (s.landA f.d (if x.toInt < y.toInt then 1 else 0) ⟨1, 1⟩) ∧
    Completes (.sltui f) s (s.landA f.d (if x.toNat < y.toNat then 1 else 0) ⟨1, 1⟩) ∧
    Completes (.shli f) s (s.landA f.d (BitVec.ofNat 64 (x.toNat * 2 ^ n)) ⟨1, 1⟩) ∧
    Completes (.shri f) s (s.landA f.d (BitVec.ofNat 64 (x.toNat / 2 ^ n)) ⟨1, 1⟩) ∧
    Completes (.sari f) s (s.landA f.d (BitVec.ofInt 64 (x.toInt / 2 ^ n)) ⟨1, 1⟩)

/-- R80, R64: `movi` writes its immediate, 18 bits or 42 under `immx`, sign-extended. -/
def Claims.ScalarConstants : Prop :=
  ∀ (s : State) (f : FormAX),
    (∀ p, s.core.issue.immx = some p → s.core.issue.slot = 0 →
      Completes (.movi f) s (s.landA f.d (BitVec.ofInt 64 (p ++ f.imm).toInt) ⟨1, 1⟩)) ∧
    (s.core.issue.immx = none ∨ s.core.issue.slot ≠ 0 →
      Completes (.movi f) s (s.landA f.d (BitVec.ofInt 64 f.imm.toInt) ⟨1, 1⟩))

/-- R81, R82, R64: `movk` replaces halfword hw of a[d] and keeps the other three; `immx` gives its payload to the
operation in slot 0 and changes nothing else. -/
def Claims.ScalarHalfwords : Prop :=
  (∀ (s : State) (f : FormAK), Passes (.movk f) s → ∃ v : Word,
    exec (.movk f) s = .next (s.landA f.d v ⟨1, 1⟩) ∧
    ∀ h, h < 4 → v.extractLsb' (16 * h) 16 = if h = f.hw.toNat then f.imm else (s.readA f.d).extractLsb' (16 * h) 16) ∧
  (∀ (s : State) (p : BitVec 24), Passes (.immx p) s → ∃ t, exec (.immx p) s = .next t ∧
    t.core.issue = { s.core.issue with immx := some p } ∧ s.core.sameButIssue t.core ∧ s.sameModule t ∧ s.sameOthers t)

/-- R83: the three-source operations, with their words. -/
def Claims.ThreeSources : Prop :=
  ∀ (s : State) (f : FormAM), let x := s.readA f.s; let y := s.readA f.t; let u := s.readA f.u
    Completes (.madd f) s (s.landA f.d (BitVec.ofNat 64 (x.toNat * y.toNat + u.toNat)) ⟨3, 3⟩) ∧
    Completes (.lea f) s (s.landA f.d (BitVec.ofNat 64 (x.toNat + y.toNat * 2 ^ f.u.toNat)) ⟨1, 1⟩) ∧
    Completes (.sel f) s (s.landA f.d (if u = 0 then y else x) ⟨1, 1⟩) ∧
    decodeClass .a (0x14#6 ++ f.d ++ f.s ++ f.t ++ f.u) = .ok (.madd f) ∧
    decodeClass .a (0x15#6 ++ f.d ++ f.s ++ f.t ++ f.u) = .ok (.lea f) ∧
    decodeClass .a (0x16#6 ++ f.d ++ f.s ++ f.t ++ f.u) = .ok (.sel f)

/-- R84: bit fields at pos = field t of length field u + 1, bit by bit; a field that passes bit 63 fails its encoding
check with fault 0x01. -/
def Claims.BitFields : Prop :=
  ∀ (s : State) (f : FormAM), let x := s.readA f.s; let y := s.readA f.d; let pos := f.t.toNat; let len := f.u.toNat + 1
    (Passes (.bfxz f) s → ∃ v : Word, exec (.bfxz f) s = .next (s.landA f.d v ⟨1, 1⟩) ∧
      ∀ b, b < 64 → v.getLsbD b = (decide (b < len) && x.getLsbD (pos + b))) ∧
    (Passes (.bfx f) s → ∃ v : Word, exec (.bfx f) s = .next (s.landA f.d v ⟨1, 1⟩) ∧
      ∀ b, b < 64 → v.getLsbD b = if b < len then x.getLsbD (pos + b) else x.getLsbD (pos + len - 1)) ∧
    (Passes (.bfi f) s → ∃ v : Word, exec (.bfi f) s = .next (s.landA f.d v ⟨1, 1⟩) ∧
      ∀ b, b < 64 → v.getLsbD b = if pos ≤ b ∧ b < pos + len then x.getLsbD (b - pos) else y.getLsbD b) ∧
    (64 < pos + len → s.core.issue.again = none →
      ∀ i ∈ [Instr.bfx f, .bfxz f, .bfi f], opCheck i s = some (.fault 0x01 0 0))

/-- R85, R43, R44, R289: control registers. A privileged one is refused with fault 0x03 to user code; what a write puts in
flight is the value of a[s]. -/
def Claims.ControlAccess : Prop :=
  (∀ (s : State) (f : FormAI), Completes (.csrr f) s (s.landA f.d (s.readCsr f.imm.toNat) ⟨1, 1⟩) ∧
    Completes (.csrw f) s (s.landCsr f.imm.toNat (s.readA f.s) ⟨1, 1⟩)) ∧
  (∀ (s : State) (r : Reg) (n : BitVec 12), Completes (.csrrp r n) s (s.landA r (s.readCsr n.toNat) ⟨1, 1⟩) ∧
    Completes (.csrwp r n) s (s.landCsr n.toNat (s.readA r) ⟨1, 1⟩)) ∧
  (∀ (s : State) (f : FormAI) (i : Instr), i = .csrr f ∨ i = .csrw f → FirstIssue i s → portCheck i s = none → 0x100 ≤ f.imm.toNat →
    exec i s = .next (s.raiseHere 0x03 s.core.issue.slot 0))

/-- R43 to R45, R133, R134, R278: `csrw` and `csrwp` check the value that they write: a reserved bit set, or a reserved field
value, is fault 0x06. That the depth of `ctl.bbwin` has the upper limit 1,024 is the model's reading (log 51). -/
def Claims.ControlValues : Prop :=
  (∀ (s : State) (f : FormAI), FirstIssue (.csrw f) s → f.imm.toNat < 0x100 → opCheck (.csrw f) s =
      if csrValueLegal f.imm.toNat (s.readA f.s) = true then none else some (.fault 0x06 0 0)) ∧
  (∀ (s : State) (r : Reg) (n : BitVec 12), FirstIssue (.csrwp r n) s → opCheck (.csrwp r n) s =
      if csrValueLegal n.toNat (s.readA r) = true then none else some (.fault 0x06 0 0)) ∧
  (∀ x : Word, let v := x.toNat; let ok (n : Nat) : Prop := csrValueLegal n x = true
    (ok 0x001 ↔ v < 4) ∧ (ok 0x002 ↔ v < 256 ∧ bits x 3 2 = 0) ∧ (ok 0x003 ↔ v < 1024) ∧
    (ok 0x004 ↔ ∃ base depth, v = base + 2 ^ 16 * depth ∧ base < 4096 ∧ 1 ≤ depth ∧ depth ≤ 1024 ∧ base + depth ≤ 4096) ∧
    (∀ n, 0x010 ≤ n → n ≤ 0x013 → ok n) ∧ (∀ n, 0x020 ≤ n → n ≤ 0x02F → (ok n ↔ descriptorLegal x = true)) ∧
    (∀ n, 0x030 ≤ n → n ≤ 0x033 → (ok n ↔ v < 2 ^ 33)) ∧ (ok 0x100 ↔ v < 32) ∧ (ok 0x101 ↔ v < 2 ^ 16) ∧
    (ok 0x102 ↔ bits x 31 21 = 0) ∧ (ok 0x103 ↔ v ≤ 1024) ∧ (∀ n, 0x110 ≤ n → n ≤ 0x113 → (ok n ↔ v < 2 ^ 57)) ∧
    (descriptorLegal x = true ↔ v < 2 ^ 13 ∧ bits x 3 0 ≠ 15 ∧ bits x 5 4 ≠ 3 ∧ bits x 11 9 ≤ 4 ∧
      (bits x 3 0 = 14 → bits x 5 4 = 2 ∧ bits x 6 6 = 1) ∧
      (4 ≤ bits x 3 0 ∧ bits x 3 0 ≤ 8 → bits x 5 4 ≤ 1 ∧ bits x 6 6 = bits x 5 4 ∧ bits x 8 7 = 0) ∧
      (bits x 3 0 < 4 ∨ 8 < bits x 3 0 ∧ bits x 3 0 ≠ 14 → bits x 5 4 = 0 ∧ bits x 6 6 = 0 ∧ bits x 8 7 = 0)))

/-- R43, R45, R85, R86: a result for a control register lands in it alone and reads back, with reserved bits reading 0 (a value
that passes the check has none set): `ctl.task` and `ctl.launch` keep 48 bits, a loop counter 33, and the counter of a level that is not active discards the write and reads 0. -/
def Claims.ControlLandings : Prop :=
  ∀ (s : State) (p : Pending) (n : Nat), p.dest = .csr n → let t := s.setCore (s.core.landOne p); let x : Word := p.value.setWidth 64
    s.sameModule t ∧ s.sameOthers t ∧ t.core.flow = s.core.flow ∧ t.core.mem = s.core.mem ∧ t.core.eng = s.core.eng ∧
    t.core.press = s.core.press ∧ t.core.task = s.core.task ∧ t.core.fw = s.core.fw ∧
    t.core.regs.a = s.core.regs.a ∧ t.core.regs.v = s.core.regs.v ∧ t.core.regs.k = s.core.regs.k ∧
    (n ∉ [0x000, 0x007, 0x008, 0x009, 0x030, 0x031, 0x032, 0x033] → t.core.loops = s.core.loops ∧
      t.readCsr n = if n = 0x005 ∨ n = 0x006 then BitVec.ofNat 64 (x.toNat % 2 ^ 48) else x &&& csrMask n) ∧
    (csrValueLegal n x = true → x &&& csrMask n = x) ∧
    (∀ k, k < 4 → n = 0x030 + k → t.core.regs = s.core.regs ∧
      t.readCsr n = if (s.core.loops.level k).active then BitVec.ofNat 64 (x.toNat % 2 ^ 33) else 0) ∧
    (∀ m, m ≠ n → t.readCsr m = s.readCsr m)
/-! The C slot (R88 to R102, R320 to R322). -/

/-- The canonical address of the bundle that issues, or the offset of a firmware bundle. -/
def State.pcHere (s : State) : Int := if s.fwIssuing then (s.core.fw.pc : Int) else (s.core.issue.addr.toNat : Int)

/-- R88: when each transfer is taken, where it goes, and what the calls write. -/
def Claims.TransfersTaken : Prop :=
  (∀ (s : State) (f : FormCB), let x := s.readA f.s; let y := s.readA f.t
    let taken := s.take (BitVec.ofInt 48 (s.pcHere + 32 * f.disp.toInt))
    Completes (.brEq f) s (if x = y then taken else s) ∧
    Completes (.brNe f) s (if x = y then s else taken) ∧
    Completes (.brLt f) s (if x.toInt < y.toInt then taken else s) ∧
    Completes (.brGe f) s (if x.toInt < y.toInt then s else taken) ∧
    Completes (.brLtu f) s (if x.toNat < y.toNat then taken else s) ∧
    Completes (.brGeu f) s (if x.toNat < y.toNat then s else taken)) ∧
  (∀ (s : State) (r : Reg) (d : BitVec 17), let taken := s.take (BitVec.ofInt 48 (s.pcHere + 32 * d.toInt))
    Completes (.bz r d) s (if s.readA r = 0 then taken else s) ∧
    Completes (.bnz r d) s (if s.readA r = 0 then s else taken)) ∧
  (∀ (s : State) (d : BitVec 24), let taken := s.take (BitVec.ofInt 48 (s.pcHere + 32 * d.toInt))
    Completes (.jmp d) s taken ∧ Completes (.call d) s (taken.landA 1 s.returnAddr ⟨1, 1⟩)) ∧
  (∀ (s : State) (r : Reg), let taken := s.take ((s.readA r).setWidth 48)
    Completes (.jmpr r) s taken ∧ Completes (.callr r) s (taken.landA 1 s.returnAddr ⟨1, 1⟩)) ∧
  (∀ s : State, Completes .ret s (s.take ((s.readA 1).setWidth 48)))

/-- R89: the target of a register transfer is checked for [63:48], then for [4:0]; a displacement target may not pass
2^48 - 32 nor fall below 0, whether or not the branch is taken. -/
def Claims.TargetChecks : Prop :=
  ∀ (s : State),
    (∀ (r : Reg) (i : Instr), i = .jmpr r ∨ i = .callr r → FirstIssue i s →
      let t := s.readA r
      opCheck i s = if t.toNat / 2 ^ 48 ≠ 0 then some (.fault 0x05 t 0)
        else if t.toNat % 32 ≠ 0 then some (.fault 0x11 t 0) else none) ∧
    (FirstIssue .ret s → let t := s.readA 1
      opCheck .ret s = if t.toNat / 2 ^ 48 ≠ 0 then some (.fault 0x05 t 0)
        else if t.toNat % 32 ≠ 0 then some (.fault 0x11 t 0) else none) ∧
    (∀ (f : FormCB) (i : Instr), i ∈ [Instr.brEq f, .brNe f, .brLt f, .brGe f, .brLtu f, .brGeu f] → FirstIssue i s →
      let t := s.pcHere + 32 * f.disp.toInt
      opCheck i s = if 0 ≤ t ∧ t ≤ 2 ^ 48 - 32 then none else some (.fault 0x05 (BitVec.ofInt 64 t) 0)) ∧
    (∀ (d : BitVec 24) (i : Instr), i = .jmp d ∨ i = .call d → FirstIssue i s →
      let t := s.pcHere + 32 * d.toInt
      opCheck i s = if 0 ≤ t ∧ t ≤ 2 ^ 48 - 32 then none else some (.fault 0x05 (BitVec.ofInt 64 t) 0))

/-- R50: on a page that is not racked, a call in user code returns to the bundle after its delay bundles: two of them, or
one on an interlocked page. -/
def Claims.ReturnAddress : Prop :=
  ∀ (s : State) (p : Addr) (idx : Nat), s.fwIssuing = false → s.core.issue.pos.ver.page = p → s.core.issue.pos.idx = idx →
    (s.core.issue.pos.ver.treat = .native → s.returnAddr = (p + BitVec.ofNat 48 (32 * (idx + 3))).setWidth 64) ∧
    (s.core.issue.pos.ver.treat = .interlocked → s.returnAddr = (p + BitVec.ofNat 48 (32 * (idx + 2))).setWidth 64)

/-- R91, R51, R110: `loop` and `loopi` set a level up. A count of 0 leaves it inactive; otherwise it is active with n + S - 1
passes, and it is the level set up last; either way its body begins two bundles on, and its words are those of the set-up. Other levels
stay, and rot clears the rotation base. -/
def Claims.LoopSetUp : Prop :=
  ∀ (s : State) (f : FormCL) (n : Nat) (i : Instr),
    (i = .loop f ∧ n = (s.readA f.cnt).toNat) ∨ (i = .loopi f ∧ n = f.cnt.toNat) → PassesFirst i s →
    ∃ t, exec i s = .next t ∧ s.sameModule t ∧
      t.core.regs = (if f.rot then { s.core.regs with rb := 0 } else s.core.regs) ∧
      (∀ m, m ≠ f.lvl.toNat → t.core.loops.level m = s.core.loops.level m) ∧
      let l := t.core.loops.level f.lvl.toNat
      l.first = (s.core.issue.pos.plus 2).addr ∧ l.len = f.body.toNat + 1 ∧ l.stages = f.stages.toNat + 1 ∧ l.rot = f.rot ∧
      l.bbadv = f.bbadv ∧ l.iters = BitVec.ofNat 33 n ∧ l.version = s.core.issue.pos.ver.number ∧
      (n = 0 → l.active = false ∧ l.count = 0 ∧ f.lvl.toNat ∉ t.core.loops.order ∧
        t.core.issue.skip = some (s.core.issue.pos.plus (f.body.toNat + 3))) ∧
      (n ≠ 0 → l.active = true ∧ l.count = BitVec.ofNat 33 (n + f.stages.toNat) ∧
        t.core.loops.order.head? = some f.lvl.toNat)

/-- R94: `lbrk` makes its level inactive; the others, the registers and what is in flight stay. -/
def Claims.LoopBreak : Prop :=
  ∀ (s : State) (lvl : BitVec 2), PassesFirst (.lbrk lvl) s → ∃ t, exec (.lbrk lvl) s = .next t ∧ s.sameModule t ∧
    (t.core.loops.level lvl.toNat).active = false ∧ lvl.toNat ∉ t.core.loops.order ∧
    (∀ m, m ≠ lvl.toNat → t.core.loops.level m = s.core.loops.level m) ∧
    t.core.regs = s.core.regs ∧ t.inFlight = s.inFlight ∧ t.core.press = s.core.press ∧ t.core.eng = s.core.eng

/-- R95: `halt` ends issue: no pending transfer is left and the bundles that follow are no-op bundles; results in flight,
queues and engines stay to be completed. Every loop level ends with the task (R52). -/
def Claims.Halt : Prop :=
  ∀ (s : State), PassesFirst .halt s → ∃ t, exec .halt s = .next t ∧ s.sameModule t ∧
    t.core.task = { s.core.task with status := .halted } ∧
    t.core.flow = { s.core.flow with xfers := [], goto := none, noOps := true } ∧
    (∀ m, (t.core.loops.level m).active = false) ∧ t.core.loops.order = [] ∧
    t.core.regs = s.core.regs ∧ t.core.mem = s.core.mem ∧ t.core.eng = s.core.eng ∧ t.core.press = s.core.press

/-- R96: `trap code` has opcode 0x0C and its code in imm24; it raises fault 0x0C, whose record carries the code, and no row
of its bundle is left to run. -/
def Claims.TrapInstruction : Prop :=
  ∀ (s : State) (code : BitVec 24), FirstIssue (.trap code) s →
    ∃ t, exec (.trap code) s = .next t ∧ t = s.raiseHere 0x0C s.core.issue.slot 0 code.toNat ∧
      bits (find 0 0 t.core.flight.fault) 7 0 = 0x0C ∧ bits (find 0 0 t.core.flight.fault) 39 16 = code.toNat ∧
      t.core.task.status = .faulted ∧ t.core.issue.stage = .closed ∧ t.core.issue.todo = [] ∧
      decodeClass .c (0x0C#6 ++ code) = .ok (.trap code)

/-- R97: a free task without leave asks for it and waits before its next bundle; where leave is held, or the task is timed,
`leave` does nothing. `leave.end` gives leave back with the end of its bundle. -/
def Claims.Leave : Prop :=
  ∀ (s : State),
    (PassesFirst .leave s → s.core.task.timed = false → s.core.task.leave = false → ∃ t, exec .leave s = .next t ∧
      t.core.task.leaveAsked = true ∧ t.core.flow.wait = .leave ∧
      (∃ r, t.gov.waiting = s.gov.waiting ++ [r] ∧ r.owner = .core s.cur ∧ r.timed = false) ∧ t.gov.held = s.gov.held ∧
      t.core.regs = s.core.regs ∧ t.mem = s.mem) ∧
    (s.core.task.timed = true ∨ s.core.task.leave = true → Completes .leave s s) ∧
    (s.core.task.timed = false → s.core.task.leave = true →
      Completes .leaveEnd s (s.modTask (fun t => { t with leaveEnding := true }))) ∧
    (s.core.task.timed = true ∨ s.core.task.leave = false → Completes .leaveEnd s s)

/-- R98: the handle that a relative barrier number names, and the fault outside the window. -/
def Claims.BarrierHandles : Prop :=
  ∀ (s : State) (rel : BitVec 10), let w := s.readCsr 0x004; let base := bits w 11 0; let depth := bits w 26 16
    (depth = 0 ∨ depth ≤ rel.toNat → s.barCheck rel = some (.fault 0x07 0 0)) ∧
    (depth ≠ 0 → rel.toNat < depth → s.handle rel = some (base + ((s.readCsr 0x003).toNat + rel.toNat) % depth))

/-- R99, R100: `barm` arms the handle with E = a[ac] and C = 0, incomplete unless E is 0; `bwait` makes the core wait for it
before its next bundle. -/
def Claims.BarrierInstructions : Prop :=
  ∀ (s : State) (rel : BitVec 10) (c : Reg) (arr : Bool),
    (PassesFirst (.barm rel c arr) s → ∃ t, exec (.barm rel c arr) s = .next t ∧ s.sameModule t ∧
      t.core.eng.barrier (s.barrierOf rel) =
        ⟨(s.readA c).setWidth 48, 0, arr, decide ((s.readA c).setWidth 48 = (0 : BitVec 48))⟩ ∧
      (∀ n, n ≠ s.barrierOf rel → t.core.eng.barrier n = s.core.eng.barrier n) ∧
      t.core.regs = s.core.regs ∧ t.core.flow = s.core.flow ∧ t.core.mem = s.core.mem) ∧
    (PassesFirst (.bwait rel) s → ∃ t, exec (.bwait rel) s = .next t ∧ s.sameModule t ∧
      t.core.flow = { s.core.flow with wait := .barrier (s.barrierOf rel) } ∧ t.core.eng = s.core.eng ∧
      t.core.regs = s.core.regs ∧ t.core.mem = s.core.mem)

/-- R101: `bbadv`, opcode 0x12, advances `ctl.bb` modulo 1024 at latency 1. -/
def Claims.BarrierBaseAdvance : Prop :=
  ∀ (s : State), Completes .bbadv s (s.landCsr 0x003 (BitVec.ofNat 64 (((s.readCsr 0x003).toNat + 1) % 1024)) ⟨1, 1⟩) ∧
    decodeClass .c (0x12#6 ++ 0#24) = .ok .bbadv

/-- R102: `mark` places one marker at the end of the load queue and one at the end of the store queue, and nothing else
changes. -/
def Claims.Marks : Prop :=
  ∀ (s : State) (scope : BitVec 3), PassesFirst (.mark scope) s → ∃ t m, exec (.mark scope) s = .next t ∧
    m = QueueEntry.marker scope s.core.flow.bundleNo ∧
    t.core.mem = { s.core.mem with loadQ := s.core.mem.loadQ ++ [m], storeQ := s.core.mem.storeQ ++ [m] } ∧
    s.sameModule t ∧ s.sameOthers t ∧ t.core.regs = s.core.regs ∧ t.core.flow = s.core.flow ∧ t.core.eng = s.core.eng

/-- R320 to R322: the alignment instructions of a timed task. Each clears the cadence counter and waits for its target tick;
`align` and `alignr` step the alignment index, `realign` clears it. A free task raises fault 0x0F. -/
def Claims.Alignment : Prop :=
  ∀ (s : State), let k := s.core.task
    (∀ imm : BitVec 24, Completes (.align imm) s ((s.modTask (fun t =>
        { t with index := t.index + 1, ccount := 0, alignAt := some (BitVec.ofNat 64 (64 * imm.toNat)) })).modFlow (fun c =>
        { c with wait := .align ((k.start.toNat + 64 * imm.toNat) % 2 ^ 64) }))) ∧
    (∀ r : Reg, Completes (.alignr r) s ((s.modTask (fun t =>
        { t with index := t.index + 1, ccount := 0, alignAt := some (s.readA r) })).modFlow (fun c =>
        { c with wait := .align ((k.start.toNat + (s.readA r).toNat) % 2 ^ 64) }))) ∧
    Completes .realign s ((s.modTask (fun t =>
        { t with index := 0, ccount := 0, realigning := true, alignAt := some 0 })).modFlow (fun c =>
        { c with wait := .align k.start.toNat })) ∧
    (∀ (imm : BitVec 24) (r : Reg), k.timed = false → ∀ i ∈ [Instr.align imm, .alignr r, .realign],
      FirstIssue i s → opCheck i s = some (.fault 0x0F 0 0))

/-! The L and S slots (R103, R104, R208 to R219). -/

/-- R103: every scalar load checks and reads a[base] + sext(imm12), or a[base] + a[t] · size for `ldx`. -/
def Claims.ScalarLoads : Prop :=
  (∀ (s : State) (f : FormLD), let ea := s.readA f.base + BitVec.ofInt 64 f.imm.toInt
    ScalarLoad (.ldB f) s f.d ea 1 ∧ ScalarLoad (.ldBu f) s f.d ea 1 ∧ ScalarLoad (.ldH f) s f.d ea 2 ∧
    ScalarLoad (.ldHu f) s f.d ea 2 ∧ ScalarLoad (.ldW f) s f.d ea 4 ∧ ScalarLoad (.ldWu f) s f.d ea 4 ∧
    ScalarLoad (.ldD f) s f.d ea 8) ∧
  (∀ (s : State) (f : FormLV) (n : Nat), (f.ty.toNat, n) ∈ [(0, 1), (1, 1), (2, 2), (3, 2), (4, 4), (5, 4), (6, 8)] →
    ScalarLoad (.ldx f) s f.vd (BitVec.ofNat 64 ((s.readA f.base).toNat + (s.readA f.t).toNat * n)) n)

/-- R104, R214: every scalar store, and `wbk`, enters the store queue with its address; the bytes of a store are the low
bytes of its data register as read at issue, lowest first. -/
def Claims.ScalarStores : Prop :=
  (∀ (s : State) (f : FormLD), let ea := s.readA f.base + BitVec.ofInt 64 f.imm.toInt
    StoreQueued (.stB f) s [⟨0, ea, 1⟩] ∧ StoreQueued (.stH f) s [⟨0, ea, 2⟩] ∧ StoreQueued (.stW f) s [⟨0, ea, 4⟩] ∧
    StoreQueued (.stD f) s [⟨0, ea, 8⟩] ∧ StoreQueued (.wbk f) s [⟨0, ea, 1⟩] ∧
    ∀ i ∈ [Instr.stB f, .stH f, .stW f, .stD f], (memOperands i s).data = s.readA f.d) ∧
  (∀ (s : State) (f : FormLV), f.ty.toNat < 4 →
    StoreQueued (.stx f) s [⟨0, BitVec.ofNat 64 ((s.readA f.base).toNat + (s.readA f.t).toNat * 2 ^ f.ty.toNat), 2 ^ f.ty.toNat⟩] ∧
    (memOperands (.stx f) s).data = s.readA f.vd)

/-- R208 to R210: the vector loads. The mask picks the elements; `vldb` makes the one access of its lowest enabled
element. -/
def Claims.VectorLoads : Prop :=
  ∀ (s : State) (f : FormLV) (n : Nat), (f.ty.toNat % 4, n) ∈ [(0, 4), (1, 2), (2, 1), (3, 8)] →
    let b := s.readA f.base; let t := s.readA f.t; let on := s.en f.k (8 * n)
    let unit := enabledElems s f.k n (fun j => b + t + BitVec.ofNat 64 (j * n))
    let index (j : Nat) : Word := BitVec.ofInt 64 (elem (s.readV f.t) (8 * n) j).toInt
    VectorLoad (.vld f) s f.vd n on unit ∧ VectorLoad (.vldEf f) s f.vd n on unit ∧
    VectorLoad (.vlds f) s f.vd n on (enabledElems s f.k n (fun j => b + BitVec.ofNat 64 j * t)) ∧
    VectorLoad (.vldx f) s f.vd n on (enabledElems s f.k n (fun j =>
      b + if f.ty.getLsbD 2 then index j * BitVec.ofNat 64 n else index j)) ∧
    VectorLoad (.vldb f) s f.vd n on ((enabledElems s f.k n (fun _ => b + t)).take 1)

/-- R208, R211, R212: the vector stores enter the store queue with their enabled elements and with vd as read at issue. -/
def Claims.VectorStores : Prop :=
  ∀ (s : State) (f : FormLV) (n : Nat), (f.ty.toNat % 4, n) ∈ [(0, 4), (1, 2), (2, 1), (3, 8)] →
    let b := s.readA f.base; let t := s.readA f.t
    let unit := enabledElems s f.k n (fun j => b + t + BitVec.ofNat 64 (j * n))
    let index (j : Nat) : Word := BitVec.ofInt 64 (elem (s.readV f.t) (8 * n) j).toInt
    StoreQueued (.vst f) s unit ∧ StoreQueued (.vstEf f) s unit ∧ StoreQueued (.vstmc f) s unit ∧
    StoreQueued (.vsts f) s (enabledElems s f.k n (fun j => b + BitVec.ofNat 64 j * t)) ∧
    StoreQueued (.vstx f) s (enabledElems s f.k n (fun j =>
      b + if f.ty.getLsbD 2 then index j * BitVec.ofNat 64 n else index j)) ∧
    ∀ i ∈ [Instr.vst f, .vstEf f, .vstmc f, .vsts f, .vstx f], (memOperands i s).vdata = s.readV f.vd

/-- R103, R209, R215: an element's address is checked for [63:48], then for alignment, and the first element that fails
decides. -/
def Claims.AddressChecks : Prop :=
  ∀ (l : List MemElem) (e : MemElem) (r : List MemElem),
    (∀ x ∈ l, x.va.toNat < 2 ^ 48 ∧ x.size ∣ x.va.toNat) →
    elemsCheck l = none ∧
    (2 ^ 48 ≤ e.va.toNat → elemsCheck (l ++ e :: r) = some (.fault 0x05 e.va 0)) ∧
    (e.va.toNat < 2 ^ 48 → ¬ e.size ∣ e.va.toNat → elemsCheck (l ++ e :: r) = some (.fault 0x11 e.va 0))

/-- R215, R217: every atomic and reduction enters the store queue at a[b] with 4 or 8 bytes; an atomic's old value is awaited
in a63. -/
def Claims.AtomicIssue : Prop :=
  ∀ (s : State) (f : FormAMO), let e : List MemElem := [⟨0, s.readA f.base, if f.w64 then 8 else 4⟩]
    (∀ i ∈ [Instr.amoAdd f, .amoFadd f, .amoMin f, .amoMax f, .amoMinu f, .amoMaxu f, .amoAnd f, .amoOr f, .amoXor f,
      .amoSwap f, .amoCas f, .amoFmin f, .amoFmax f], AtomicQueued i s e ∧ (memOperands i s).data = s.readA f.s ∧
        (memOperands i s).t = s.readA f.d) ∧
    (∀ i ∈ [Instr.redAdd f, .redFadd f, .redMin f, .redMax f, .redMinu f, .redMaxu f, .redAnd f, .redOr f, .redXor f,
      .redFmin f, .redFmax f], StoreQueued i s e ∧ (memOperands i s).data = s.readA f.s)

/-- R216: the new memory value of the functions, of m, x and the comparison value c below 2^w; the floating-point ones round to
nearest, and take the sums and the order of R145 and R146. -/
def Claims.AtomicValues : Prop :=
  ∀ (w m x c : Nat), w = 32 ∨ w = 64 → m < 2 ^ w → x < 2 ^ w → c < 2 ^ w →
    let sm := (BitVec.ofNat w m).toInt; let sx := (BitVec.ofNat w x).toInt
    amoValue .add w m x c = (m + x) % 2 ^ w ∧
    amoValue .min w m x c = (if sm ≤ sx then m else x) ∧ amoValue .max w m x c = (if sm ≤ sx then x else m) ∧
    amoValue .minu w m x c = (if m ≤ x then m else x) ∧ amoValue .maxu w m x c = (if m ≤ x then x else m) ∧
    (∀ b, (amoValue .and w m x c).testBit b = (m.testBit b && x.testBit b)) ∧
    (∀ b, (amoValue .or w m x c).testBit b = (m.testBit b || x.testBit b)) ∧
    (∀ b, (amoValue .xor w m x c).testBit b = (m.testBit b != x.testBit b)) ∧
    amoValue .swap w m x c = x ∧ amoValue .cas w m x c = (if m = c then x else m) ∧
    let f := if w = 64 then f64Format else f32Format
    amoValue .fadd w m x c = (fAdd f .rne m x).1 ∧ amoValue .fmin w m x c = (fMinMax f false m x).1 ∧
    amoValue .fmax w m x c = (fMinMax f true m x).1

/-- R213, R207: `pref` writes no register and changes no queue, press, loop, engine or bank. Where no soft error stands it
raises nothing, and without cache banks in its cluster no byte of memory or of a cache changes. Where its address has [63:48]
set or lies in the window it does nothing. -/
def Claims.Prefetch : Prop :=
  ∀ (s : State) (f : FormLD), Passes (.pref f) s → let ea := s.readA f.base + BitVec.ofInt 64 f.imm.toInt
    ∃ t, exec (.pref f) s = .next t ∧ t.core.regs = s.core.regs ∧
      (s.bad = [] → t.core.flow = s.core.flow ∧
        (s.cluster.cacheBanks = 0 → t.mem = s.mem ∧ ∀ c, (t.clusterAt c).cache = (s.clusterAt c).cache)) ∧
      t.core.mem.loadQ = s.core.mem.loadQ ∧ t.core.mem.storeQ = s.core.mem.storeQ ∧ t.core.task = s.core.task ∧
      t.core.loops = s.core.loops ∧ t.core.press = s.core.press ∧ t.core.eng = s.core.eng ∧ t.core.fw = s.core.fw ∧
      t.core.flight = s.core.flight ∧ (∀ c, (t.clusterAt c).sram = (s.clusterAt c).sram) ∧
      (2 ^ 48 ≤ ea.toNat ∨ inWindow ea.toNat = true → t = s)

/-- R219, R199: `pin` writes one retention register of the context, or clears it for a size of 0; `unpin` clears one. The
register holds the physical bytes of the lines of a[base] to a[base] + a[size] - 1, as they are translated at issue, without
those that are not present or lie in the window, and the ways asked for, or what is left of the allocation less one. The
range takes effect by RETENTION_TAKES_EFFECT. Memory and registers stay. -/
def Claims.Retention : Prop :=
  (∀ (s : State) (size base : Reg) (ways : BitVec 4) (slot : BitVec 3), Passes (.pin size base ways slot) s →
    ∃ t, exec (.pin size base ways slot) s = .next t ∧ t.cores = s.cores ∧ t.mem = s.mem ∧
      let r := find? slot.toNat (t.ctxAt s.core.ctxId).retain
      (s.readA size = 0 → r = none) ∧
      (s.readA size ≠ 0 → ∃ x, r = some x ∧ x.active = false ∧
        x.ways = min ways.toNat ((s.partOf s.core.ctxId).ways.length - 1 -
          (((s.ctxAt s.core.ctxId).retain.filter (fun q => q.1 != slot.toNat)).map (fun q => q.2.ways)).sum) ∧
        ∀ a, (∃ g ∈ x.ranges, g.1 ≤ a ∧ a < g.1 + g.2) ↔ ∃ va p, (s.readA base).toNat / 128 * 128 ≤ va ∧
          va < ((s.readA base).toNat + (s.readA size).toNat + 127) / 128 * 128 ∧ va < 2 ^ 48 ∧ inWindow va = false ∧
          s.walkIn (s.coreView s.cur) va = .ok p ∧
          a = (physOf p va [memberIndex (s.partOf s.core.ctxId) (dieOf s.cur)]).headD 0) ∧
      (∀ k, k ≠ slot.toNat → find? k (t.ctxAt s.core.ctxId).retain = find? k (s.ctxAt s.core.ctxId).retain)) ∧
  (∀ (s : State) (slot : BitVec 3), Passes (.unpin slot) s → ∃ t, exec (.unpin slot) s = .next t ∧
    t.cores = s.cores ∧ t.mem = s.mem ∧ find? slot.toNat (t.ctxAt s.core.ctxId).retain = none ∧
    ∀ k, k ≠ slot.toNat → find? k (t.ctxAt s.core.ctxId).retain = find? k (s.ctxAt s.core.ctxId).retain) ∧
  (∀ s : State, ∃ t, exec .retentionTakesEffect s = .next t ∧ t.cores = s.cores ∧ t.mem = s.mem ∧
    ∀ c ∈ t.contexts, ∀ r ∈ c.2.retain, r.2.active = true)

/-! The V slots: arithmetic (R107 to R109, R126, R127, R144 to R156). -/

/-- R145, R146, R148: the floating-point operations, element by element: x = elem(vs), y = elem(vt), z = elem(vd), each
rounded once in the mode of `ctl.rm`; the flags of the enabled elements go with the result unless nf is set. -/
def Claims.FloatElements : Prop :=
  ∀ (s : State) (f : FormVR), let ft := vrFormat f.ty; let w := ft.width; let on := s.en f.k w
    let x (j : Nat) : Nat := (elem (s.readV f.vs) w j).toNat
    let y (j : Nat) : Nat := (elem (s.readV f.vt) w j).toNat
    let z (j : Nat) : Nat := (elem (s.readV f.vd) w j).toNat
    ∀ (i : Instr) (l : Latency) (g : Nat → Nat × BitVec 5),
      (i, l, g) ∈ [(Instr.vfadd f, (⟨4, 3⟩ : Latency), fun j => fAdd ft s.rm (x j) (y j)),
        (.vfsub f, ⟨4, 3⟩, fun j => fSub ft s.rm (x j) (y j)), (.vfmul f, ⟨4, 3⟩, fun j => fMul ft s.rm (x j) (y j)),
        (.vfma f, ⟨4, 3⟩, fun j => fFma ft s.rm false (x j) (y j) (z j)),
        (.vfms f, ⟨4, 3⟩, fun j => fFma ft s.rm true (x j) (y j) (z j)),
        (.vfmin f, ⟨2, 2⟩, fun j => fMinMax ft false (x j) (y j)), (.vfmax f, ⟨2, 2⟩, fun j => fMinMax ft true (x j) (y j)),
        (.vfabs f, ⟨2, 2⟩, fun j => fSignOp ft false (x j)), (.vfneg f, ⟨2, 2⟩, fun j => fSignOp ft true (x j)),
        (.vfrcp f, ⟨8, 8⟩, fun j => fTrans ft s.rm .rcp (x j)), (.vfrsq f, ⟨8, 8⟩, fun j => fTrans ft s.rm .rsq (x j)),
        (.vfexp2 f, ⟨8, 8⟩, fun j => fTrans ft s.rm .exp2 (x j)), (.vflog2 f, ⟨8, 8⟩, fun j => fTrans ft s.rm .log2 (x j)),
        (.vscalb f, ⟨4, 4⟩, fun j => fScalb ft s.rm (x j) (sextNat w (y j))),
        (.vsexp f, ⟨4, 4⟩, fun j =>
          ((fMinMax ft true (y j) (powerBelow ft (x j)).1).1,
            (powerBelow ft (x j)).2 ||| (fMinMax ft true (y j) (powerBelow ft (x j)).1).2))] →
      VectorResult i s f.vd w on (gatherFlags f.nf w on (fun j => (g j).2) (2048 / w)) l (fun j => BitVec.ofNat w (g j).1)

/-- R147, R150: the compares fill the bits of a mask register by lane. -/
def Claims.VectorCompares : Prop :=
  (∀ (s : State) (f : FormVR) (i : Instr) (c : FloatCompare),
    (i, c) ∈ [(Instr.vfceq f, FloatCompare.eq), (.vfclt f, .lt), (.vfcle f, .le), (.vfcun f, .un)] →
    let ft := vrFormat f.ty; let w := ft.width
    let g (j : Nat) : Bool × BitVec 5 :=
      fCompare ft c (elem (s.readV f.vs) w j).toNat (elem (s.readV f.vt) w j).toNat
    MaskResult i s f.vd.toNat (laneWritten w (s.readK f.k))
      (gatherFlags f.nf w (s.en f.k w) (fun j => (g j).2) (2048 / w)) ⟨2, 2⟩ (lanePredicate w (fun j => (g j).1))) ∧
  (∀ (s : State) (f : FormVR), let w := intWidth f.ty
    let x (j : Nat) : BitVec w := elem (s.readV f.vs) w j
    let y (j : Nat) : BitVec w := elem (s.readV f.vt) w j
    let flags := gatherFlags f.nf w (s.en f.k w) (fun _ => 0) (2048 / w)
    let on := laneWritten w (s.readK f.k)
    MaskResult (.vceq f) s f.vd.toNat on flags ⟨2, 2⟩ (lanePredicate w (fun j => decide (x j = y j))) ∧
    MaskResult (.vclt f) s f.vd.toNat on flags ⟨2, 2⟩ (lanePredicate w (fun j => decide ((x j).toInt < (y j).toInt))) ∧
    MaskResult (.vcltu f) s f.vd.toNat on flags ⟨2, 2⟩ (lanePredicate w (fun j => decide ((x j).toNat < (y j).toNat))))

/-- R149: integer arithmetic, logic, shifts and saturation in the element width; no flag is set. -/
def Claims.IntegerElements : Prop :=
  ∀ (s : State) (f : FormVR), let w := intWidth f.ty; let on := s.en f.k w
    let x (j : Nat) : BitVec w := elem (s.readV f.vs) w j
    let y (j : Nat) : BitVec w := elem (s.readV f.vt) w j
    let clamp (v : Int) : BitVec w := BitVec.ofInt w (max (-(2 ^ (w - 1) : Nat)) (min v ((2 ^ (w - 1) : Nat) - 1)))
    ∀ (i : Instr) (g : Nat → BitVec w),
      (i, g) ∈ [(Instr.vadd f, fun j => x j + y j), (.vsub f, fun j => x j - y j), (.vmul f, fun j => x j * y j),
        (.vmulh f, fun j => BitVec.ofInt w ((x j).toInt * (y j).toInt / (2 ^ w : Nat))),
        (.vmin f, fun j => if (x j).toInt ≤ (y j).toInt then x j else y j),
        (.vmax f, fun j => if (x j).toInt ≤ (y j).toInt then y j else x j),
        (.vminu f, fun j => if (x j).toNat ≤ (y j).toNat then x j else y j),
        (.vmaxu f, fun j => if (x j).toNat ≤ (y j).toNat then y j else x j),
        (.vand f, fun j => x j &&& y j), (.vor f, fun j => x j ||| y j), (.vxor f, fun j => x j ^^^ y j),
        (.vshl f, fun j => x j <<< ((y j).toNat % w)), (.vshr f, fun j => x j >>> ((y j).toNat % w)),
        (.vsar f, fun j => (x j).sshiftRight ((y j).toNat % w)),
        (.vaddsat f, fun j => clamp ((x j).toInt + (y j).toInt)),
        (.vsubsat f, fun j => clamp ((x j).toInt - (y j).toInt))] →
      VectorResult i s f.vd w on 0 ⟨2, 2⟩ g

/-- R150 to R154: selection, which writes every element, and lane movement. -/
def Claims.LaneMovement : Prop :=
  (∀ (s : State) (f : FormVR), let w := intWidth f.ty; let n := 2048 / w; let on := s.en f.k w
    let x (j : Nat) : BitVec w := elem (s.readV f.vs) w j
    let y (j : Nat) : BitVec w := elem (s.readV f.vt) w j
    VectorResult (.vsel f) s f.vd w (fun _ => true) 0 ⟨2, 2⟩ (fun j => if on j then x j else y j) ∧
    VectorResult (.vperm f) s f.vd w on 0 ⟨2, 2⟩ (fun j => x ((y j).toNat % n)) ∧
    VectorResult (.viota f) s f.vd w on 0 ⟨2, 2⟩ (fun j => BitVec.ofNat w j) ∧
    VectorResult (.vbcast f) s f.vd w on 0 ⟨2, 2⟩ (fun _ => (s.readA f.vs).setWidth w)) ∧
  (∀ (s : State) (vd vs : Reg) (n : BitVec 7), let x (j : Int) : BitVec 32 := elem (s.readV vs) 32 j.toNat
    VectorResult (.vslide vd vs n) s vd 32 (fun _ => true) 0 ⟨2, 2⟩ (fun j =>
      if 0 ≤ (j : Int) - n.toInt ∧ (j : Int) - n.toInt < 64 then x (j - n.toInt) else 0) ∧
    VectorResult (.vslideR vd vs n) s vd 32 (fun _ => true) 0 ⟨2, 2⟩ (fun j => x ((j - n.toInt) % 64))) ∧
  (∀ (s : State) (vd vs : Reg) (idx : BitVec 8) (c : BitVec 2) (zx : Bool), let w := moveWidth c
    let x := elem (s.readV vs) w idx.toNat
    Completes (.vmovs vd vs idx zx c) s
      (s.landA vd (if zx then BitVec.ofNat 64 x.toNat else BitVec.ofInt 64 x.toInt) ⟨2, 2⟩) ∧
    VectorResult (.vinsl vd vs idx c) s vd w (fun j => decide (j = idx.toNat)) 0 ⟨2, 2⟩
      (fun j => if j = idx.toNat then (s.readA vs).setWidth w else 0))

/-- R155: a reduction writes the result of the tree to element 0 alone, and its flags to lane 0. -/
def Claims.ReductionResults : Prop :=
  ∀ (s : State) (f : FormVR) (i : Instr) (op : RedOp),
    (i, op) ∈ [(Instr.vredsum f, RedOp.sum), (.vredmax f, .max), (.vredmin f, .min)] →
    let r := reduceVec op f.ty s.rm (s.readV f.vs) (s.en f.k)
    Completes i s (s.landV f.vd (BitVec.ofNat 2048 r.2.1) ((BitVec.allOnes r.1).setWidth 2048)
      (if f.nf then 0 else r.2.2.setWidth 320) ⟨6, 5⟩)

/-- R127: the tree combines neighbours level by level, the leaves padded with absent ones; an absent node gives the other. -/
def Claims.ReductionTree : Prop :=
  ∀ (g : Nat → Nat → Nat × BitVec 5) (leaf : Nat → Option Nat) (n l : Nat), n ≤ 2 ^ l →
    (reduceTree g l ((List.range n).map leaf)).1 = treeNode g (fun i => if i < n then leaf i else none) l 0

/-- R109, R126: the flags of lane i are those of the enabled elements that lane i steers. -/
def Claims.FlagLanes : Prop :=
  ∀ (w n : Nat) (on : Nat → Bool) (f : Nat → BitVec 5) (i b : Nat), w ∈ [8, 16, 32, 64] → n = 2048 / w → i < 64 → b < 5 →
    ((flagsOfLane (gatherFlags false w on f n) i).getLsbD b = true ↔
      ∃ j, j < n ∧ laneOf w j = i ∧ on j = true ∧ (f j).getLsbD b = true) ∧
    gatherFlags true w on f n = 0

/-- R156 to R158: masks. `kop` writes the bits under its steering mask; `kset` sets the lowest bits. -/
def Claims.Masks : Prop :=
  (∀ (s : State) (d a b k : BitVec 3), let x := s.readK a; let y := s.readK b; let m := s.readK k
    Completes (.kopAnd d a b k) s (s.landK d.toNat (x &&& y) m 0 ⟨1, 1⟩) ∧
    Completes (.kopOr d a b k) s (s.landK d.toNat (x ||| y) m 0 ⟨1, 1⟩) ∧
    Completes (.kopXor d a b k) s (s.landK d.toNat (x ^^^ y) m 0 ⟨1, 1⟩) ∧
    Completes (.kopAndn d a b k) s (s.landK d.toNat (x &&& ~~~y) m 0 ⟨1, 1⟩)) ∧
  (∀ (s : State) (d : Reg) (a k : BitVec 3), let x := s.readK a &&& s.readK k
    Completes (.kpop d a k) s (s.landA d (BitVec.ofNat 64 ((List.range 64).countP (fun i => x.getLsbD i))) ⟨1, 1⟩) ∧
    Completes (.kpopMv d a k) s (s.landA d x ⟨1, 1⟩) ∧
    (∀ n, n ≤ 64 → (∀ i, i < n → x.getLsbD i = false) → (n < 64 → x.getLsbD n = true) →
      Completes (.kpopFf d a k) s (s.landA d (BitVec.ofNat 64 n) ⟨1, 1⟩))) ∧
  (∀ (s : State) (d : BitVec 3) (r : Reg),
    Completes (.kfrom d r) s (s.landK d.toNat (s.readA r) (BitVec.allOnes 64) 0 ⟨1, 1⟩) ∧
    MaskResult (.kset d r) s d.toNat (fun _ => true) 0 ⟨1, 1⟩ (fun b => decide (b < (s.readA r).toNat)))


/-! The element functions (R119 to R132, R145 to R148). -/

/-- R120, R123: the fields of the formats, and what an encoding says. -/
def Claims.FormatValues : Prop :=
  (∀ (f : FloatFormat) (w b mx nn : Nat), (f, w, b, mx, nn) ∈
      [(f64Format, 64, 1023, 0x7FEFFFFFFFFFFFFF, 0x7FF8000000000000), (f32Format, 32, 127, 0x7F7FFFFF, 0x7FC00000),
        (f16Format, 16, 15, 0x7BFF, 0x7E00), (bf16Format, 16, 127, 0x7F7F, 0x7FC0), (e4m3Format, 8, 7, 0x7E, 0x7F),
        (e5m2Format, 8, 15, 0x7B, 0x7E), (e2m3Format, 6, 1, 0x1F, 0), (e2m1Format, 4, 1, 7, 0)] →
    f.width = w ∧ f.bias = b ∧ f.maxEnc = mx ∧ f.nanEnc = nn ∧ f.qmin = 1 - (b : Int) - f.mbits) ∧
  (∀ (f : FloatFormat) (x : Nat), f ∈ allFormats → x < 2 ^ f.width →
    (f.isNaN x → ∃ q, unpack f x = .nan q ∧ (q = true ↔ f.signals x)) ∧
    (f.isInf x → unpack f x = .inf (f.signOf x)) ∧
    (f.isNumber x → ∃ m e, unpack f x = .fin (f.signOf x) m e ∧ f.qmin ≤ e ∧
      m * 2 ^ (e - f.qmin).toNat = f.units (f.rest x)))

/-- R124 to R126: the one rounding of an exact value, known exactly or to lie between two neighbours. -/
def Claims.RoundedOnce : Prop :=
  ∀ (f : FloatFormat) (mode : Rounding) (sat : Bool) (x : Exact) (N D : Nat), f ∈ allFormats → 0 < x.mant → 0 < D →
    let lo := scaledBy x.mant (x.exp - f.qmin); let hi := scaledBy (x.mant + 1) (x.exp - f.qmin)
    (x.more = false → N * lo.2 = lo.1 * D → Delivers f mode sat x.neg N D (roundTo f mode sat x)) ∧
    (x.more = true → 2 ^ (f.mbits + 2) ≤ x.mant → lo.1 * D < N * lo.2 → N * hi.2 < hi.1 * D →
      Delivers f mode sat x.neg N D (roundTo f mode sat x))

/-- R123, R145: sums and products of two numbers, and their special values. -/
def Claims.ElementSums : Prop :=
  ∀ (f : FloatFormat) (mode : Rounding) (x y : Nat), f ∈ vectorFormats → x < 2 ^ f.width → y < 2 ^ f.width →
    let a := f.value x; let b := f.value y; let D := 2 ^ (-f.qmin).toNat; let s := f.signOf x != f.signOf y
    let flip (v : Nat) : Nat := f.signed (!f.signOf v) (f.rest v)
    (f.isNumber x → f.isNumber y →
      (a + b ≠ 0 → Delivers f mode false (decide (a + b < 0)) (a + b).natAbs 1 (fAdd f mode x y)) ∧
      (a + b = 0 → fAdd f mode x y = (f.signed
        (if a = 0 ∧ f.signOf x = f.signOf y then f.signOf x else decide (mode = .rdn)) 0, 0)) ∧
      (a * b ≠ 0 → Delivers f mode false s (a * b).natAbs D (fMul f mode x y)) ∧
      (a * b = 0 → fMul f mode x y = (f.signed s 0, 0))) ∧
    (f.isInf x → ¬ f.isNaN y → (f.isInf y → f.signOf x ≠ f.signOf y → fAdd f mode x y = (f.nanEnc, flagNV)) ∧
      (f.isNumber y ∨ f.signOf x = f.signOf y → fAdd f mode x y = (x, 0)) ∧
      fMul f mode x y = (if f.rest y = 0 then (f.nanEnc, flagNV) else (f.signed s f.infEnc, 0))) ∧
    (f.isInf y → f.isNumber x → fAdd f mode x y = (y, 0) ∧
      fMul f mode x y = (if f.rest x = 0 then (f.nanEnc, flagNV) else (f.signed s f.infEnc, 0))) ∧
    (f.isNaN x ∨ f.isNaN y → (fAdd f mode x y).1 = f.nanEnc ∧ signalFlags f [x, y] (fAdd f mode x y).2 ∧
      (fMul f mode x y).1 = f.nanEnc ∧ signalFlags f [x, y] (fMul f mode x y).2) ∧
    (¬ f.isNaN y → fSub f mode x y = fAdd f mode x (flip y)) ∧ (f.isNaN y → fSub f mode x y = fAdd f mode x y)

/-- R123, R145: z + x * y with one rounding, and its special values; z - x * y is z + (-x) * y. -/
def Claims.ElementFused : Prop :=
  ∀ (f : FloatFormat) (mode : Rounding) (x y z : Nat), f ∈ vectorFormats → x < 2 ^ f.width → y < 2 ^ f.width →
    z < 2 ^ f.width →
    let D : Int := 2 ^ (-f.qmin).toNat; let p := f.value x * f.value y; let v := f.value z * D + p
    let s := f.signOf x != f.signOf y; let r := fFma f mode false x y z
    let zeroInf := f.isInf x ∧ f.isNumber y ∧ f.rest y = 0 ∨ f.isInf y ∧ f.isNumber x ∧ f.rest x = 0
    let prodInf := (f.isInf x ∨ f.isInf y) ∧ ¬ f.isNaN x ∧ ¬ f.isNaN y ∧ ¬ zeroInf
    (f.isNumber x → f.isNumber y → f.isNumber z →
      (v ≠ 0 → Delivers f mode false (decide (v < 0)) v.natAbs D.toNat r) ∧
      (v = 0 → r = (f.signed (if p = 0 ∧ s = f.signOf z then s else decide (mode = .rdn)) 0, 0))) ∧
    (zeroInf → r = (f.nanEnc, flagNV)) ∧
    (¬ zeroInf → f.isNaN x ∨ f.isNaN y ∨ f.isNaN z → r.1 = f.nanEnc ∧ signalFlags f [x, y, z] r.2) ∧
    (prodInf → f.isInf z → f.signOf z ≠ s → r = (f.nanEnc, flagNV)) ∧
    (prodInf → f.isNumber z ∨ f.isInf z ∧ f.signOf z = s → r = (f.signed s f.infEnc, 0)) ∧
    (f.isNumber x → f.isNumber y → f.isInf z → r = (z, 0)) ∧
    (¬ f.isNaN x → fFma f mode true x y z = fFma f mode false (f.signed (!f.signOf x) (f.rest x)) y z) ∧
    (f.isNaN x → fFma f mode true x y z = r)

/-- R146, R147: minimum and maximum, with -0 below +0 and a number before a NaN; sign operations; compares. -/
def Claims.ElementOrder : Prop :=
  ∀ (f : FloatFormat) (x y : Nat), f ∈ vectorFormats → x < 2 ^ f.width → y < 2 ^ f.width →
    let key (v : Nat) : Int := if f.signOf v then -(f.rest v : Int) - 1 else f.rest v
    let flat (v : Nat) : Int := if f.signOf v then -(f.rest v : Int) else f.rest v
    let number (v : Nat) : Prop := ¬ f.isNaN v
    (number x → number y → fMinMax f false x y = (if key x ≤ key y then x else y, 0) ∧
      fMinMax f true x y = (if key x ≤ key y then y else x, 0) ∧
      fCompare f .eq x y = (decide (flat x = flat y), 0) ∧ fCompare f .lt x y = (decide (flat x < flat y), 0) ∧
      fCompare f .le x y = (decide (flat x ≤ flat y), 0) ∧ fCompare f .un x y = (false, 0)) ∧
    (∀ b, (f.isNaN x → number y → (fMinMax f b x y).1 = y) ∧ (number x → f.isNaN y → (fMinMax f b x y).1 = x) ∧
      (f.isNaN x → f.isNaN y → (fMinMax f b x y).1 = f.nanEnc) ∧
      (f.isNaN x ∨ f.isNaN y → signalFlags f [x, y] (fMinMax f b x y).2) ∧
      (number x → fSignOp f b x = (f.signed (b && !f.signOf x) (f.rest x), 0)) ∧
      (f.isNaN x → (fSignOp f b x).1 = f.nanEnc ∧ signalFlags f [x] (fSignOp f b x).2)) ∧
    (f.isNaN x ∨ f.isNaN y → fCompare f .lt x y = (false, flagNV) ∧ fCompare f .le x y = (false, flagNV) ∧
      (∀ c, c = .eq ∨ c = .un → (fCompare f c x y).1 = decide (c = .un) ∧ signalFlags f [x, y] (fCompare f c x y).2))

/-- R148, R167, R169: the special values of `vfrcp`, `vfrsq`, `vfexp2` and `vflog2`; of the others, the exact value that is
rounded once; `vscalb` rounds x * 2^n once, and `vsexp` takes the power of two at or below its input. -/
def Claims.ElementTranscendentals : Prop :=
  (∀ (f : FloatFormat) (mode : Rounding) (x : Nat), f ∈ vectorFormats → x < 2 ^ f.width →
    let r (op : Transcendental) : Nat × BitVec 5 := fTrans f mode op x; let neg := f.signOf x
    (f.isNaN x → ∀ op, (r op).1 = f.nanEnc ∧ signalFlags f [x] (r op).2) ∧
    (f.isInf x → r .rcp = (f.signed neg 0, 0) ∧ r .rsq = (if neg then (f.nanEnc, flagNV) else (0, 0)) ∧
      r .exp2 = (if neg then 0 else f.infEnc, 0) ∧ r .log2 = (if neg then (f.nanEnc, flagNV) else (f.infEnc, 0))) ∧
    (f.rest x = 0 → r .rcp = (f.signed neg f.infEnc, flagDZ) ∧ r .rsq = (f.signed neg f.infEnc, flagDZ) ∧
      r .exp2 = roundTo f mode false ⟨false, 1, 0, false⟩ ∧ r .log2 = (f.signed true f.infEnc, flagDZ)) ∧
    (f.isNumber x → f.rest x ≠ 0 → ∃ m e, unpack f x = .fin neg m e ∧ 0 < m ∧
      r .rcp = roundTo f mode false (exactRcp f neg m e) ∧ r .exp2 = roundTo f mode false (exactExp2 f neg m e) ∧
      r .rsq = (if neg then (f.nanEnc, flagNV) else roundTo f mode false (exactRsq f m e)) ∧
      r .log2 = (if neg then (f.nanEnc, flagNV) else roundZ f mode false (exactLog2 f m e)))) ∧
  (∀ (f : FloatFormat) (neg : Bool) (m : Nat) (e : Int), 0 < m → let u := exactRcp f neg m e
    u.neg = neg ∧ 2 ^ (f.mbits + 2) ≤ u.mant ∧ ∃ n : Nat, u.exp + e = -n ∧ u.mant * m ≤ 2 ^ n ∧ 2 ^ n < (u.mant + 1) * m ∧
      (u.more = false ↔ u.mant * m = 2 ^ n)) ∧
  (∀ (f : FloatFormat) (m : Nat) (e : Int), 0 < m → let u := exactRsq f m e
    u.neg = false ∧ 2 ^ (f.mbits + 2) ≤ u.mant ∧ ∃ n : Nat, 2 * u.exp + e = -n ∧ u.mant ^ 2 * m ≤ 2 ^ n ∧
      2 ^ n < (u.mant + 1) ^ 2 * m ∧ (u.more = false ↔ u.mant ^ 2 * m = 2 ^ n)) ∧
  (∀ (f : FloatFormat) (mode : Rounding) (x : Nat) (n : Int), f ∈ vectorFormats → x < 2 ^ f.width →
    (f.isNaN x → (fScalb f mode x n).1 = f.nanEnc ∧ signalFlags f [x] (fScalb f mode x n).2) ∧
    (f.isInf x ∨ f.rest x = 0 → fScalb f mode x n = (x, 0)) ∧
    (f.isNumber x → f.rest x ≠ 0 → let v := scaledBy (f.units (f.rest x)) n
      Delivers f mode false (f.signOf x) v.1 v.2 (fScalb f mode x n) ∧
      ∃ p, powerBelow f x = (p, 0) ∧ p ≤ f.maxEnc ∧ f.units p = 2 ^ Nat.log2 (f.units (f.rest x))) ∧
    (f.rest x = 0 → powerBelow f x = (0, 0)) ∧ (f.isNaN x ∨ f.isInf x → powerBelow f x = (f.infEnc, flagNV)))

/-- R148: 2^x and log2 x of a number x = m * 2^e: the value handed to the rounding is x's exactly, or the neighbour below it.
With t = 2^(-e), b lies at or below 2^x when b^t does below the t-th power. A mantissa of 0 stands for a value that none of
the precisions tried decides. -/
def Claims.ExactLogarithms : Prop :=
  (∀ (f : FloatFormat) (neg : Bool) (m : Nat) (e : Int), f ∈ vectorFormats → 0 < m → e < 0 →
    m < 2 ^ (f.ebits + 1) * 2 ^ (-e).toNat → let u := exactExp2 f neg m e; let t : Nat := 2 ^ (-e).toNat
    u.mant ≠ 0 → u.neg = false ∧ ∃ p : Nat, (p : Int) = (if neg then -(m : Int) else m) - u.exp * t ∧
      (u.more = false → u.mant ^ t = 2 ^ p) ∧
      (u.more = true → 2 ^ (f.mbits + 2) ≤ u.mant ∧ u.mant ^ t < 2 ^ p ∧ 2 ^ p < (u.mant + 1) ^ t)) ∧
  (∀ (f : FloatFormat) (neg : Bool) (m k : Nat), m * 2 ^ k ≤ 2 ^ (f.ebits + 1) →
    exactExp2 f neg m k = ⟨false, 1, if neg then -((m * 2 ^ k : Nat) : Int) else ((m * 2 ^ k : Nat) : Int), false⟩) ∧
  (∀ (f : FloatFormat) (m : Nat) (e : Int), f ∈ vectorFormats → 0 < m → m < 2 ^ 64 → let u := exactLog2 f m e
    (∀ j : Nat, m = 2 ^ j → u = ⟨decide (e + j < 0), (e + j).natAbs, 0, false⟩) ∧
    ((∀ j : Nat, m ≠ 2 ^ j) → u.mant ≠ 0 → u.more = true ∧ 2 ^ (f.mbits + 2) ≤ u.mant ∧ ∃ n p : Nat, u.exp = -n ∧
      (p : Int) = (if u.neg then -(u.mant + 1 : Int) else u.mant) - e * 2 ^ n ∧
      2 ^ p < m ^ 2 ^ n ∧ m ^ 2 ^ n < 2 ^ (p + 1)))

/-- R125: a conversion from a number, a special value or an integer v, scaled by 2^k, into each kind of format. -/
def Claims.ConvertedElements : Prop :=
  (∀ (f : FloatFormat) (sg sat : Bool) (w : Nat) (mode : Rounding) (k : Int) (x : Nat), f ∈ allFormats → x < 2 ^ f.width →
    w ∈ [4, 8, 32, 64] → let r := convertElem (.float f) (.int sg w) mode sat k x; let neg := f.signOf x
    let lo : Int := if sg then -2 ^ (w - 1) else 0; let hi : Int := if sg then 2 ^ (w - 1) - 1 else 2 ^ w - 1
    let low (v : Int) : Nat := (v % 2 ^ w).toNat
    (f.isNaN x → r = (0, flagNV)) ∧
    (f.isInf x → r = (if sat then low (if neg then lo else hi) else 0, flagNV)) ∧
    (f.isNumber x → let v := scaledBy (f.units (f.rest x)) (f.qmin + k); let n := nearestInt mode neg v.1 v.2
      let i : Int := if neg then -(n : Int) else n
      (lo ≤ i ∧ i ≤ hi → r = (low i, if v.1 % v.2 = 0 then 0 else flagNX)) ∧
      (i < lo → r = (low (if sat then lo else i), flagNV)) ∧ (hi < i → r = (low (if sat then hi else i), flagNV)))) ∧
  (∀ (g : FloatFormat) (sat : Bool) (mode : Rounding) (k : Int), g ∈ allFormats →
    (∀ (f : FloatFormat) (x : Nat), f ∈ allFormats → x < 2 ^ f.width →
      let r := convertElem (.float f) (.float g) mode sat k x; let neg := f.signOf x
      (f.isNumber x → f.rest x ≠ 0 → let v := scaledBy (f.units (f.rest x)) (f.qmin + k - g.qmin)
        Delivers g mode sat neg v.1 v.2 r) ∧
      (f.rest x = 0 → r = (g.signed neg 0, 0)) ∧
      (f.isInf x → r = if g.kind = .ieee then (g.signed neg (if sat then g.maxEnc else g.infEnc), 0)
        else (if sat = true ∨ g.kind = .finite then g.signed neg g.maxEnc else g.nanEnc, flagNV)) ∧
      (f.isNaN x → (g.kind = .finite → r = (0, flagNV)) ∧
        (g.kind ≠ .finite → r.1 = g.nanEnc ∧ signalFlags f [x] r.2))) ∧
    (∀ (sg : Bool) (w x : Nat), w ∈ [4, 8, 32, 64] → x < 2 ^ w → let r := convertElem (.int sg w) (.float g) mode sat k x
      let i : Int := if sg = true ∧ 2 ^ (w - 1) ≤ x then (x : Int) - 2 ^ w else x; let v := scaledBy i.natAbs (k - g.qmin)
      (i ≠ 0 → Delivers g mode sat (decide (i < 0)) v.1 v.2 r) ∧ (i = 0 → r = (0, 0)))) ∧
  (∀ (sg sg' sat : Bool) (w w' x : Nat) (mode : Rounding) (k : Int), w ∈ [4, 8, 32, 64] → w' ∈ [4, 8, 32, 64] → x < 2 ^ w →
    let i : Int := if sg = true ∧ 2 ^ (w - 1) ≤ x then (x : Int) - 2 ^ w else x
    let lo : Int := if sg' then -2 ^ (w' - 1) else 0; let hi : Int := if sg' then 2 ^ (w' - 1) - 1 else 2 ^ w' - 1
    convertElem (.int sg w) (.int sg' w') mode sat k x =
      (((if sat then max lo (min i hi) else i) % 2 ^ w').toNat, 0))

/-- R155: the type, the combine and the all-absent result of each reduction, and the flags of all its combines. -/
def Claims.ReductionKinds : Prop :=
  ∀ (ty : BitVec 2) (rm : Rounding) (x : Vec) (on : Nat → Nat → Bool) (op : RedOp) (w empty : Nat) (g : Nat → Nat → Nat × BitVec 5),
    let sx (v : Nat) : Int := (BitVec.ofNat 32 v).toInt
    (ty, op, w, empty, g) ∈
      [((0 : BitVec 2), RedOp.sum, 32, 0, fun a b => fAdd f32Format rm a b), (0, .max, 32, 0xFF800000, fun a b => fMinMax f32Format true a b),
        (0, .min, 32, 0x7F800000, fun a b => fMinMax f32Format false a b), (1, .sum, 32, 0, fun a b => ((a + b) % 2 ^ 32, 0)),
        (1, .max, 32, 0x80000000, fun a b => (if sx a < sx b then b else a, 0)),
        (1, .min, 32, 0x7FFFFFFF, fun a b => (if sx b < sx a then b else a, 0)),
        (2, .sum, 16, 0, fun a b => fAdd bf16Format rm a b), (2, .max, 16, 0xFF80, fun a b => fMinMax bf16Format true a b),
        (2, .min, 16, 0x7F80, fun a b => fMinMax bf16Format false a b), (3, .sum, 64, 0, fun a b => fAdd f64Format rm a b),
        (3, .max, 64, 0xFFF0000000000000, fun a b => fMinMax f64Format true a b),
        (3, .min, 64, 0x7FF0000000000000, fun a b => fMinMax f64Format false a b)] →
    let leaf (j : Nat) : Option Nat := if j < 2048 / w ∧ on w j = true then some (elem x w j).toNat else none
    let lg := Nat.log2 (2048 / w); let r := reduceVec op ty rm x on
    r.1 = w ∧ r.2.1 = (treeNode g leaf lg 0).getD empty ∧ ∀ b, b < 5 → (r.2.2.getLsbD b = true ↔ ∃ l i u v, l < lg ∧
      i < 2 ^ (lg - 1 - l) ∧ treeNode g leaf l (2 * i) = some u ∧ treeNode g leaf l (2 * i + 1) = some v ∧
      (g u v).2.getLsbD b = true)

/-- R130, R132: the scale that a block gets, and the contents of the default trellis table. -/
def Claims.ScalesAndTrellis : Prop :=
  (∀ (emax : Int) (l : List FloatVal), ((∃ q, FloatVal.nan q ∈ l) → chooseScale emax l = 0xFF) ∧
    ((∀ q, FloatVal.nan q ∉ l) → (∃ n, FloatVal.inf n ∈ l) → chooseScale emax l = 254) ∧
    ((∀ v ∈ l, ∃ n e, v = .fin n 0 e) → chooseScale emax l = 0) ∧
    ((∀ v ∈ l, ∃ n m e, v = .fin n m e) → ∀ n m e, FloatVal.fin n m e ∈ l → 0 < m →
      (∀ n' m' e', FloatVal.fin n' m' e' ∈ l → 0 < m' → e' + (Nat.log2 m' : Int) ≤ e + Nat.log2 m) →
      chooseScale emax l = (min 254 (max 0 (e + Nat.log2 m - emax + 127))).toNat)) ∧
  (blockEmax 4 = 8 ∧ blockEmax 5 = 15 ∧ blockEmax 6 = 2 ∧ blockEmax 7 = 2 ∧ blockEmax 8 = 0) ∧
  (∀ e j, e < 512 → j < 8 → (trellisDefault e).toNat / 16 ^ j % 16 = (1 + 2 * (e / 2 ^ j % 2)) * (1 + e / 256)) ∧
  (∀ (r : Regs) (e : Nat), r.trellisEntry 0 e = trellisDefault e) ∧
  (∀ (r : Regs) (t e : Nat), t < 4 → e < 512 → r.trellis = [] → r.trellisEntry t e = trellisDefault e)

/-! Conversions, codebooks, slices, flags (R159 to R170). -/

/-- R159, R160, R163: a conversion treats element j of width ws into position j of width wd, each through `convertElem` in the
mode and with the saturation of its fields or of the resolved descriptor; the rest of vd becomes zeros. -/
def Claims.ConversionResults : Prop :=
  ∀ (s : State) (f : FormVC), let table := f.fsrc = 15 ∨ f.fdst = 15
    let src := formatAt (s.resolveCode f.fsrc.toNat); let dst := formatAt (s.resolveCode f.fdst.toNat)
    let m := max src.width dst.width; let n := 2048 / m
    let x (j : Nat) : Nat := (elem (s.readV f.vs) src.width j).toNat
    let sat := if table then s.descriptor.getLsbD 12 else f.sat
    let mode := if table then s.descRounding s.descriptor else roundingOf f.rm.toNat
    let scaled := if table then s.descRounding s.descriptor else s.rm
    let byte (j : Nat) : Nat := (s.readCsr (0x010 + f.rm.toNat)).toNat / 2 ^ (8 * (j / 32)) % 256
    let g (j : Nat) : Nat × BitVec 5 := convertElem src dst mode sat 0 (x j)
    let h (j : Nat) : Nat × BitVec 5 := scaleElem (decide (4 ≤ s.resolveCode f.fdst.toNat)) src dst scaled sat (byte j) (x j)
    WholeResult (.vcvt f) s f.vd dst.width n (gatherFlags f.nf m (fun _ => true) (fun j => (g j).2) n) ⟨3, 3⟩
      (fun j => BitVec.ofNat dst.width (g j).1) ∧
    WholeResult (.vcvts f) s f.vd dst.width n (gatherFlags f.nf m (fun _ => true) (fun j => (h j).2) n) ⟨3, 3⟩
      (fun j => BitVec.ofNat dst.width (h j).1)

/-- R163: what a scale byte does to an element: quantising multiplies by 2^(127 - X), and by 2^6 more into `s8`; the other
direction multiplies by 2^(X - 127), and by 2^-6 more out of `s8`; 0xFF makes a NaN of it, with NV. -/
def Claims.ScaledElements : Prop :=
  ∀ (src dst : ElemFormat) (mode : Rounding) (sat : Bool) (x e : Nat), x < 255 →
    let k (f : ElemFormat) : Int := match f with | .int _ _ => 6 | .float _ => 0
    scaleElem true src dst mode sat x e = convertElem src dst mode sat (127 - (x : Int) + k dst) e ∧
    scaleElem false src dst mode sat x e = convertElem src dst mode sat ((x : Int) - 127 - k src) e ∧
    ∀ q, (scaleElem q src dst mode sat 255 e).2 = flagNV

/-- R130, R162: `vmaxabs` writes one scale byte for each block of 32 elements to its latch, and zeros above. -/
def Claims.BlockScales : Prop :=
  ∀ (s : State) (fmt : BitVec 4) (latch : BitVec 2) (vs : Reg) (k : BitVec 3) (ty : BitVec 2) (nf : Bool),
    let i := Instr.vmaxabs fmt latch vs k ty nf; let ft := vrFormat ty; let w := ft.width; let n := 2048 / w
    let val (j : Nat) : FloatVal := unpack ft (elem (s.readV vs) w j).toNat
    let block (b : Nat) : List FloatVal :=
      ((List.range 32).filter (fun t => s.en k w (32 * b + t))).map (fun t => val (32 * b + t))
    Passes i s → ∃ v : Word, exec i s = .next (s.land (.csr (0x010 + latch.toNat)) (v.setWidth 2048) scalarBits
        (gatherFlags nf w (s.en k w) (fun j => (val j).sig) n) ⟨3, 3⟩) ∧
      ∀ b, b < 8 → (v.extractLsb' (8 * b) 8).toNat =
        if b < n / 32 then chooseScale (blockEmax (s.resolveCode fmt.toNat)) (block b) else 0

/-- R131, R132, R165, R166: `vdecb` decodes 32 indices of a quarter into 256 digits, index m into bytes 8m to 8m + 7, with the
signs of the index and the magnitudes of the table entry of its shape; `vdecb.tab` writes 64 entries of a table. -/
def Claims.Codebook : Prop :=
  (∀ (s : State) (vd vs : Reg) (t q : BitVec 2),
    WholeResult (.vdecb vd vs t q) s vd 8 256 0 ⟨3, 3⟩ (fun b =>
      let i := elem (s.readV vs) 16 (32 * q.toNat + b / 8)
      let entry := s.core.regs.trellisEntry t.toNat (i.toNat % 512)
      let m : Byte := BitVec.ofNat 8 (entry.toNat / 2 ^ (4 * (b % 8)) % 16)
      let neg := if b % 8 = 7 then (List.range 7).countP (fun k => i.getLsbD (9 + k)) % 2 == 1 else i.getLsbD (9 + b % 8)
      if neg then -m else m)) ∧
  (∀ (s : State) (blk : BitVec 3) (vs : Reg) (t : BitVec 2), Completes (.vdecbTab blk vs t) s
    (s.land (.trellis t.toNat blk.toNat) (s.readV vs) (BitVec.allOnes 2048) 0 ⟨3, 3⟩))

/-- R168: `vsplit` writes digit i of each element under the exponent of its element of ve, or of element 0. -/
def Claims.SliceResults : Prop :=
  ∀ (s : State) (vd vs ve : Reg) (i : BitVec 3) (ty : BitVec 2) (row : Bool), let ft := vrFormat ty; let w := ft.width
    WholeResult (.vsplit vd vs ve i ty row) s vd 8 (2048 / w) 0 ⟨4, 4⟩ (fun j =>
      match expOf ft (elem (s.readV ve) w (if row then 0 else j)).toNat, unpack ft (elem (s.readV vs) w j).toNat with
      | some eps, .fin neg m e => sliceDigit neg m e eps i.toNat
      | _, _ => 0)

/-- R137: the digits of x = v · 2^e under an eps with |x| < 2^(eps + 5): from enough of them x is the sum of the digits
with weights 2^(eps - 7i), exactly; the first lies in -32 to 32 and the others in -64 to 63. -/
def Claims.SliceDigits : Prop :=
  ∀ (neg : Bool) (m n : Nat) (e eps : Int), let v : Int := if neg then -(m : Int) else m; let k := (eps - e).toNat
    let d (i : Nat) : Int := (sliceDigit neg m e eps i).toInt
    e ≤ eps → m < 2 ^ (k + 5) → k ≤ 7 * n →
      ((List.range (n + 1)).map (fun i => d i * 2 ^ (7 * (n - i)))).sum * 2 ^ k = v * 2 ^ (7 * n) ∧
      -32 ≤ d 0 ∧ d 0 ≤ 32 ∧ ∀ i, 0 < i → -64 ≤ d i ∧ d i ≤ 63

/-- R170: `vflags` shows every lane's flags as they stand, and at the end of the bundle clears those of its mask, or takes
those of vs. -/
def Claims.FlagAccess : Prop :=
  (∀ (s : State) (vd : Reg) (clr : BitVec 5), Passes (.vflags vd clr) s → ∃ v keep,
    exec (.vflags vd clr) s = .next ((s.landV vd v (BitVec.allOnes 2048) 0 ⟨2, 2⟩).modIssue (fun c =>
      { c with flagWrites := c.flagWrites ++ [(keep, 0)] })) ∧
    ∀ i, i < 64 → elem v 32 i = (flagsOfLane s.core.regs.vflags i).setWidth 32 ∧
      ∀ r : Regs, flagsOfLane (r.setFlags keep 0).vflags i = flagsOfLane r.vflags i &&& ~~~clr) ∧
  (∀ (s : State) (vd vs : Reg), Passes (.vflagsSet vd vs) s → ∃ v on,
    exec (.vflagsSet vd vs) s = .next ((s.landV vd v (BitVec.allOnes 2048) 0 ⟨2, 2⟩).modIssue (fun c =>
      { c with flagWrites := c.flagWrites ++ [(0, on)] })) ∧
    ∀ i, i < 64 → elem v 32 i = (flagsOfLane s.core.regs.vflags i).setWidth 32 ∧
      ∀ r : Regs, flagsOfLane (r.setFlags 0 on).vflags i = (elem (s.readV vs) 32 i).setWidth 5)

/-! The press (R171 to R191). An operation's updates wait in the bundle, and are applied at its end. -/

/-- R185, R186: `ppush` fills two rows of a macro, `pfill` rows of the row buffer from bytes, or from nibbles extended by
asgn; every other cell stays. -/
def Claims.PressFills : Prop :=
  (∀ (s : State) (vs : Reg) (m : BitVec 3) (h : BitVec 6), Passes (.ppush vs m h) s → ∃ u,
    exec (.ppush vs m h) s = .next (s.pressLater [u]) ∧ ∀ (p : Press) (m' k n : Nat), k < 128 → n < 128 →
      (p.apply u).cell m' k n =
        if m' = m.toNat ∧ k / 2 = h.toNat then elem (s.readV vs) 8 (128 * (k % 2) + n) else p.cell m' k n) ∧
  (∀ (s : State) (vs : Reg) (h : BitVec 2), Passes (.pfill vs h) s → ∃ u,
    exec (.pfill vs h) s = .next (s.pressLater [u]) ∧ ∀ (p : Press) (x : Nat), find 0 x (p.apply u).rowBuf =
      if x / 256 = h.toNat then elem (s.readV vs) 8 (x % 256) else find 0 x p.rowBuf) ∧
  (∀ (s : State) (vs : Reg) (h : BitVec 1), Passes (.pfillN vs h) s → ∃ u,
    exec (.pfillN vs h) s = .next (s.pressLater [u]) ∧ ∀ (p : Press) (x : Nat), find 0 x (p.apply u).rowBuf =
      if x / 512 = h.toNat then
        (if s.core.press.asgn then (elem (s.readV vs) 4 (x % 512)).signExtend 8 else (elem (s.readV vs) 4 (x % 512)).setWidth 8)
      else find 0 x p.rowBuf)

/-- R184, R188, R190, R191: configuration, shifts, clears, the status word and the exponent latches. A shifted sum is of the
accumulators as they stand at issue; what leaves 48 bits is wrapped and sets the overflow bit. -/
def Claims.PressControl : Prop :=
  (∀ (s : State) (sl w : BitVec 3) (asgn bsgn : Bool), Passes (.pset sl w asgn bsgn) s → ∃ u,
    exec (.pset sl w asgn bsgn) s = .next (s.pressLater [u]) ∧
    ∀ p : Press, p.apply u = { p with s := sl, w := w, asgn := asgn, bsgn := bsgn }) ∧
  (∀ (s : State) (d src : BitVec 3) (n : BitVec 6), Passes (.pshift d src n) s → ∃ u,
    exec (.pshift d src n) s = .next (s.pressLater [u]) ∧
    let x (i c : Nat) : Int :=
      (s.core.press.accAt d.toNat i c).toInt + (s.core.press.accAt src.toNat i c).toInt * 2 ^ n.toNat
    ∀ p : Press, (∀ a i c, i < 8 → c < 128 → (p.apply u).accAt a i c =
        if a = d.toNat then BitVec.ofInt 48 (x i c) else p.accAt a i c) ∧
      ∀ b, b < 8 → ((p.apply u).ovf.getLsbD b = true ↔
        p.ovf.getLsbD b = true ∨ b = d.toNat ∧ ∃ i c, i < 8 ∧ c < 128 ∧ (x i c < -(2 ^ 47) ∨ 2 ^ 47 ≤ x i c))) ∧
  (∀ (s : State) (mask : BitVec 8) (rb ex : Bool), Passes (.pclr mask rb ex) s → ∃ us,
    exec (.pclr mask rb ex) s = .next (s.pressLater us) ∧ ∀ p : Press, let q := us.foldl Press.apply p
      (∀ a i c, i < 8 → c < 128 → q.accAt a i c = if mask.getLsbD a then 0 else p.accAt a i c) ∧
      q.ovf = p.ovf &&& ~~~mask ∧ q.rowBuf = (if rb then [] else p.rowBuf) ∧
      (q.xr, q.xc) = (if ex then ([], []) else (p.xr, p.xc)) ∧ q.macros = p.macros) ∧
  (∀ (s : State) (ad : Reg) (mask : BitVec 8), Passes (.pclrSt ad mask) s → ∃ (v : Word) (u : PressUpdate),
    exec (.pclrSt ad mask) s = .next ((s.landA ad v ⟨1, 1⟩).pressLater [u]) ∧
    (∀ p : Press, p.apply u = { p with ovf := p.ovf &&& ~~~mask }) ∧ let p := s.core.press
    bits v 7 0 = p.ovf.toNat ∧ v.getLsbD 8 = decide (s.core.flow.bundleNo + 1 < p.seqStart + p.seqBeats) ∧
    bits v 11 9 = p.s.toNat ∧ bits v 14 12 = p.w.toNat ∧ v.getLsbD 15 = p.asgn ∧ v.getLsbD 16 = p.bsgn ∧
    v.toNat < 2 ^ 17) ∧
  (∀ (s : State) (vs : Reg) (ty : BitVec 2) (int : Bool), Passes (.pexpRows vs ty int) s → ∃ u,
    exec (.pexpRows vs ty int) s = .next (s.pressLater [u]) ∧ ∀ (p : Press) (i : Nat), i < 8 →
      find 0 i (p.apply u).xr = latchValue int (vrFormat ty) (elem (s.readV vs) (vrFormat ty).width i).toNat) ∧
  (∀ (s : State) (vs : Reg) (ty : BitVec 2) (mask : BitVec 8) (part : BitVec 2) (int : Bool),
    Passes (.pexpCols vs ty mask part int) s → ∃ u,
    exec (.pexpCols vs ty mask part int) s = .next (s.pressLater [u]) ∧
    let w := (vrFormat ty).width; let n := 2048 / w
    ∀ (p : Press) (a c : Nat), a < 8 → c < 128 → find 0 (128 * a + c) (p.apply u).xc =
      if mask.getLsbD a ∧ part.toNat * n ≤ c ∧ c < part.toNat * n + n then
        latchValue int (vrFormat ty) (elem (s.readV vs) w (c - part.toNat * n)).toNat
      else find 0 (128 * a + c) p.xc)

/-- R173, R175, R187: `pacc` captures the row buffer and its operands, and its w beats belong to this bundle and the next
ones. A beat applies the clears and shifts of its bundle and then plane b - start of the captured digits. -/
def Claims.PressSequence : Prop :=
  (∀ (s : State) (mask : BitVec 8) (delta : BitVec 3) (kq : BitVec 4),
    Completes (.pacc mask delta kq) s (s.modPress (fun p => { p with
      cap := p.rowBuf, capW := p.w.toNat + 1, capAsgn := p.asgn, capBsgn := p.bsgn, capMask := mask, capDelta := delta,
      capKq := kq, seqStart := s.core.flow.bundleNo, seqBeats := p.w.toNat + 1 }))) ∧
  (∀ s : State, ∃ t, exec .pressBeat s = .next t ∧ s.sameModule t ∧ s.sameOthers t ∧ t.core.regs = s.core.regs ∧
    t.core.mem = s.core.mem ∧ t.core.flow = s.core.flow ∧
    let p := (s.core.issue.press.filter PressUpdate.beforeBeat).foldl Press.apply s.core.press
    t.core.press = p.beat (s.core.flow.bundleNo - p.seqStart) ∧
    t.core.issue.press = s.core.issue.press.filter (fun u => !u.beforeBeat))

/-- R172, R177: beat j adds plane j of each active macro m into accumulator (m + delta) mod 8, wrapped to 48 bits; the other
accumulators, the macros and the capture stay; an overflow bit that is set stays set. -/
def Claims.PressPlanes : Prop :=
  ∀ (p : Press) (j a i n : Nat), a < 8 → i < 8 → n < 128 → let m := (a + 8 - p.capDelta.toNat) % 8
    let sum : Int := (((List.range 128).filter (fun k => p.capKq.getLsbD (k / 32) && (find 0 (128 * i + k) p.cap).getLsbD j)).map
      (fun k => let b := find 0 (16384 * m + 128 * k + n) p.macros; if p.capBsgn then b.toInt else (b.toNat : Int))).sum
    let term := (if p.capAsgn ∧ j + 1 = p.capW then -sum else sum) * 2 ^ j
    (p.beat j).accAt a i n = (if p.capMask.getLsbD m then BitVec.ofInt 48 ((p.accAt a i n).toInt + term) else p.accAt a i n) ∧
    (p.beat j).macros = p.macros ∧ (p.beat j).cap = p.cap ∧ (p.beat j).rowBuf = p.rowBuf ∧
    (p.ovf.getLsbD a = true → (p.beat j).ovf.getLsbD a = true) ∧
    (p.capMask.getLsbD m = true → ((p.accAt a i n).toInt + term < -(2 ^ 47) ∨ 2 ^ 47 ≤ (p.accAt a i n).toInt + term) →
      (p.beat j).ovf.getLsbD a = true)

/-- R172: over planes 0 to w - 1 the beats add the sum of A[i][k] · B[k][n] over the K positions that take part, exactly, with
A read at w bits. -/
def Claims.PressProduct : Prop :=
  ∀ (p : Press) (m i n : Nat), 1 ≤ p.capW → p.capW ≤ 8 →
    ((List.range p.capW).map (fun j => p.planeTerm m i n j)).sum =
      (((List.range 128).filter (fun k => p.capKq.getLsbD (k / 32))).map (fun k =>
        let a := (find 0 (128 * i + k) p.cap).setWidth p.capW; let b := p.cell m k n
        (if p.capAsgn then a.toInt else (a.toNat : Int)) * (if p.capBsgn then b.toInt else (b.toNat : Int)))).sum

/-- R179, R189: `pdrain` converts 2048 / w elements of a row: an integer form gives the element, clamped for `s32`; a
floating-point form the rounded product S · 2^(xr + xc - 7d), a marker the NaN with NV, and S = 0 gives +0. -/
def Claims.PressDrain : Prop :=
  ∀ (s : State) (vd : Reg) (a row : BitVec 3) (part fmt : BitVec 2) (d : BitVec 3) (nf : Bool),
    let p := s.core.press; let w := if fmt.toNat = 0 ∨ fmt.toNat = 3 then 64 else 32; let n := 2048 / w
    let r (j : Nat) : Nat × BitVec 5 :=
      let c := part.toNat * n + j; let x := (p.accAt a.toNat row.toNat c).toInt
      let er := find 0 row.toNat p.xr; let ec := find 0 (128 * a.toNat + c) p.xc
      let ft := if fmt.toNat = 0 then f64Format else f32Format
      if fmt.toNat = 2 then ((max (-(2 ^ 31)) (min x (2 ^ 31 - 1)) % 2 ^ 64).toNat % 2 ^ 32, 0)
      else if fmt.toNat = 3 then ((x % 2 ^ 64).toNat, 0)
      else if er = 0x8000 ∨ ec = 0x8000 then nanWith ft flagNV
      else if x = 0 then (0, 0)
      else roundTo ft .rne false ⟨decide (x < 0), x.natAbs, er.toInt + ec.toInt - 7 * d.toNat, false⟩
    VectorResult (.pdrain vd a row part fmt d nf) s vd w (fun _ => true)
      (gatherFlags nf w (fun _ => true) (fun j => (r j).2) n) ⟨4, 4⟩ (fun j => BitVec.ofNat w (r j).1)

/-! Copies, nests, barriers, streams, bank modes (R194 to R196, R220 to R225, R240 to R254). -/

/-- R240, R242, R243: what a legal record and its origins say, word by word. -/
def Claims.LayoutRecords : Prop :=
  ∀ (s : State) (g o : Reg) (l : Layout) (os : List Int), s.readTile g o true = .ok (l, os) →
    let w (n : Nat) : Word := s.readANum (g.toNat + n); let a := s.readANum o.toNat; let b := s.readANum (o.toNat + 1)
    l.base.toNat = bits (w 0) 47 0 ∧ l.rank = bits (w 3) 38 36 ∧ l.edge = bits (w 3) 41 40 ∧
    l.strides = [bits (w 4) 39 0, bits (w 5) 39 0, bits (w 6) 39 0, bits (w 7) 39 0] ∧
    l.fill.toNat = bits (w 9) 47 16 ∧ l.lbase = bits (w 10) 31 0 ∧ l.rpitch = bits (w 10) 55 32 ∧
    l.ilv = bits (w 10) 59 56 ∧ l.ppitch = bits (w 11) 23 0 ∧ l.bmask.toNat = bits (w 11) 39 24 ∧
    esizeOf (s.resolveCode (bits (w 3) 35 32)) = some l.esize ∧ 1 ≤ l.rank ∧ l.rank ≤ 5 ∧ l.edge ≤ 2 ∧ l.ilv ≤ 2 ∧
    (∀ d, d < l.rank →
      l.extents.getD d 0 = [bits (w 1) 31 0, bits (w 1) 63 32, bits (w 2) 31 0, bits (w 2) 63 32, bits (w 3) 31 0].getD d 0 ∧
      l.windows.getD d 0 = [bits (w 8) 15 0, bits (w 8) 31 16, bits (w 8) 47 32, bits (w 8) 63 48, bits (w 9) 15 0].getD d 0 ∧
      os.getD d 0 = [sextNat 32 (bits a 31 0), sextNat 32 (bits a 63 32), sextNat 21 (bits b 20 0), sextNat 21 (bits b 41 21),
        sextNat 21 (bits b 62 42)].getD d 0)

/-- R244, R245: the places of element (c0, ..., c4) of a window. -/
def Claims.TilePlaces : Prop :=
  ∀ (l : Layout) (w0 w1 w2 w3 w4 c0 c1 c2 c3 c4 : Nat) (o0 o1 o2 o3 o4 : Int) (s1 s2 s3 s4 : Nat),
    l.windows = [w0, w1, w2, w3, w4] → l.strides = [s1, s2, s3, s4] → c0 < w0 → c1 < w1 → c2 < w2 → c3 < w3 → c4 < w4 →
    let k := c0 + w0 * (c1 + w1 * (c2 + w2 * (c3 + w3 * c4)))
    let os := [o0, o1, o2, o3, o4]
    let p := c2 + w2 * (c3 + w3 * c4); let r := c1 + w1 * p; let x := c0 * l.esize
    k < l.count ∧
    l.gaddr os k = BitVec.ofInt 64 (l.base.toNat + (o0 + c0) * l.esize + (o1 + c1) * s1 + (o2 + c2) * s2 + (o3 + c3) * s3 +
      (o4 + c4) * s4) ∧
    (l.ilv = 0 → l.laddr k = l.lbase + x + c1 * l.rpitch + p * l.ppitch) ∧
    (l.ilv = 1 → l.laddr k =
      let banks := (List.range 16).filter (fun b => l.bmask.getLsbD b)
      banks.getD (r % banks.length) 0 * 2 ^ 19 + (l.lbase % 2 ^ 19 + r / banks.length * l.rpitch + x) % 2 ^ 19) ∧
    (l.ilv = 2 → l.laddr k = l.lbase + Nat.xor (x / 32) (r % 8) * 32 + x % 32 + c1 * l.rpitch + p * l.ppitch) ∧
    (∀ e0 e1 e2 e3 e4 : Nat, l.extents = [e0, e1, e2, e3, e4] → (l.inb os k = true ↔
      (0 ≤ o0 + c0 ∧ o0 + c0 < e0) ∧ (0 ≤ o1 + c1 ∧ o1 + c1 < e1) ∧ (0 ≤ o2 + c2 ∧ o2 + c2 < e2) ∧
        (0 ≤ o3 + c3 ∧ o3 + c3 < e3) ∧ (0 ≤ o4 + c4 ∧ o4 + c4 < e4)))

/-- R246, R249, R251: `cgo.in` and `cgo.out` emit the copy of their record, origins and barrier with the bundle, or find fault
0x05 where an element is out of bounds under edge mode 2, before any byte is moved; `cstart` and
`cstart.out` queue a nest that has captured them with the six levels. No register changes. -/
def Claims.CopyIssue : Prop :=
  ∀ (s : State) (f : FormCG), let copy (out : Bool) (l : Layout) (o : List Int) : Copy :=
      ⟨l, o, out, s.barrierOf f.bar, s.core.issue.addr, 0, [], s.core.flow.bundleNo⟩
    (∀ (i : Instr) (out : Bool), i = .cgoIn f ∧ out = false ∨ i = .cgoOut f ∧ out = true → PassesFirst i s →
      ∃ l o, s.readTile f.g f.o true = .ok (l, o) ∧
        (l.edge ≠ 2 ∨ l.anyOut o = false →
          exec i s = .next (s.modEng (fun e => { e with copies := e.copies ++ [copy out l o] }))) ∧
        (l.edge = 2 → l.anyOut o = true → exec i s = .next (s.report (.fault 0x05 7 s.core.issue.addr 0 false 0)))) ∧
    (∀ (i : Instr) (out : Bool), i = .cstart f ∧ out = false ∨ i = .cstartOut f ∧ out = true → PassesFirst i s →
      ∃ l o n, s.readTile f.g f.o true = .ok (l, o) ∧
        exec i s = .next (s.modEng (fun e => { e with nests := e.nests ++ [n] })) ∧
        n.copy = copy out l o ∧ s.handle f.bar = some n.handle ∧ n.emitted = 0 ∧ n.started = false ∧
        n.bundle = some s.core.flow.bundleNo ∧
        ∀ v, v < 6 → n.levels[v]? = some (find SeqLevel.init v s.core.eng.seqLevels))

/-- R250: `cseq` sets one level: its count, its five origin steps and its step of lbase; the other levels stay. -/
def Claims.SequencerLevels : Prop :=
  ∀ (s : State) (lvl : BitVec 3) (c r : Reg), PassesFirst (.cseq lvl c r) s →
    let a := s.readANum r.toNat; let b := s.readANum (r.toNat + 1); let l := s.readANum (r.toNat + 2)
    ∃ t x, exec (.cseq lvl c r) s = .next t ∧ s.sameModule t ∧ find SeqLevel.init lvl.toNat t.core.eng.seqLevels = x ∧
      x.count = (s.readA c).toNat ∧ x.lstep = (l.setWidth 32).toInt ∧
      x.steps = [(a.setWidth 32).toInt, (a.extractLsb' 32 32).toInt, (b.setWidth 21).toInt, (b.extractLsb' 21 21).toInt,
        (b.extractLsb' 42 21).toInt] ∧
      (∀ n, n ≠ lvl.toNat → find? n t.core.eng.seqLevels = find? n s.core.eng.seqLevels) ∧
      t.core.regs = s.core.regs ∧ t.core.eng.nests = s.core.eng.nests ∧ t.core.eng.copies = s.core.eng.copies

/-- R251: a nest starts, and emits copy (j5, ..., j0) with j0 fastest, whose origins and lbase move by the steps. A nest of
no copies ends as it starts; the last copy ends its nest. -/
def Claims.Nests : Prop :=
  (∀ (s : State) (n : Nest) (r : List Nest), s.core.eng.nests = n :: r →
    (n.count ≠ 0 → ∃ t, exec .nestStart s = .next t ∧ s.sameModule t ∧
      t.core.eng = { s.core.eng with nests := { n with started := true } :: r }) ∧
    (n.count = 0 → ∃ t, exec .nestStart s = .next t ∧ s.sameModule t ∧ t.core.eng = { s.core.eng with nests := r } ∧
      t.core.issue.nestDone = true) ∧
    let c := n.copyAt n.emitted; let bad := c.lay.edge = 2 ∧ c.lay.anyOut c.origin = true
    ∃ t, exec .sequencerEmission s = .next t ∧ s.sameModule t ∧ t.core.regs = s.core.regs ∧ t.core.issue.nestDone = true ∧
      t.core.eng = { s.core.eng with
        copies := if bad then s.core.eng.copies else s.core.eng.copies ++ [{ c with bundle := s.core.flow.bundleNo }]
        nests := if n.emitted + 1 < n.count then { n with emitted := n.emitted + 1 } :: r else r } ∧
      (bad → s.core.flow.finding = none → t.core.flow.finding = some (.fault 0x05 7 c.addr 0 false 0)) ∧
      (¬ bad → t.core.flow = s.core.flow)) ∧
  (∀ (n : Nest) (l0 l1 l2 l3 l4 l5 : SeqLevel) (j0 j1 j2 j3 j4 j5 d : Nat), n.levels = [l0, l1, l2, l3, l4, l5] →
    j0 < l0.count → j1 < l1.count → j2 < l2.count → j3 < l3.count → j4 < l4.count → j5 < l5.count →
    n.copy.origin.length = 5 → n.copy.lay.rank ≤ 5 → d < n.copy.lay.rank →
    let k := j0 + l0.count * (j1 + l1.count * (j2 + l2.count * (j3 + l3.count * (j4 + l4.count * j5))))
    let c := n.copyAt k
    let at_ (l : SeqLevel) : Int := l.steps.getD d 0
    let moved := n.copy.origin.getD d 0 + j0 * at_ l0 + j1 * at_ l1 + j2 * at_ l2 + j3 * at_ l3 + j4 * at_ l4 + j5 * at_ l5
    c.origin.getD d 0 = (if d < 2 then (BitVec.ofInt 32 moved).toInt else (BitVec.ofInt 21 moved).toInt) ∧
    c.lay = { n.copy.lay with lbase := (BitVec.ofInt 32 (n.copy.lay.lbase + j0 * l0.lstep + j1 * l1.lstep + j2 * l2.lstep +
      j3 * l3.lstep + j4 * l4.lstep + j5 * l5.lstep)).toNat })

/-- R247, R248: the first copy that can go on performs what is left of it; what it moved, and its end, are on the way to its
barrier. An element that must wait holds up no other; one that fails is found at the core with its address and ends the copy.
R247 leaves the order of the elements open: the elements that waited come first and the others in the order of R245, which is
the model's choice (log 8). -/
def Claims.CopiesPerformed : Prop :=
  (∀ s : State, s.readyCopy s.cur = none → exec .copyElementsPerformed s = .next s) ∧
  (∀ (s : State) (i : Nat) (c : Copy), s.readyCopy s.cur = some i → s.core.eng.copies[i]? = some c →
    ∀ u c' m later, s.copyRun s.cur c = (u, c', m, later) → exec .copyElementsPerformed s = .next (u.modEng (fun e => { e with
      copies := if later then s.core.eng.copies.set i c' else s.core.eng.copies.eraseIdx i
      contribs := e.contribs ++ (if m = 0 ∧ later = true then [] else [(c.bar, m, !later)]) }))) ∧
  (∀ (s u : State) (core : Nat) (c d : Copy) (m : Nat) (how : PassEnd), s.copyPass core c c.left = (u, d, m, how) →
    (how = .all → s.copyRun core c = (u, d, m, false)) ∧ (how = .pause → s.copyRun core c = (u, d, m, true)) ∧
    (∀ code va, how = .fault code va → ∃ v, s.copyRun core c = (v, { c with next := c.lay.count, waiting := [] }, 0, false) ∧
      (s.bad = [] → (s.coreAt core).flow.finding = none →
        (v.coreAt core).flow.finding = some (.fault code 7 c.addr va true 0))) ∧
    ∀ n, ((s.copyRun core c).1.coreAt n).regs = (s.coreAt n).regs) ∧
  (∀ (s : State) (core : Nat) (c : Copy), c.left = c.waiting ++ (List.range c.lay.count).drop c.next ∧
    s.copyPass core c [] = (s, c, 0, if c.waiting = [] then .all else .pause) ∧
    ∀ (u : State) (k : Nat) (r : List Nat) (step : ElemStep), s.copyElement core c k = (u, step) →
      let kept (w : List Nat) : Copy := { c with next := max c.next (k + 1), waiting := c.waiting.filter (fun j => j != k) ++ w }
      (step = .pause → s.copyPass core c (k :: r) = u.copyPass core (kept [k]) r) ∧
      (∀ code va, step = .fault code va → s.copyPass core c (k :: r) = (u, c, 0, .fault code va)) ∧
      (step = .moved → ∀ v d m how, (u.copyWatch core c k).copyPass core (kept []) r = (v, d, m, how) →
        s.copyPass core c (k :: r) =
          (v, d, (if c.lay.inb c.origin k = true ∨ c.lay.edge = 1 ∧ c.out = false then c.lay.esize else 0) + m, how)))

/-- R244 to R247: one element of a copy, whose places can be reached. In: the bank receives the bytes of the tensor element, or
the fill pattern. Out: the tensor element receives the bytes of the bank. A skipped element changes nothing, nor does one
whose destination a later element has taken; every other byte of the banks, and of memory for a page that is memory-side,
stays. A local place outside the window is fault 0x05 for any element. -/
def Claims.CopiedElement : Prop :=
  ∀ (s : State) (core : Nat) (c : Copy) (k : Nat),
    let l := c.lay; let la := l.laddr k; let ga := l.gaddr c.origin k; let lva := wordOf (windowBase + la)
    let bank (u : State) (a : Nat) : Byte := readByte (u.clusterAt (clusterOf core)).sram a
    let r := s.copyElement core c k
    (2 ^ 23 ≤ la → r = (s, .fault 0x05 lva)) ∧
    (la < 2 ^ 23 → l.inb c.origin k = false → l.edge ≠ 1 ∨ c.out = true → r = (s, .moved)) ∧
    (∀ bs, la < 2 ^ 23 → c.out = false →
      (l.inb c.origin k = false ∧ l.edge = 1 ∧ bs = l.fillBytes ∧ s.engineBank core la = .ok ∨
        l.inb c.origin k = true ∧ ∃ v t w, s.engineXlat (whoCopy core) core .read ga l.esize = (v, .ok t) ∧
          v.engineBank core la = .ok ∧ (v.coreAt core).copyMayRead c.bundle ga l.esize = true ∧
          v.readTarget (whoCopy core) core t = (w, some bs)) →
      r.2 = .moved ∧
      (c.superseded k = true → ∀ a, bank r.1 a = bank s a) ∧
      (c.superseded k = false → (∀ n, n < bs.length → bs[n]? = some (bank r.1 (la + n))) ∧
        ∀ a, a < la ∨ la + bs.length ≤ a → bank r.1 a = bank s a)) ∧
    (∀ v t, la < 2 ^ 23 → c.out = true → l.inb c.origin k = true → s.bad = [] →
      s.engineXlat (whoCopy core) core .write ga l.esize = (v, .ok t) → v.engineBank core la = .ok →
      (v.coreAt core).copyMayRead c.bundle lva l.esize = true → let bs := (List.range l.esize).map (fun n => bank s (la + n))
      r.2 = .moved ∧
      (c.superseded k = true → r.1.mem = s.mem ∧ ∀ a, bank r.1 a = bank s a) ∧
      (c.superseded k = false →
        (∀ off, t.places = [.bank off] → r.1.mem = s.mem ∧ (∀ n, n < l.esize → bs[n]? = some (bank r.1 (off + n))) ∧
          ∀ a, a < off ∨ off + l.esize ≤ a → bank r.1 a = bank s a) ∧
        (∀ a pa, t.places = [.mem a pa] → let x := s.clusterAt (clusterOf core)
          t.ms = true ∧ x.cache = [] ∨ t.ms = false ∧ a % 16 + l.esize ≤ 16 ∧ (x.cacheBanks ≠ 0 ∨ x.cache = []) →
          (∀ n, n < l.esize → bs[n]? = some (r.1.devByte t.key (a + n))) ∧ (∀ b, bank r.1 b = bank s b) ∧
          (t.ms = true → ∀ b, b < a ∨ a + l.esize ≤ b →
            r.1.devByte t.key b = s.devByte t.key b))))

/-- R99, R248, R254: contributions that have arrived are summed into C, which saturates, and complete the barrier once C
reaches E; a barrier without one stays. -/
def Claims.BarrierContributions : Prop :=
  ∀ (s : State), ∃ t, exec .barrierContribution s = .next t ∧ s.sameModule t ∧ t.core.regs = s.core.regs ∧
    t.core.eng.contribs = [] ∧ ∀ n, let b := s.core.eng.barrier n
      let mine := s.core.eng.contribs.filter (fun c => c.1 == n)
      let total := (mine.map (fun c => if b.arrivals then c.2.2.toNat else c.2.1)).sum
      (mine = [] → t.core.eng.barrier n = b) ∧
      (mine ≠ [] → (t.core.eng.barrier n).c.toNat = min (b.c.toNat + total) (2 ^ 48 - 1) ∧
        ((t.core.eng.barrier n).complete = true ↔ b.complete = true ∨ b.e.toNat ≤ min (b.c.toNat + total) (2 ^ 48 - 1)) ∧
        (t.core.eng.barrier n).e = b.e ∧ (t.core.eng.barrier n).arrivals = b.arrivals)

/-- R222, R223, R225: a bind takes effect at the end of its bundle with a port whose entries cover the elements carried;
`sbind.off` of a bound port unbinds it then, and of an unbound port does nothing. The entries that were pushed into a drain
port are still to be written: the engine holds them (log 80), but for one whose bytes fail ECC. -/
def Claims.StreamBinds : Prop :=
  (∀ (s : State) (f : FormSB) (i : Instr) (drain : Bool), i = .sbindIn f ∧ drain = false ∨ i = .sbindOut f ∧ drain = true →
    PassesFirst i s → ∃ l o x, s.readTile f.g f.o false = .ok (l, o) ∧
      exec i s = .next (s.modIssue (fun c => { c with binds := c.binds ++ [(f.port.toNat, some x)] })) ∧
      x.bound = true ∧ x.drain = drain ∧ x.bank = f.bank.toNat ∧ x.lay = l ∧ x.origin = o ∧ x.filled = 0 ∧ x.taken = 0 ∧
      let carried := (List.range l.count).countP (fun k => l.inb o k || l.edge != 0)
      256 * x.total < l.esize * carried + 256 ∧ l.esize * carried ≤ 256 * x.total) ∧
  (∀ (s : State) (port : BitVec 2),
    Completes (.sbindOff port) s (if (s.core.eng.stream port.toNat).bound then
      s.modIssue (fun c => { c with binds := c.binds ++ [(port.toNat, none)] }) else s)) ∧
  (∀ (e : Engines) (c : Cluster) (fails : Nat → Bool) (n : Nat) (x : Stream),
    (e.applyBinds c fails [(n, some x)]).stream n = x ∧ let d := e.applyBinds c fails [(n, none)]; let old := e.stream n
    (d.stream n).bound = false ∧
    (old.bound = true → old.drain = true → old.taken < old.filled → ∃ y, find [] n d.draining = find [] n e.draining ++ [y] ∧
      y.lay = old.lay ∧ y.origin = old.origin ∧ y.taken = old.taken ∧ y.filled = old.filled ∧ y.closing = true ∧
      y.held.length = old.filled - old.taken ∧
      ∀ j, j < old.filled - old.taken → y.held[j]? =
        some (if fails (old.place (old.taken + j)) then none else some (c.entry old (old.taken + j)))))

/-- R223, R225: an entry read ahead lies in the bank, with the bytes of its elements and zeros behind them; the oldest entry of
a drain stream, one unbound before first, is written, from its bank or as the engine holds it. Each moves the stream on by one
entry. That entry k lies at bank * 2^19 + 256 * (k mod 2048) is the model's reading (log 20). -/
def Claims.StreamTransfers : Prop :=
  (∀ (s u : State) (port : BitVec 2) (bs : List Byte), let x := s.core.eng.stream port.toNat
    x.fillable = true → s.streamBytes (whoStream s.cur port.toNat) s.cur x (x.entryElems x.filled) = (u, .ok bs) →
    ∃ t, exec (.streamFillRead port) s = .next t ∧
      t.core.eng.stream port.toNat = { x with filled := x.filled + 1 } ∧
      t.cluster.sram = writeBytes u.cluster.sram (x.bank * 2 ^ 19 + 256 * (x.filled % 2048))
        ((bs ++ List.replicate 256 0).take 256)) ∧
  (∀ (s u : State) (port : BitVec 2) (bs : List Byte), let x := s.core.eng.drain port.toNat
    x.drainable = true → s.drainEntry x = some bs →
    s.streamWrite (whoStream s.cur port.toNat) s.cur x (x.entryElems x.taken) bs = (u, none) →
    ∃ t, exec (.streamDrainWrite port) s = .next t ∧ u.sameModule t ∧ let y := { x with taken := x.taken + 1, held := x.held.tail }
      (x.closing = false → t.core.eng.stream port.toNat = y) ∧
      (x.closing = true → find [] port.toNat t.core.eng.draining =
        if x.taken + 1 < x.filled then y :: (find [] port.toNat u.core.eng.draining).tail
        else (find [] port.toNat u.core.eng.draining).tail)) ∧
  (∀ (s : State) (x : Stream), (∀ v r, x.held = v :: r → s.drainEntry x = v.map (fun v => vecBytes v 256)) ∧
    (x.held = [] → s.bad = [] →
      s.drainEntry x = some (readBytes s.cluster.sram (x.bank * 2 ^ 19 + 256 * (x.taken % 2048)) 256)))

/-- R196, R220: `bank` asks for a switch of its banks, and a mask of 0 for none; when the switch completes, every bank of the
mask has the mode, and a bank that left or entered cache mode reads as zeros; the others keep mode and contents. Where a bank
leaves cache mode the dirty bytes go home first; meters may let only some of them go, and then the switch goes on later. -/
def Claims.BankModes : Prop :=
  (∀ (s : State) (mask : BitVec 16) (mode : BitVec 2), Completes (.bank mask mode) s (if mask = 0 then s else
    s.modClusterAt (clusterOf s.cur) (fun c =>
      { c with switching := c.switching ++ [⟨c.asked + 1, s.cur, mask, bankModeOf mode⟩], asked := c.asked + 1 }))) ∧
  (∀ (s : State) (x : BankSwitch) (r : List BankSwitch), s.cluster.switching = x :: r →
    let u := if s.cluster.flushes x then s.flushOpen (whoStore x.core) (clusterOf s.cur) else s
    (s.cluster.flushes x = true → u.cluster.allDirty ≠ [] → exec .bankSwitchComplete s = .next u) ∧
    ((s.cluster.flushes x = true → u.cluster.allDirty = []) → ∃ t, exec .bankSwitchComplete s = .next t ∧
      t.cluster.switching = r ∧ (s.bad = [] → t.cores = s.cores) ∧
      (∀ n, (t.coreAt n).regs = (s.coreAt n).regs) ∧ ∀ b, b < 16 →
      t.cluster.mode b = (if x.mask.getLsbD b then x.mode else s.cluster.mode b) ∧
      ∀ a, a / 2 ^ 19 = b → readByte t.cluster.sram a =
        if x.mask.getLsbD b = true ∧ s.cluster.mode b ≠ x.mode ∧ (s.cluster.mode b = .cache ∨ x.mode = .cache) then 0
        else readByte s.cluster.sram a))

/-! Collectives (R256 to R261). -/

/-- R256, R257: a `coll` joins the members that wait, with its operation, its type and what its group table says;
meters count the reading of the table. -/
def Claims.CollectiveIssue : Prop :=
  ∀ (s : State) (f : FormCO) (i : Instr) (op : Nat),
    (i, op) ∈ [(Instr.collAllreduceSum f, 0), (.collAllreduceMax f, 1), (.collAllgather f, 2), (.collRscatterSum f, 3),
      (.collRscatterMax f, 4), (.collBcast f, 5)] → PassesFirst i s →
    ∃ g m, s.readGroup (s.readA f.g) (if f.ty = 1 then 2 else 4) (op == 5) = .ok g ∧ 
      exec i s = .next { s.countAll s.core.ctxId (s.groupCosts (s.readA f.g)) with colls := s.colls ++ [m] } ∧
      m.core = s.cur ∧ m.op = op ∧ m.ty = f.ty.toNat ∧ m.n = g.n ∧ m.root = g.root ∧ m.cnt = g.cnt ∧ m.send = g.send ∧
      m.recv = g.recv ∧ m.members = g.members ∧ m.bar = s.barrierOf f.bar ∧ m.bundle = s.core.flow.bundleNo ∧
      m.got = [] ∧ m.sent = false ∧ m.result = none ∧ m.left = [] ∧
      g.members[m.self]? = some (s.cur, s.moduleNo)

/-- R258: what a member's receive buffer takes from the send buffers of all n members, element by element; the reductions
go through the tree of R127 over the member index. -/
def Claims.CollectiveResults : Prop :=
  ∀ (m : Member) (self : Nat) (sends : List (List Byte)), 1 ≤ m.n → sends.length = m.n →
    let e := if m.ty = 1 then 2 else 4
    let all (i : Nat) : Nat := (treeNode (collCombine m.op m.ty)
      (fun k => if k < m.n then some (bufElem e (sends.getD k []) i) else none) (treeLevels m.n) 0).getD 0
    let r := m.resultBytes self sends
    (m.op = 0 ∨ m.op = 1 → r.length = e * m.cnt ∧ ∀ i, i < m.cnt → bufElem e r i = all i % 2 ^ (8 * e)) ∧
    (m.op = 3 ∨ m.op = 4 → r.length = e * m.cnt ∧ ∀ i, i < m.cnt → bufElem e r i = all (self * m.cnt + i) % 2 ^ (8 * e)) ∧
    (m.op = 2 → (∀ bs ∈ sends, bs.length = e * m.cnt) → ∀ k i, k < m.n → i < m.cnt →
      bufElem e r (k * m.cnt + i) = bufElem e (sends.getD k []) i) ∧
    (m.op = 5 → r = sends.getD m.root [])

/-- R236, R259, R260: which calls the unit holds against each other. A group whose members all wait here with the same contents
is matched once their stores are performed and their buffers read; where they name each other but differ, those whose
contents are not those of the member named first disagree. That a call without an equal partner belongs with the partner's
oldest is the model's reading (log 85). -/
def Claims.CollectiveGroups : Prop :=
  ∀ (s : State) (m : Member), m.result = none → let me := (m.core, s.moduleNo)
    ((∀ x ∈ m.members, x.2 = s.moduleNo ∧ ∃ y, s.waitingColl m.key x.1 = some y ∧ y.unread = [] ∧ s.storesDone y = true) →
      ∃ ms sends, s.matchOf m = .ready ms sends ∧ ∀ y, y ∈ ms ↔ ∃ x ∈ m.members, s.waitingColl m.key x.1 = some y) ∧
    (∀ (k : Nat × Nat → CollKey) (lead : Nat × Nat), me ∈ m.members → k me = m.key → m.members.head? = some lead →
      (∀ x ∈ m.members, x.2 = s.moduleNo ∧ s.keysOf x = [k x] ∧ me ∈ (k x).members) → (∃ x ∈ m.members, k x ≠ k lead) →
      ∃ ms, s.matchOf m = .mismatch ms ∧ ∀ y, y ∈ ms ↔ y ∈ s.colls ∧ y.result = none ∧
        ∃ x ∈ m.members, y.core = x.1 ∧ k x ≠ k lead)

/-- R236, R259, R260: what matching does, which completes in every state. Members whose contents differ from those that the
others are held against are dropped, each with fault 0x06 found at its core; so is a member whose send buffer cannot be read,
with the code and the address of what it met. A matched group has its results, but for the bytes of a buffer that overlaps the
send buffer out of place. No register changes. -/
def Claims.CollectiveMatching : Prop :=
  ∀ (s : State), let open_ (u : State) (n : Nat) : Prop := (u.coreAt n).flow.finding = none ∨
      ∃ c k va, (u.coreAt n).flow.finding = some (.trap c k va)
    (s.nextMatch = .wait → exec .collectiveMatch s = .next s) ∧
    (∀ m, s.nextMatch = .send m → exec .collectiveMatch s = .next (s.sendMember m)) ∧
    (∀ ms, s.nextMatch = .mismatch ms → ∃ t, exec .collectiveMatch s = .next t ∧ s.sameMemory t ∧
      (∀ n, (t.coreAt n).regs = (s.coreAt n).regs) ∧
      (∀ m ∈ ms, m ∈ s.colls ∧ m ∉ t.colls ∧
        (∃ x ∈ s.colls, s.partnerKey x (m.core, s.moduleNo) = some m.key ∧ m.key ≠ s.leadKey x) ∧
        (t.coreAt m.core).flow.finding.isSome = true ∧
        (open_ s m.core → (t.coreAt m.core).flow.finding = some (.fault 0x06 7 m.addr 0 false 0))) ∧
      ∀ m ∈ s.colls, m ∉ ms → m ∈ t.colls) ∧
    (∀ m u r, s.nextMatch = .read m → s.readSends m m.got m.unread = (u, r) →
      (∀ got, r = .ok got → exec .collectiveMatch s = .next (u.setMember m { m with got := got })) ∧
      (∀ code va, r = .error (code, va) → ∃ t, exec .collectiveMatch s = .next t ∧ u.sameMemory t ∧ m ∉ t.colls ∧
        (∀ n, (t.coreAt n).regs = (s.coreAt n).regs) ∧ (t.coreAt m.core).flow.finding.isSome = true ∧
        (open_ u m.core → (t.coreAt m.core).flow.finding = some (.fault code 7 m.addr va true 0)))) ∧
    (∀ ms sends, s.nextMatch = .ready ms sends → ∃ t, exec .collectiveMatch s = .next t ∧ s.sameMemory t ∧
      t.cores = s.cores ∧ (∀ m ∈ s.colls, m ∉ ms → m ∈ t.colls) ∧
      ∀ m ∈ ms, ∃ bs, { m with result := some bs, left := List.range m.receives } ∈ t.colls ∧
        bs.length = (m.resultBytes m.self sends).length ∧
        ∀ k, m.overlaps k = false → bs[k]? = (m.resultBytes m.self sends)[k]?)

/-- R247, R259: the elements of a send buffer are read each on its own: one that must wait holds up none of the others, and one
that fails ends the reading with its code and address. -/
def Claims.CollectiveReads : Prop :=
  ∀ (s : State) (m : Member) (got : Store (List Byte)), s.readSends m got [] = (s, .ok got) ∧
    (∀ (u : State) (i : Nat) (r : List Nat) (step : BufferStep), s.readSend m i = (u, step) →
      (step = .error none → s.readSends m got (i :: r) = u.readSends m got r) ∧
      (∀ f, step = .error (some f) → s.readSends m got (i :: r) = (u, .error f)) ∧
      (∀ bs, step = .ok bs → s.readSends m got (i :: r) = u.readSends m (put i bs got) r)) ∧
    (∀ (i code : Nat) (va : Word), (s.readSend m i).2 = .error (some (code, va)) →
      va = BitVec.ofNat 64 (m.send.toNat + (if m.ty = 1 then 2 else 4) * i)) ∧
    ∀ n, ((s.readSends m got m.unread).1.coreAt n).regs = (s.coreAt n).regs

/-- R236, R259, R261: what completion does, which completes in every state: a matched member has its receive buffer written,
element by element, one that must wait holding up none of the others; when all of it is written the member leaves, its buffers
are acquired, and its barrier is told of the bytes and of the end. A fault of the buffer is found at its core, with its code
and the address of the element that met it. -/
def Claims.CollectiveCompletion : Prop :=
  (∀ s : State, s.colls.find? s.completable = none → exec .collectiveCompletion s = .next s) ∧
  (∀ (s : State) (m : Member), s.colls.find? s.completable = some m →
    (m.left = [] → exec .collectiveCompletion s = .next (((s.dropMember m).syncMember m).modCoreAt m.core (fun c =>
      { c with eng := { c.eng with contribs := c.eng.contribs ++ [(m.bar, (m.result.getD []).length, true)] } }))) ∧
    (∀ u r, m.left ≠ [] → s.writeRecvs m [] m.left = (u, r) →
      (∀ left, r = .ok left → exec .collectiveCompletion s = .next (u.setMember m { m with left := left })) ∧
      (∀ c va, r = .error (c, va) → let v := s.writeSome m m.left
        ∃ t, exec .collectiveCompletion s = .next t ∧ m ∉ t.colls ∧ v.sameMemory t ∧
          (∀ n, (t.coreAt n).regs = (s.coreAt n).regs) ∧ (t.coreAt m.core).flow.finding.isSome = true ∧
          ((v.coreAt m.core).flow.finding = none →
            (t.coreAt m.core).flow.finding = some (.fault c 7 m.addr va true 0))))) ∧
  (∀ (s : State) (m : Member) (waits : List Nat), s.writeRecvs m waits [] = (s, .ok waits) ∧
    ∀ (u : State) (i : Nat) (r : List Nat) (step : BufferStep), s.writeRecv m i = (u, step) →
      (step = .error none → s.writeRecvs m waits (i :: r) = u.writeRecvs m (waits ++ [i]) r) ∧
      (∀ f, step = .error (some f) → s.writeRecvs m waits (i :: r) = (u, .error f)) ∧
      (∀ bs, step = .ok bs → s.writeRecvs m waits (i :: r) = u.writeRecvs m waits r)) ∧
  (∀ (s u : State) (m : Member) (i : Nat) (r : Engine), let e := if m.ty = 1 then 2 else 4
    let va : Word := BitVec.ofNat 64 (m.recv.toNat + e * i); let bs := ((m.result.getD []).drop (e * i)).take e
    s.engineXlat (whoColl m.core) m.core .write va e = (u, r) →
    (r = .pause → s.writeRecv m i = (u, .error none)) ∧ (∀ c, r = .fault c → s.writeRecv m i = (u, .error (some (c, va)))) ∧
    (∀ t, r = .ok t → s.writeRecv m i = (u.writeThrough (whoColl m.core) m.core t bs, .ok bs))) ∧
  (∀ (s : State) (m : Member), let t := s.syncMember m
    t.colls = s.colls ∧ t.hostMem = s.hostMem ∧
    (∀ n, (t.coreAt n).regs = (s.coreAt n).regs ∧ (t.coreAt n).eng = (s.coreAt n).eng) ∧
    ∀ b ∈ s.memberBlocks m, find? b (t.clusterAt (clusterOf m.core)).cache = none)

/-! Ring time and timed sends (R316, R324 to R326). -/

/-- R316: ring time is the smallest count of an unfenced compute die at its nominal point; a count record goes to every other
unfenced compute die, over a neighbour's open link in 24 ticks and else in 40; a receipt raises the bound to count + lam - 1
where that exceeds what the bound has come to. -/
def Claims.RingTime : Prop :=
  (∀ (s : State) (d : Nat), d < 8 → (s.dieAt d).fenced = false → (s.dieAt d).point = 0 →
    s.ringTime ≤ (s.dieAt d).count.toNat ∧
    ∃ j, j < 8 ∧ (s.dieAt j).fenced = false ∧ (s.dieAt j).point = 0 ∧ s.ringTime = (s.dieAt j).count.toNat) ∧
  (∀ (s : State) (d : Nat), ∃ new, exec (.ringCountSend d) s = .next { s with records := s.records ++ new } ∧
    ∀ j n c lam tick, (j, n, c, lam, tick) ∈ new ↔ j < 8 ∧ j ≠ d ∧ n = d ∧ (s.dieAt d).fenced = false ∧
      (s.dieAt j).fenced = false ∧ c = (s.dieAt d).count.toNat ∧
      lam = (if (d + 1) % 8 = j ∨ (j + 1) % 8 = d then 24 else 40) ∧ tick = s.tick + lam - 1) ∧
  (∀ (s : State) (d src count lam : Nat), let die := s.dieAt d; let t := die.count.toNat
    let have_ := find 0 src die.bound + (t - find 0 src die.stamp) * 9999 / 10000
    ∃ u, exec (.ringCountReceipt d src count lam) s = .next u ∧ u.cores = s.cores ∧ u.mem = s.mem ∧
      u.dieAt d = if have_ < count + lam - 1 then
        { die with bound := put src (count + lam - 1) die.bound, stamp := put src t die.stamp } else die)

/-- R324, R325: `tsend` puts vs into its lane with the route's λ and I of the admission; the oldest waiting entry of a lane
departs at max(issue, previous departure + I), once a `realign` has taken effect. -/
def Claims.SendsDepart : Prop :=
  (∀ (s : State) (vs : Reg) (die : BitVec 3) (queue : BitVec 2),
    Completes (.tsend vs die queue) s (s.modEng (fun e => { e with sends := e.sends ++
      [⟨s.readV vs, die.toNat, queue.toNat, (s.dieAt (dieOf s.cur)).count.toNat, none, (s.route s.cur die.toNat).1,
        (s.route s.cur die.toNat).2⟩] }))) ∧
  (∀ (s : State) (die : Nat), let now := (s.dieAt (dieOf s.cur)).count.toNat; let w := s.core.eng.waiting die
    (s.departs s.cur die = true ↔ s.core.task.realigned = true ∧ ∃ x r, w = x :: r ∧ x.issued ≤ now ∧
      ∀ p, find? die s.core.eng.lastDeparture = some p → p + x.interval ≤ now) ∧
    (s.departs s.cur die = true → ∃ t, exec (.tsendDeparture die) s = .next t ∧ s.sameModule t ∧
      t.core.eng.waiting die = w.tail ∧ find? die t.core.eng.lastDeparture = some now ∧
      t.core.regs = s.core.regs ∧ t.core.eng.landQ = s.core.eng.landQ ∧
      t.core.eng.sends.length = s.core.eng.sends.length)) ∧
  (∀ (s : State), let now := (s.dieAt (dieOf s.cur)).count.toNat
    ∃ t, exec .realignEffect s = .next t ∧ s.sameModule t ∧
      t.core.task = { s.core.task with realigning := false, realigned := true } ∧
      t.core.eng = { s.core.eng with sends := s.core.eng.sends.map (fun x =>
        if x.departed.isNone then { x with issued := max x.issued now } else x) })

/-- R325, R326: an entry that arrives joins its queue at the mirror of its core; a queue that holds 64 entries ends the
receiver's phase with fault 0x08, slot 4. -/
def Claims.SendsArrive : Prop :=
  ∀ (s : State) (core : Nat) (x : Send), s.arrivingCore = some core →
    (s.coreAt core).eng.sends.find? (s.arrives core) = some x → let r := 64 * x.die + core % 64
    let q := find [] x.queue (s.coreAt r).eng.landQ
    ∃ t, exec .tsendArrival s = .next t ∧ s.sameModule t ∧
      (t.coreAt core).eng.sends = (s.coreAt core).eng.sends.eraseP (s.arrives core) ∧
      (q.length < 64 → find [] x.queue (t.coreAt r).eng.landQ = q ++ [x.entry]) ∧
      (64 ≤ q.length → find [] x.queue (t.coreAt r).eng.landQ = q ∧ ((s.coreAt r).flow.finding = none →
        (t.coreAt r).flow.finding = some (.fault 0x08 4 (s.coreAt r).flow.pos.addr 0 true 0)))

/-! The firmware context (R265 to R289). -/

/-- R269, R274: a recoverable trap that has been found makes the flight record, names bundle F and, where nothing else waits,
starts the firmware in exclusive mode at offset 0 with the cause and slot in f31, F in f30 and the address in f29. The record
has an entry for each result in flight, each operation that waits to be computed again, each store or reduction that has not
been sent, and a press sequence with beats left. A trap found while another has the record waits (the model's reading,
log 97). -/
def Claims.TrapEntry : Prop :=
  ∀ (s : State) (cause slot : Nat) (va : Word), s.req = none → s.core.flow.finding = some (.trap cause slot va) →
    let d := s.core.failWaiting (s.waitsForSwitch s.cur)
    (s.core.fw.mode ≠ .idle → (s.core.fw.mode = .exclusive ∨ ∃ e ∈ s.core.fw.queue, 1 ≤ e.cause ∧ e.cause ≤ 5) →
      exec .firmwareActivation s = .next s) ∧
    (1 ≤ cause → cause ≤ 5 → slot < 16 → s.core.fw.mode = .idle → s.core.fw.queue = [] →
    ∃ t, exec .firmwareActivation s = .next t ∧ s.sameModule t ∧ s.sameOthers t ∧ let c := t.core
      c.fw.mode = .exclusive ∧ c.fw.pc = 0 ∧ c.fw.queue = [] ∧ c.regs = s.core.regs ∧ c.loops = s.core.loops ∧
      c.task = s.core.task ∧ c.flow.finding = s.core.flow.matched.head? ∧ c.flow.matched = s.core.flow.matched.tail ∧
      c.flow.pend = [] ∧ c.flow.xfers = [] ∧
      find 0 31 c.fw.f = BitVec.ofNat 64 (cause + 256 * slot) ∧ find 0 30 c.fw.f = s.core.flow.nextAddr.setWidth 64 ∧
      find 0 29 c.fw.f = va ∧ c.flight.bundleF = s.core.flow.nextAddr ∧
      c.flight.count = d.flow.pend.length + d.flow.again.length +
        ((d.mem.held d.mem.storeQ).filter (fun x => !d.flow.pend.any (fun p => p.seq == x.seq))).length +
        (if d.press.beatsFrom s.core.flow.bundleNo = 0 then 0 else 1) ∧
      c.flight.xferCount = BitVec.ofNat 2 s.core.flow.xfers.length)

/-- R274, R275: a request to an idle firmware of a core with a share starts it in background mode, and the user context is
not stopped; a window's end gives every core its share again. That f30 of cause 0x12 is the bundle that would issue next, and
f29 zero, is the model's reading (log 42). -/
def Claims.BackgroundActivation : Prop :=
  (∀ (s : State) (n : Nat), s.req = some (.firmwareRequest n) → (s.coreAt n).flow.finding = none →
    (s.coreAt n).fw.mode = .idle → (s.coreAt n).fw.queue = [] → 0 < (s.coreAt n).share → ∃ t,
    exec .firmwareActivation s = .next t ∧ t.req = none ∧ t.mem = s.mem ∧ let c := t.coreAt n
      c.fw.mode = .background ∧ c.fw.pc = 0 ∧ c.fwHolds = false ∧ c.regs = (s.coreAt n).regs ∧ c.flow = (s.coreAt n).flow ∧
      find 0 31 c.fw.f = 0x12 ∧ find 0 30 c.fw.f = (s.coreAt n).flow.nextAddr.setWidth 64 ∧ find 0 29 c.fw.f = 0 ∧
      ∀ m, m ≠ n → t.coreAt m = s.coreAt m) ∧
  (∀ (s : State), ∃ t, exec .fwshareWindow s = .next t ∧ s.sameModule t ∧ ∀ n,
    t.coreAt n = { s.coreAt n with fw := { (s.coreAt n).fw with shareUsed := 0 } })

/-- R270, R272, R289: `resume` of an exclusive activation empties the flight record and lets the user context go on at bundle
F with the transfers that were kept, and a pre-empted task comes back where its words have been restored; of a background one
it only ends the activation. Either way the entries that `bmap` wrote stand in the barrier table from now on. -/
def Claims.Resume : Prop :=
  ∀ (s : State), PassesFirst .resume s → ∃ t, exec .resume s = .next t ∧
    (s.fe.preempted = [] ∨ s.fe.banks = [] → t.mem = s.mem) ∧
    t.core.fw.mode = .idle ∧ t.core.fw.event = none ∧ t.core.fw.bmaps = [] ∧ t.core.regs.a = s.core.regs.a ∧
    t.core.regs.v = s.core.regs.v ∧ t.core.regs.k = s.core.regs.k ∧
    (∀ h, find? h (t.ctxAt s.core.ctxId).btab = match s.core.fw.bmaps.reverse.find? (fun w => w.1 == h) with
      | some w => some w.2
      | none => find? h (s.ctxAt s.core.ctxId).btab) ∧
    (s.core.fw.mode = .background → t.core.flow = s.core.flow ∧ t.core.flight = s.core.flight ∧
      t.core.mem.loadQ = s.core.mem.loadQ ∧ t.core.mem.storeQ = s.core.mem.storeQ ∧ t.core.task = s.core.task) ∧
    (s.core.fw.mode ≠ .background → (∃ u : State, t = ((u.adoptTask.modCore (fun c => c.resumeUser s.tick)).alignAgain).askAgain ∧
        u.fe = s.fe ∧ u.clusters = s.clusters ∧ u.core.task = s.core.task ∧ u.core.regs.a = s.core.regs.a) ∧ let f := s.core.flight
      t.core.flow.nextAddr = f.bundleF ∧ t.core.flight.count = 0 ∧
      t.core.flow.xfers = s.core.flow.xfers ++ (([f.xfer0, f.xfer1].take f.xferCount.toNat).map (fun x =>
        ⟨bits x 49 48, x.setWidth 48, none⟩)) ∧ (s.fe.preempted = [] → t.clusters = s.clusters))

/-- R118, R171, R182, R251, R254, R284, R286, R288: a pre-empted task comes back to a core that has no task and holds its tile
and launch words: with its press, its tables, its nests and levels, and its barriers where the table puts them now; a timed
one on the core that it left, where it waits for its alignment target again. It goes on in the current versions, under its
program's segment table. What is saved of a task beside the state space, and by which words a task is known again at its
resume, is the model's reading (log 43). -/
def Claims.TasksResumed : Prop :=
  (∀ (s : State) (p : SavedTask), s.resumable = some p → s.core.task.status = .idle ∧ p ∈ s.fe.preempted ∧
    p.ctx = s.core.ctxId ∧ p.coord = s.core.regs.readCsr 0x005 ∧ p.parm = s.core.regs.readCsr 0x006 ∧
    (p.task.timed = true → p.core = s.cur) ∧ let t := s.adoptTask; let k := t.core.task
    t.fe.preempted = s.fe.preempted.erase p ∧ k.status = .running ∧ k.launch = p.task.launch ∧ k.tile = p.task.tile ∧
    k.timed = p.task.timed ∧ k.start = (if p.task.timed then s.core.task.start else p.task.start) ∧
    t.core.press = { p.press with seqStart := s.core.flow.bundleNo, seqBeats := 0 } ∧ t.core.regs = { s.core.regs with trellis := p.trellis } ∧
    t.core.eng.seqLevels = p.seqLevels ∧ t.core.eng.nests = p.nests.map (fun n =>
      { n with copy := { n.copy with bar := (s.physBarrier n.handle).getD n.copy.bar }, bundle := none }) ∧
    t.core.eng.lastDeparture = p.lastDeparture ∧ (s.fe.banks = [] → t.mem = s.mem) ∧ t.core.fw.posF = none ∧
    (∀ n l, p.draining.filter (fun x => x.1 == n) = [(n, l)] →
      find [] n t.core.eng.draining = find [] n s.core.eng.draining ++ l) ∧
    (s.core.flow.finding = none → s.core.flow.matched = [] → t.core.flow.finding.toList ++ t.core.flow.matched = p.matched) ∧
    (∀ q, (s.ctxAt p.ctx).programAt (s.entryOf p) = some q → t.core.mem.segAddr = q.segAddr ∧
      t.core.mem.segCount = q.segCount) ∧
    (∀ h b n, (h, b) ∈ p.barriers → s.physBarrier h = some n →
      (∀ x ∈ p.barriers, s.physBarrier x.1 = some n → x = (h, b)) → t.core.eng.barrier n = b) ∧
    (∀ d, p.task.timed = true → p.task.alignAt = some d → t.core.flow.wait = .align (s.core.task.start + d).toNat)) ∧
  (∀ s : State, s.resumable = none → s.adoptTask = s)

/-- R270: a value entry of the record lands again as a result of bundle F + R - 1, with the value and the destination the
record names. -/
def Claims.RecordedValues : Prop :=
  ∀ (c : Core) (i tick n : Nat) (m : FlightMeta), let w (k : Nat) : Word := find 0 (128 * i + k) c.flight.words
    bits (w 0) 49 48 = 1 → n < 64 → w 1 = BitVec.ofNat 64 n → find? i c.flight.info = some m → m.dest = .a n →
    let d := (c.reissue i tick).1
    ∃ p : Pending, d.flow.pend = c.flow.pend ++ [p] ∧ p.dest = .a n ∧ p.value = (w 2).setWidth 2048 ∧
      p.en = m.en ∧ p.due = c.flow.bundleNo + bits (w 0) 47 40 - 1 ∧ p.slot = bits (w 0) 32 30 ∧ p.ready = true ∧
      d.regs = c.regs ∧ d.mem = c.mem ∧ (c.reissue i tick).2 = none

/-- R268, R284, R289: `fwyield` with end ends the phase: the record has fw and fy set, the code where it is one of R266 and
else 0x01, and the code unchanged in tcode; its bundle is F, or the user bundle that would issue next. Without end it ends the
activation, and a task taken for pre-emption leaves its core with all that is saved of it (log 43). `fwtake` turns the activation
exclusive and names F. -/
def Claims.YieldAndTake : Prop :=
  (∀ (s : State) (code : BitVec 8), PassesFirst (.fwyield true code) s → ∃ t, exec (.fwyield true code) s = .next t ∧
    let w (k : Nat) : Word := find 0 k t.core.flight.fault; let k := code.toNat
    t.core.task.status = .faulted ∧ t.core.fw.mode = .idle ∧
    bits (w 0) 7 0 = (if k = 1 ∨ (3 ≤ k ∧ k ≤ 0x11) ∨ k = 0x13 then k else 1) ∧ (w 0).getLsbD 12 = true ∧
    (w 0).getLsbD 13 = false ∧ (w 0).getLsbD 14 = false ∧ (w 0).getLsbD 15 = true ∧ bits (w 0) 39 16 = k ∧
    w 1 = (if s.core.fw.mode = .exclusive then s.core.flight.bundleF else s.core.flow.nextAddr).setWidth 64 ∧
    w 2 = (s.core.fw.event.map (fun e => e.f29)).getD 0) ∧
  (∀ (s : State) (code : BitVec 8), PassesFirst (.fwyield false code) s → ∃ t, exec (.fwyield false code) s = .next t ∧
    t.core.fw.mode = .idle ∧ t.core.regs.a = s.core.regs.a ∧ t.mem = s.mem ∧
    (∀ e, s.core.fw.event = some e → e.cause = 0x10 → t.core.task = Task.none ∧ t.core.loops.order = [] ∧
      t.core.eng.nests = [] ∧ ∃ p, t.fe.preempted = s.fe.preempted ++ [p] ∧ p.ctx = t.core.ctxId ∧ p.task = s.core.task ∧
        p.core = s.cur ∧ p.coord = t.core.regs.readCsr 0x005 ∧ p.parm = t.core.regs.readCsr 0x006 ∧ p.press = s.core.press ∧
        p.trellis = s.core.regs.trellis ∧ p.seqLevels = s.core.eng.seqLevels ∧ p.nests = s.core.eng.nests ∧
        p.draining = s.core.eng.draining ∧ t.core.eng.draining = [] ∧ t.core.flow.matched = [] ∧
        p.matched = s.core.flow.finding.toList ++ s.core.flow.matched ∧
        ∀ h x, find? h (t.ctxAt t.core.ctxId).btab = some x → x.getLsbD 10 = true →
          (h, s.core.eng.barrier (bits x 9 0)) ∈ p.barriers)) ∧
  (∀ (s : State), PassesFirst .fwtake s → ∃ t, exec .fwtake s = .next t ∧ s.sameModule t ∧
    t.core.fw.mode = .exclusive ∧ t.core.flight.bundleF = s.core.flow.nextAddr ∧ t.core.regs = s.core.regs ∧
    t.core.flow = s.core.flow)

/-- R277: what a word of the state space reads after a write of x to it. That a count above 96 entries reads 96 is the model's
reading (log 17). -/
def Claims.StateSpace : Prop :=
  ∀ (c : Core) (n x : Word), let i := n.toNat; let d := c.writeSpace n x; let r := d.readSpace n
    (0 < i ∧ i < 0x40 → r = x) ∧ (i = 0 → r = 0) ∧ (0x40 ≤ i ∧ i < 0x740 → r = x) ∧ (0x740 ≤ i ∧ i < 0x840 → r = 0 ∧ d = c) ∧
    (i = 0x840 → r = BitVec.allOnes 64 ∧ d = c) ∧ (0x840 < i ∧ i < 0x848 → r = x) ∧ (0x848 ≤ i ∧ i < 0x868 → r = x &&& 0x1F0000001F) ∧
    (0x868 ≤ i ∧ i < 0x870 → r.toNat = x.toNat % 2 ^ (if i % 2 = 0 then 33 else 62)) ∧ (i = 0x870 → r.toNat = x.toNat % 16) ∧
    (i = 0x871 → r.toNat = x.toNat % 2 ^ 48) ∧ (i = 0x872 → r.toNat = x.toNat % 2 ^ 16) ∧
    (i = 0x873 → r.toNat = min 96 (x.toNat % 128)) ∧ (0x874 ≤ i ∧ i < 0x878 → d = c) ∧ (0x878 ≤ i ∧ i < 0x87C → r = x) ∧
    (0x87C ≤ i ∧ i < 0x880 → r.toNat = x.toNat % 2 ^ 32) ∧
    (0x880 ≤ i ∧ i < 0x883 → r = if c.task.timed = true ∨ c.task.status = .idle then
      (if i = 0x880 then x else if i = 0x881 then x &&& 0x1FFFFFFFFFFFF else x &&& 0x1FFFF) else 0) ∧
    (i = 0x884 → r.toNat = x.toNat % 4) ∧ (i = 0x885 ∨ i = 0x886 → r = x) ∧
    (0x890 ≤ i ∧ i ≤ 0x897 ∨ 0x8A0 ≤ i ∧ i ≤ 0x8AF → r = x) ∧ (i = 0x898 ∨ i = 0x899 → r.toNat = x.toNat % 2 ^ 48) ∧
    (0x1000 ≤ i ∧ i < 0x4000 → r = x) ∧
    (i = 0x883 ∨ (0x887 ≤ i ∧ i < 0x890) ∨ (0x89A ≤ i ∧ i < 0x8A0) ∨ (0x8B0 ≤ i ∧ i < 0x1000) ∨ 0x4000 ≤ i → r = 0 ∧ d = c)

/-- R204, R289, R310: the instructions that reach the state space, the TLBs, versions and the barrier table. `tlbinv` drops,
of the translations of the context that it names, those of the micro-TLB alone, of the cluster and its cores, or of the die;
every other translation stays, and nothing else changes. What `bmap` writes stands in the table from the end of the
activation on (`Resume`). -/
def Claims.PrivilegedInstructions : Prop :=
  (∀ (s : State) (x i : Reg), Completes (.flread x i) s (s.landA x (s.core.readSpace (s.readA i)) ⟨1, 1⟩) ∧
    Completes (.flwrite x i) s (s.modCore (fun c => c.writeSpace (s.readA i) (s.readA x)))) ∧
  (∀ (s : State) (scope : BitVec 2) (r : Reg) (all : Bool), PassesFirst (.tlbinv scope r all) s →
    let keep (l : List TlbEntry) : List TlbEntry := l.filter (fun e => !(e.ctx == s.core.ctxId && (all ||
      (decide (e.info.vpage.toNat ≤ (s.readA r).toNat) && decide ((s.readA r).toNat < e.info.vpage.toNat + e.info.size)))))
    ∃ t, exec (.tlbinv scope r all) s = .next t ∧ t = { s with cores := t.cores, clusters := t.clusters } ∧
      (∀ n, let named := if scope = 0 then n = s.cur else if scope = 1 then n / 8 = s.cur / 8 else n / 64 = s.cur / 64
        t.coreAt n = { s.coreAt n with mem := { (s.coreAt n).mem with utlb :=
          (t.coreAt n).mem.utlb } } ∧ (named → (t.coreAt n).mem.utlb = keep (s.coreAt n).mem.utlb) ∧
        (¬ named → t.coreAt n = s.coreAt n)) ∧
      ∀ n, let named := if scope = 0 then False else if scope = 1 then n = s.cur / 8 else n / 8 = s.cur / 64
        t.clusterAt n = { s.clusterAt n with tlb := (t.clusterAt n).tlb } ∧
        (named → (t.clusterAt n).tlb = keep (s.clusterAt n).tlb) ∧ (¬ named → t.clusterAt n = s.clusterAt n)) ∧
  (∀ (s : State) (r : Reg) (all : Bool), PassesFirst (.vinval r all) s → ∃ t, exec (.vinval r all) s = .next t ∧
    t = { s with cores := t.cores, mapxCalls := t.mapxCalls } ∧ s.sameOthers t ∧
    t.core = { s.core with mem := t.core.mem } ∧ t.core.mem.loadQ = s.core.mem.loadQ ∧ t.core.mem.storeQ = s.core.mem.storeQ ∧
    t.core.mem.utlb = s.core.mem.utlb ∧
    let page : Addr := BitVec.ofNat 48 ((s.readA r).toNat / 4096 * 4096)
    (∀ v, v ∈ t.core.mem.resident ↔ v ∈ s.core.mem.resident ∧ (all = true ∨ v.page = page → v ∈ s.core.committed)) ∧
    (∀ k, all = true ∨ k = page.toNat → find? k t.core.mem.descs = none) ∧
    (∀ m ∈ s.mapxCalls, all = false → m.canon ≠ page → m.cores ≠ [] → m ∈ t.mapxCalls) ∧
    ∀ m ∈ t.mapxCalls, all = true ∨ m.canon = page → s.cur ∉ m.cores) ∧
  (∀ (s : State) (h e : Reg), Completes (.bmap h e) s (s.modFw (fun f =>
    { f with bmaps := f.bmaps ++ [((s.readA h).toNat % 4096, (s.readA e).setWidth 11)] })))

/-! Bundles (R46 to R61, R110 to R114, R281 to R288, R304, R311). -/

/-- R61, R76, R283, R320: a bundle without work changes nothing; a pad, an overrun of the safe bound and one of the cadence
are faults of the whole bundle, slot 8, the last two told apart by the cad bit. -/
def Claims.WholeBundleFaults : Prop :=
  ∀ (s : State), exec .nop s = .next s ∧ ∀ (i : Instr) (code : Nat) (cad : Bool),
    (i, code, cad) ∈ [(Instr.padBundle, 0x0B, false), (.safeBoundOverrun, 0x09, false), (.cadenceOverrun, 0x09, true)] →
    s.fwIssuing = false → ∃ t, exec i s = .next t ∧ s.sameModule t ∧ s.sameOthers t ∧ t.core.task.status = .faulted ∧
      t.core.regs = s.core.regs ∧ t.core.issue.stage = .closed ∧ let w (k : Nat) : Word := find 0 k t.core.flight.fault
      bits (w 0) 7 0 = code ∧ bits (w 0) 11 8 = 8 ∧ (w 0).getLsbD 14 = cad ∧ w 1 = s.core.issue.addr.setWidth 64 ∧ w 2 = 0

/-- R59, R60, R304: the fill hints and the mark of a segment's end change nothing but the segment copy under way and what is
cached of translations, which meters count; without a segment table they change nothing. A mark starts the copy of the segment that its entry
names next, a hint that of its target's segment, where no copy runs and it is not resident; a target that cannot be entered
drops the hint. An activation for cause 0x11 starts the copy that it waits for when it ends (the model's reading, log 18). -/
def Claims.SegmentsAndFills : Prop :=
  (∀ (s : State) (i : Instr) (d : BitVec 12), i ∈ [Instr.branchTargetFill d, .callTargetFill d, .loopExitFill d, .segMark] →
    ∃ t, exec i s = .next t ∧ t = { s with cores := t.cores, clusters := t.clusters, contexts := t.contexts } ∧
      s.sameOthers t ∧ s.onlyCounts t ∧
      (∀ n, t.clusterAt n = { s.clusterAt n with tlb := (t.clusterAt n).tlb }) ∧ let m := s.core.mem; let m' := t.core.mem
      t.core = { s.core with mem := { m with segCopy := m'.segCopy, utlb := m'.utlb, descs := m'.descs } } ∧
      (m.segCount = 0 → t = s) ∧ (∀ k, m.segCopy = some k → m'.segCopy = some k) ∧
      (∀ k, m.segCopy = none → m'.segCopy = some k → k ∉ m.segHalves) ∧
      (∀ x, i = .segMark → s.segmentOf s.cur s.core.issue.addr = some x → m.segCopy = none → x.next ∉ m.segHalves →
        m'.segCopy = some x.next) ∧
      (∀ (u : State) (a : Addr) (e : Entry), i ≠ .segMark → (a.toNat : Int) = s.core.issue.addr.toNat + 32 * d.toInt →
        s.enter s.cur a = (u, e) → m.segCopy = none →
        (∀ p x, e = .ok p → s.segmentOf s.cur a = some x → x.idx ∉ m.segHalves → 0 < m.segCount → m'.segCopy = some x.idx) ∧
        ((∀ p, e ≠ .ok p) → m'.segCopy = none))) ∧
  (∀ (s : State) (k : Nat) (c : BitVec 8) (i : Instr) (e : FwEvent), i ∈ [Instr.resume, .fwyield false c] → PassesFirst i s →
    s.core.fw.event = some e → e.cause = 0x11 → s.core.fw.segment = some k →
    (i = .resume → s.core.fw.mode = .background ∨ s.fe.preempted = []) → ∃ t, exec i s = .next t ∧
    t.core.mem.segCopy = some k ∧ t.core.fw.segment = none ∧ t.core.fw.mode = .idle)

/-- R193, R303, R304: a segment copy that completes puts its segment into the idle half, with the bundles of its pages as
memory holds them then; here of a segment of one page. -/
def Claims.SegmentCopies : Prop :=
  ∀ (s : State) (k : Nat), s.core.mem.segCopy = some k → ∃ t, exec .segmentCopyComplete s = .next t ∧
    t = { s with cores := t.cores, clusters := t.clusters, contexts := t.contexts, bad := t.bad } ∧ s.sameOthers t ∧
    s.onlyCounts t ∧
    (∀ n, t.clusterAt n = { s.clusterAt n with tlb := (t.clusterAt n).tlb }) ∧ t.core.regs = s.core.regs ∧
    t.core.mem.segHalves = s.core.mem.segHalves.take 1 ++ [k] ∧ t.core.mem.segCopy = none ∧
    ∀ (u : State) (x : Segment) (p : Pos) (bs : List Bundle), (s.segments s.cur).find? (fun x => x.idx == k) = some x →
      x.len = 4096 → s.enter s.cur (BitVec.ofNat 48 x.start) = (u, .ok p) → u.codeOf s.cur p.ver = .ok bs →
      p.ver ∈ t.core.mem.resident ∧ ∀ j b, bs[j]? = some b → t.core.mem.bundleAt ⟨p.ver, j⟩ = b

/-- R193, R207, R295, R311: a version whose code can be read stands in instruction memory, bundle by bundle, and is resident,
in place of the page's other versions that the core does not execute; a racked version holds the bundles of its native page
and then those of its annex. A page that cannot be read is found. -/
def Claims.CodeReload : Prop :=
  (∀ (s : State) (v : Version) (bs : List Bundle), s.core.mem.reload = some v → s.codeOf s.cur v = .ok bs →
    ∃ t, exec .codeReloadComplete s = .next t ∧ t = { s with cores := t.cores, contexts := t.contexts, bad := t.bad } ∧
      s.sameOthers t ∧ s.onlyCounts t ∧
      t.core.regs = s.core.regs ∧ t.core.mem.reload = none ∧ v ∈ t.core.mem.resident ∧
      (∀ x ∈ t.core.mem.resident, x.page = v.page → x = v ∨ x ∈ s.core.committed) ∧
      (∀ i b, bs[i]? = some b → t.core.mem.bundleAt ⟨v, i⟩ = b) ∧
      (∀ p ∈ t.bad, p ∈ s.bad ∧ ∀ i, p ≠ .code s.cur v.page i)) ∧
  (∀ (s : State) (v : Version) (code tc : Nat) (va : Word), s.core.mem.reload = some v →
    s.codeOf s.cur v = .error (.fault code va tc) → s.core.flow.finding = none → ∃ t, exec .codeReloadComplete s = .next t ∧
      s.sameModule t ∧ t.core.mem.reload = none ∧ t.core.mem.code = s.core.mem.code ∧
      t.core.flow.finding = some (.fault code 8 s.core.flow.nextAddr va false 0)) ∧
  (∀ (s : State) (core : Nat) (page : Addr) (vint : BitVec 8) (bs : List Byte), let c := (s.coreAt core).ctxId
    let read (a : Addr) (n : Nat) : Except Check (List Byte) := s.readAllowed (fun p => p.x) core c a.toNat n
    (vint = 3 → read page 64 = .ok bs → s.codeOf core ⟨page, vint, .native⟩ = .ok (bundlesOf bs 128)) ∧
    ∀ (nat annex : Addr) (n a : Nat) (m : List Byte) (x : BitVec 32) (cs : List Byte), 0 < a → read nat ((n + 1) / 2) = .ok bs →
      read annex ((a + 1) / 2) = .ok cs →
      s.codeOf core ⟨page, vint, .racked nat annex n a m x⟩ = .ok (bundlesOf bs n ++ bundlesOf cs a)) ∧
  (∀ (bs : List Byte) (n i : Nat), i < n → (bundlesOf bs n)[i]? = some (bundleOfBytes ((bs.drop (32 * i)).take 32)))

/-- R46, R60, R75, R304: fetching a bundle changes no register and no other core; a bundle of zero slots on a resident page
opens with its one row, and counts toward the bounds; a fetch from a page of no program, or outside every segment, is trap
0x02; code of a program's page that is not resident is copied again, and a segment that is not resident is asked for with
event 0x11. -/
def Claims.BundleFetches : Prop :=
  (∀ (s : State), ∃ t, exec .bundleFetch s = .next t ∧ t.core.regs = s.core.regs ∧ s.sameOthers t ∧ t.mem = s.mem) ∧
  (∀ (s : State), let c := s.core; let f := c.flow
    c.fw.mode = .idle → f.goto = none → c.mem.segCount = 0 → f.pos.ver ∈ c.mem.resident →
    SoftPlace.code s.cur f.pos.ver.page f.pos.idx ∉ s.bad →
    c.mem.bundleAt f.pos = 0 → c.task.timed = false → c.regs.readCsr 0x101 = 0 → c.press.beatAt f.bundleNo = false →
    (∀ k, k < 4 → c.regs.readCsr (0x110 + k) = 0) →
    ∃ t, exec .bundleFetch s = .next t ∧ t.core.issue.stage = .ops ∧ t.core.issue.word = 0 ∧
      t.core.issue.pos = f.pos ∧ t.core.issue.addr = f.pos.addr ∧ t.core.issue.todo = [.row .nop] ∧
      t.core.task = { c.task with safeCount := c.task.safeCount + 1 } ∧ t.core.flow.bundleNo = f.bundleNo) ∧
  (∀ (s : State), let c := s.core; let f := c.flow; let a := f.pos.addr
    c.fw.mode = .idle → f.goto = none → c.mem.segCount ≠ 0 →
    c.mem.backs (BitVec.ofNat 48 (a.toNat / 4096 * 4096)) = false → ∃ t, exec .bundleFetch s = .next t ∧
      (s.segmentOf s.cur a = none → f.finding = none → t.core.issue = c.issue ∧
        t.core.flow.finding = some (.trap 0x02 8 (a.setWidth 64))) ∧
      (∀ x, s.segmentOf s.cur a = some x → x.idx ∉ c.mem.segHalves → t.core.issue = c.issue ∧ t.core.flow.pos = f.pos ∧
        (c.mem.segCopy = none → c.fw.segment = none → t.core.fw.segment = some x.idx ∧
          ∃ e, t.core.fw.queue = c.fw.queue ++ [e] ∧ e.cause = 0x11 ∧ e.f30 = a.setWidth 64))) ∧
  (∀ (s : State), let c := s.core; let f := c.flow
    c.fw.mode = .idle → f.goto = none → c.mem.segCount = 0 → f.pos.ver ∉ c.mem.resident →
    ∃ t, exec .bundleFetch s = .next t ∧ t.core.issue = c.issue ∧ t.core.flow.pos = f.pos ∧
      (s.placed s.cur f.pos.ver.page = true → t.core.mem.reload = some f.pos.ver) ∧
      (s.placed s.cur f.pos.ver.page = false → f.finding = none →
        t.core.flow.finding = some (.trap 0x02 8 (f.pos.addr.setWidth 64))))

/-- R57, R75, R224, R264, R267, R280: what the checks of a bundle come to, whatever its slots hold. A bad header, or the lowest
illegal slot, is fault 0x01; then a port or a result that is not there freezes the core; then a beat without leave is fault
0x0A; then the lowest slot whose operand check raises a fault ends the phase, and where only traps are met the lowest slot's
is taken; a bundle that passes opens with its operations, none in a disabled stage. That what is found of the bundle as a whole
comes before the operand checks, and slot 8 for it, is the model's reading (logs 27, 61). -/
def Claims.BundleChecks : Prop :=
  ∀ (s u : State) (pos : Pos), let c := s.core
    c.fw.mode = .idle → s.arrivesAt u pos → pos.ver ∈ u.core.mem.resident →
    SoftPlace.code s.cur pos.ver.page pos.idx ∉ s.bad →
    (u.core.mem.segCount = 0 ∨ ∃ x, u.segmentOf s.cur pos.addr = some x ∧ x.idx ∈ u.core.mem.segHalves) →
    let v := u.openedAt pos; let w := u.core.mem.bundleAt pos; let h := header w
    let ops := if v.core.issue.disabled then [] else v.core.issue.ops
    let fails (p : Nat × Instr) (x : Check) : Prop := opCheck p.2 (v.atSlot p.1) = some x
    ∃ t, exec .bundleFetch s = .next t ∧
      (w = padWord → t.core.issue.stage = .ops ∧ t.core.issue.todo = [.row .padBundle]) ∧
      (w ≠ padWord → h.hint = 0 → h.dist ≠ 0 → t.faultedWith 0x01 8) ∧
      (w ≠ padWord → (h.hint = 0 → h.dist = 0) →
        (∀ k, k < 8 → v.illegalSlot k → (∀ j, j < k → ¬ v.illegalSlot j) → t.faultedWith 0x01 k) ∧
        ((∀ k, k < 8 → ¬ v.illegalSlot k) →
          (v.core.preemptsHere = true → t.core.issue.todo = [.row .safeBundle]) ∧
          (v.core.preemptsHere = false → let beat := v.core.carriesBeat (ops.map (fun p => p.2))
            ((∃ p ∈ ops, v.freezes p.2 = true) → t.core.issue.stage = .closed ∧ t.core.eng = c.eng) ∧
            ((∀ p ∈ ops, v.freezes p.2 = false) →
              (beat = true → c.task.timed = false → c.task.leave = false → t.faultedWith 0x0A 7) ∧
              ((beat = true → c.task.timed = true ∨ c.task.leave = true) →
                (c.task.timed = true → (∃ p ∈ ops, isAlign p.2 = true) ∨ c.task.ccount.toNat < c.task.cadence.toNat) →
                h.safe = true ∨ c.regs.readCsr 0x101 = 0 ∨ c.task.safeCount.toNat < (c.regs.readCsr 0x101).toNat →
                (∀ p ∈ ops, ∀ code va tc, fails p (.fault code va tc) →
                  (∀ q ∈ ops, q.1 < p.1 → ∀ x, fails q x → x.isFault = false) → t.faultedWith (code % 256) p.1) ∧
                (∀ p ∈ ops, ∀ cause va, fails p (.trap cause va) ∨ (fails p .miss ∧ cause = 0x04 ∧ va = 0) →
                  (∀ q ∈ ops, ∀ x, fails q x → x.isFault = false ∧ p.1 ≤ q.1) → c.flow.finding = none →
                  t.core.flow.finding = some (.trap cause p.1 va) ∧ t.core.issue.stage = .closed ∧ t.core.flow.pos = pos) ∧
                ((∀ p ∈ ops, ∀ x, ¬ fails p x) → ∀ k va, v.watchFound ops = some (k, va) → c.flow.finding = none →
                  if c.debugged then t.core.flow.finding = some (.trap 0x05 k va) else t.faultedWith 0x13 k) ∧
                ((∀ p ∈ ops, ∀ x, ¬ fails p x) → (∀ n, n < 4 → c.regs.readCsr (0x110 + n) = 0) →
                  t.core.issue.stage = .ops ∧ t.core.issue.word = w ∧ t.core.issue.pos = pos ∧ t.core.issue.addr = pos.addr ∧
                  t.core.issue.todo = todoOf h ops ∧ t.core.flow.bundleNo = c.flow.bundleNo))))))

/-- R57, R99, R102: the rows that an open bundle runs: the operation of each of its slots once, the C slot after the others
but for `immx` and `barm`, and before them what its header asks for. -/
def Claims.BundleRows : Prop :=
  ∀ (h : Header) (ops : List (Nat × Instr)), let l := todoOf h ops
    (l.filterMap (fun x => match x with
      | .slot k => some k
      | .row _ => none)).Perm (ops.map (fun p => p.1)) ∧
    (Todo.row .segMark ∈ l ↔ h.seg = true) ∧ (Todo.row .safeBundle ∈ l ↔ h.safe = true) ∧
    (∀ i, i ≠ .segMark → i ≠ .safeBundle → i ≠ .nop → (Todo.row i ∈ l ↔ hintRow h = some i)) ∧
    (∀ i, (ops.map (fun p => p.1)).Nodup → (2, i) ∈ ops → (∀ p, i ≠ .immx p) → (∀ a b d, i ≠ .barm a b d) →
      l.getLast? = some (.slot 2))

/-- R281 to R284: an empty safe bundle under a request is displaced by the pre-emption: the firmware has the event 0x10 with F,
and leave is given back; any other safe bundle clears the safe counter. A request is pending for a free running task. -/
def Claims.SafeBundles : Prop :=
  (∀ (s : State), s.core.preemptsHere = false → ∃ t, exec .safeBundle s = .next t ∧ s.sameModule t ∧
    t.core = { s.core with task := { s.core.task with safeCount := 0 } }) ∧
  (∀ (s : State), s.core.preemptsHere = true → ∃ t e, exec .safeBundle s = .next t ∧ t.core.issue.stage = .closed ∧
    t.core.flow.pos = s.core.issue.pos ∧ t.core.flow.goto = none ∧ t.core.regs = s.core.regs ∧ t.core.task.preempt = false ∧
    t.core.task.leave = false ∧ t.core.fw.queue = s.core.fw.queue ++ [e] ∧ e.cause = 0x10 ∧
    e.f30 = s.core.issue.pos.addr.setWidth 64 ∧ (s.core.task.leave = true → ∀ r ∈ t.gov.held, r.owner ≠ .core s.cur)) ∧
  (∀ (s : State) (n : Nat), s.req = some (.preemptionRequest n) → ∃ t, exec .preemptionRequest s = .next t ∧ t.req = none ∧
    t.mem = s.mem ∧ (t.coreAt n).task.preempt = ((s.coreAt n).task.preempt ||
      ((s.coreAt n).task.status == .running && !(s.coreAt n).task.timed)) ∧ ∀ m, m ≠ n → t.coreAt m = s.coreAt m)

/-- R288: the request gives every core of the timed phase the index at which it may be pre-empted, and no other core; once
all cores have reported, all of them are pre-empted if all are empty, and otherwise none is; none issues for that. -/
def Claims.TimedPreemption : Prop :=
  (∀ (s : State) (l k n : Nat), s.req = some (.timedPhasePreemption l k) → ∃ t, exec .timedPhasePreemption s = .next t ∧
    t.req = none ∧ t.mem = s.mem ∧ (t.coreAt n).regs = (s.coreAt n).regs ∧ (t.coreAt n).task.preemptAt =
      if n ∈ (s.siblings l).flatMap s.coresOf ∧ (s.coreAt n).task.timed = true then some k else (s.coreAt n).task.preemptAt) ∧
  (∀ (s : State) (n : Nat), s.req = none → n ∈ s.reported → ∃ t, exec .timedPhasePreemption s = .next t ∧
    (t.coreAt n).task.alignReport = none ∧ (t.coreAt n).task.preemptAt = none ∧
    ((∃ m ∈ s.reported, (s.coreAt m).task.alignReport ≠ some true) → (t.coreAt n).fw.queue = (s.coreAt n).fw.queue) ∧
    ((∀ m ∈ s.reported, (s.coreAt m).task.alignReport = some true) →
      ∃ e, e ∈ (t.coreAt n).fw.queue ∧ e.cause = 0x10 ∧ (t.coreAt n).flow = (s.coreAt n).flow))

/-- R112: a level enables a bundle of stage t in pass q for the iterations that are in flight then: 0 to n - 1. -/
def Claims.StageEnables : Prop :=
  ∀ (l : LoopLevel) (j : Nat), 0 < l.stages → l.count.toNat < l.iters.toNat + l.stages →
    let q := l.iters.toNat + l.stages - 1 - l.count.toNat; let t := j / (l.len / l.stages)
    (l.enables j = true ↔ ∃ i, i < l.iters.toNat ∧ q = t + i)

/-- R51, R52, R93, R111: end evaluations, those of several levels that end at one bundle among them. The levels that end here
are evaluated with the one set up last first: each that has one pass left ends; the first that repeats lowers its count and
takes fetch back to its first body bundle, and the levels behind it stay. rot lowers the rotation base and bbadv asks for an
advance of the barrier base, once for each level evaluated. -/
def Claims.EndEvaluations : Prop :=
  ∀ (s : State) (pre rest : List Nat), let c := s.core; let lv (n : Nat) : LoopLevel := c.loops.level n
    let here (n : Nat) : Bool := (lv n).endsAt c.issue.pos; let ended := pre.filter here
    c.loops.order = pre ++ rest → c.loops.order.Nodup → (c.task.preempt = true → ∀ n ∈ c.loops.order, (lv n).stages ≤ 1) →
    (∀ n ∈ pre, here n = true → (lv n).count.toNat ≤ 1 ∧ (lv n).drained = false) →
    let rots (l : List Nat) : BitVec 4 := BitVec.ofNat 4 (l.countP (fun n => (lv n).rot))
    let advs (l : List Nat) : Nat := l.countP (fun n => (lv n).bbadv)
    (∀ n r, rest = n :: r → here n = true → 1 < (lv n).count.toNat → ∃ t, exec .loopEndEvaluation s = .next t ∧
      s.sameModule t ∧ s.sameOthers t ∧ (∀ m ∈ ended, t.core.loops.level m = { lv m with active := false, count := 0 }) ∧
      t.core.loops.level n = { lv n with count := (lv n).count - 1 } ∧
      (∀ m, m ∉ ended → m ≠ n → t.core.loops.level m = lv m) ∧
      t.core.loops.order = c.loops.order.filter (fun m => !ended.contains m) ∧
      t.core.issue.back = some ((lv n).top c.issue.pos) ∧
      t.core.regs = { c.regs with rb := c.regs.rb - rots (ended ++ [n]) } ∧
      t.core.issue.bbAdvance = c.issue.bbAdvance + advs (ended ++ [n])) ∧
    (rest = [] → ∃ t, exec .loopEndEvaluation s = .next t ∧ s.sameModule t ∧ s.sameOthers t ∧
      (∀ m ∈ ended, t.core.loops.level m = { lv m with active := false, count := 0 }) ∧
      (∀ m, m ∉ ended → t.core.loops.level m = lv m) ∧
      t.core.loops.order = c.loops.order.filter (fun m => !ended.contains m) ∧ (ended ≠ [] → t.core.issue.back = none) ∧
      t.core.regs = { c.regs with rb := c.regs.rb - rots ended } ∧
      t.core.issue.bbAdvance = c.issue.bbAdvance + advs ended)

/-- R114, R282, R287: a request drains the level that ends here, when it has more than one stage: the iterations that have
started go on to their ends, those that have not are counted, and no other starts. A drained level that ends goes to the
drain's end; with iterations not started its first body bundle is the next. -/
def Claims.Drains : Prop :=
  ∀ (s : State) (n : Nat) (r : List Nat), let c := s.core; let x := c.loops.level n
    c.loops.order = n :: r → x.endsAt c.issue.pos = true → x.stages < 2 ^ 33 →
    (c.task.preempt = true → 1 < x.stages → x.drained = false → 1 < x.count.toNat → let started := x.iters.toNat + x.stages - x.count.toNat
      ∃ t, exec .loopEndEvaluation s = .next t ∧ s.sameModule t ∧
        (∀ m, m ≠ n → t.core.loops.level m = c.loops.level m) ∧
        (started < x.iters.toNat → find? n t.core.loops.notStarted = some (x.iters.toNat - started) ∧
          t.core.loops.level n = { x with
            iters := BitVec.ofNat 33 started, count := BitVec.ofNat 33 (x.stages - 1), drained := true } ∧
          t.core.issue.back = some (x.top c.issue.pos) ∧ t.core.loops.order = n :: r) ∧
        (x.iters.toNat ≤ started → find? n t.core.loops.notStarted = some 0 ∧
          t.core.loops.level n = { x with count := x.count - 1, drained := true } ∧
          t.core.issue.back = some (x.top c.issue.pos))) ∧
    (x.drained = true → x.count.toNat ≤ 1 → r = [] ∨ 0 < find 0 n c.loops.notStarted → ∃ t, exec .loopEndEvaluation s = .next t ∧ s.sameModule t ∧
      t.core.loops.level n = { x with active := false, count := 0 } ∧ t.core.loops.notStarted = c.loops.notStarted ∧
      (0 < find 0 n c.loops.notStarted → t.core.issue.back = some (x.top c.issue.pos) ∧ t.core.loops.draining = some n) ∧
      (find 0 n c.loops.notStarted = 0 → t.core.issue.back = none ∧ t.core.loops.draining = some n))

/-- R49 to R52, R281, R287: where fetch goes after a bundle, which is chosen as it issues: to the target of a transfer whose
countdown ends, else back to a loop's first bundle, else on. After the last pass of a drained level no-op bundles follow; while
a transfer is pending its iterations are set up again at once (the model's reading, log 19). (The countdown of a transfer of one delay bundle behind one
of two stays at 0, log 71; a loop return goes before a countdown that has not ended, log 72.) -/
def Claims.NextPlaces : Prop :=
  (∀ (s : State), let c := s.core; let f := c.flow; let i := c.issue; let t := s.chooseNext; let g := t.core.flow
    let xs : List Xfer := f.xfers.map (fun x => { x with countdown := x.countdown - 1 }) ++
      (i.taken.map (fun x => (⟨s.delays, x.1, x.2⟩ : Xfer))).toList
    f.noOps = false → c.loops.draining = none → t.core.regs = c.regs ∧ t.core.loops = c.loops ∧ t.mem = s.mem ∧
    (∀ a q r, xs = ⟨0, a, some q⟩ :: r → g.pos = q ∧ g.goto = none ∧ g.xfers = r) ∧
    ((∀ x ∈ xs.head?, 0 < x.countdown) → g.xfers = xs ∧
      (∀ a q, i.back = some (a, some q) → g.pos = q ∧ g.goto = none) ∧
      (i.back = none → i.setupSkip = none → ∀ q, i.pos.next = .inl q → g.pos = q ∧ g.goto = none))) ∧
  (∀ (s : State), s.core.flow.noOps = true → s.chooseNext = s) ∧
  (∀ (s : State) (n : Nat), let c := s.core; let pending := !c.flow.xfers.isEmpty || c.issue.taken.isSome
    c.flow.noOps = false → c.loops.draining = some n →
    (pending = false → c.task.status = .running → s.chooseNext.core.flow.noOps = true ∧ s.chooseNext.core.loops = c.loops) ∧
    (pending = true → s.chooseNext.core.flow.noOps = false ∧ s.chooseNext.core.loops.draining = none ∧
      (0 < find 0 n c.loops.notStarted → (c.loops.level n).active = false → (s.chooseNext.core.loops.level n).active = true)))

/-- R46, R47, R53, R108, R126, R170: a bundle ends. The results due land together, and what is not due stays in flight; of
several results for one scalar register, one lane of a vector register or one bit of a mask register the one of the highest
slot wins, of one slot the latest; of a lane the winner alone writes. Flags accumulate onto what `vflags` cleared or restored. -/
def Claims.BundleEnds : Prop :=
  (∀ (s : State), s.fwIssuing = false → let c := s.core; let lands (p : Pending) : Bool := p.lands c.flow.bundleNo s.tick
    let last (p : Pending) (on : Pending → Prop) : Prop := p ∈ c.flow.pend ∧ lands p = true ∧ on p ∧
      ∀ q ∈ c.flow.pend, lands q = true → on q → q = p ∨ q.slot < p.slot ∨ q.slot = p.slot ∧ q.seq < p.seq
    ∃ t, exec .freezeEnd s = .next t ∧ t.mem = s.mem ∧ s.sameOthers t ∧ t.core.issue.stage = .closed ∧
      t.core.flow.bundleNo = c.flow.bundleNo + 1 ∧ t.core.flow.pend = c.flow.pend.filter (fun p => !lands p) ∧
      (∀ n, (∀ p ∈ c.flow.pend, lands p = true → p.dest ≠ .a n) → t.core.regs.readA n = c.regs.readA n) ∧
      (∀ n p, n ≠ 0 → last p (fun q => q.dest = .a n) → t.core.regs.readA n = p.value.setWidth 64) ∧
      (∀ n b, n < 56 → b < 2048 → let on (q : Pending) : Prop := q.dest = .v n ∧ elem q.en 32 (b / 32) ≠ 0
        ((∀ p ∈ c.flow.pend, lands p = true → ¬ on p) → (t.core.regs.readV n).getLsbD b = (c.regs.readV n).getLsbD b) ∧
        ∀ p, last p on → (t.core.regs.readV n).getLsbD b = (if p.en.getLsbD b then p.value else c.regs.readV n).getLsbD b) ∧
      (∀ n b, n ≠ 0 → b < 64 → let on (q : Pending) : Prop := q.dest = .k n ∧ q.en.getLsbD b = true
        ((∀ p ∈ c.flow.pend, lands p = true → ¬ on p) → (t.core.regs.readK n).getLsbD b = (c.regs.readK n).getLsbD b) ∧
        ∀ p, last p on → (t.core.regs.readK n).getLsbD b = p.value.getLsbD b) ∧
      ∀ b, t.core.regs.vflags.getLsbD b = true ↔
        (c.issue.flagWrites.foldl (fun r w => r.setFlags w.1 w.2) c.regs).vflags.getLsbD b = true ∨
        ∃ p ∈ c.flow.pend, lands p = true ∧ p.flags.getLsbD b = true) ∧
  (∀ (s : State), s.fwIssuing = true → s.core.fw.mode ≠ .idle → s.core.fw.xfers = [] → s.core.issue.taken = none →
    ∃ t, exec .freezeEnd s = .next t ∧ s.sameModule t ∧ t.core.fw.issuing = false ∧ t.core.fw.pc = s.core.fw.pc + 32 ∧
      t.core.fw.bundleNo = s.core.fw.bundleNo + 1 ∧ t.core.regs.a = s.core.regs.a ∧ t.core.flow = s.core.flow)

/-- R95, R287: a no-op bundle of a halt or a drain opens with no operation and counts toward nothing; when nothing is in flight
behind a drain, the no-op bundles end: a pending request is taken at the bundle that comes next, and without one the
iterations that were not started are set up again. -/
def Claims.NoOpBundles : Prop :=
  ∀ (s : State), let c := s.core
    (c.loops.draining = none ∨ c.inFlight = true → ∃ t, exec .drainNoOpBundles s = .next t ∧ s.sameModule t ∧
      t.core.issue.stage = .ops ∧ t.core.issue.word = 0 ∧ t.core.issue.todo = [] ∧ t.core.task = c.task ∧
      t.core.regs = c.regs ∧ t.core.flow = c.flow ∧ t.core.loops = c.loops) ∧
    (∀ n, c.loops.draining = some n → c.inFlight = false → ∃ t, exec .drainNoOpBundles s = .next t ∧
      t.core.loops.draining = none ∧ t.core.flow.noOps = false ∧ t.mem = s.mem ∧ t.core.flow.pos = c.flow.pos ∧
      t.core.flow.goto = c.flow.goto ∧ let left := find 0 n c.loops.notStarted; let x := c.loops.level n
      (c.emptyHere [] = true → c.task.preempt = true → t.core.task.preempt = false ∧ t.core.flight.bundleF = c.flow.nextAddr ∧
        t.core.loops.notStarted = c.loops.notStarted ∧ t.core.regs = c.regs ∧
        ∃ e, t.core.fw.queue = c.fw.queue ++ [e] ∧ e.cause = 0x10 ∧ e.f30 = c.flow.nextAddr.setWidth 64) ∧
      (c.emptyHere [] = false ∨ c.task.preempt = false → 0 < left → x.active = false → t.core.loops.level n = { x with
        active := true, count := BitVec.ofNat 33 (left + x.stages - 1), iters := BitVec.ofNat 33 left, drained := false } ∧
        t.core.regs = { c.regs with rb := if x.rot then c.regs.rb + BitVec.ofNat 4 (x.stages - 1) else c.regs.rb } ∧
        t.core.loops.order.head? = some n ∧ find? n t.core.loops.notStarted = none ∧ t.core.fw = c.fw))

/-! Memory: placement, translation, and the events of the queues (R192, R200 to R207, R227 to R239). -/

/-- R205: where a byte of the pool stands, and that two bytes of one context's pool never share a place; nor do granules of
different row groups, whatever the seeds. -/
def Claims.PoolPlacement : Prop :=
  ∀ (sets : List Nat) (seed seed' : BitVec 32) (pa pa' x : Nat), sets.Nodup → pa < 2 ^ 40 → pa' < 2 ^ 40 →
    let m := sets.length; let q := pa / 2 ^ 12 / m; let w := q / 4
    let h := bits (BitVec.ofNat 64 ((w ^^^ seed.toNat) * 0x9E3779B1 % 2 ^ 32)) 31 16
    (poolPlace sets seed pa = none ↔ m = 0 ∨ 2 ^ 22 ≤ q) ∧
    (poolPlace sets seed pa = some x →
      x / 2 ^ 34 = sets.getD ((pa / 2 ^ 12 % m + h) % m) 0 ∧
      x / 2 ^ 28 % 64 = (16 * (q % 4) + pa / 2 ^ 8 % 16) ^^^ (h % 64) ∧ x / 2 ^ 8 % 2 ^ 20 = w ∧ x % 2 ^ 8 = pa % 2 ^ 8) ∧
    (poolPlace sets seed pa = some x → poolPlace sets seed pa' = some x → pa = pa') ∧
    (poolPlace sets seed pa = some x → poolPlace sets seed' pa' = some x → pa' / 2 ^ 12 / m / 4 = w)

/-- R200 to R203: what a walk gives at each level: V = 0 is the not-present trap, a leaf at level 0 or a reserved bit fault 0x05,
a leaf at levels 1 and 2 a page of 1 GiB or 2 MiB with an aligned frame, and an entry that cannot be read its own fault; the
last level gives 4 KiB pages, and for a group with P64 the 64 KiB page of its first entry. And what each access finds on a
page. -/
def Claims.Walks : Prop :=
  (∀ (s : State) (v : View) (va k : Nat), k < 4 → s.walksTo v va k → let x := s.walkIn v va
    (∀ c, s.entryAt v va k = .error c → x = .fault c) ∧
    ∀ e, s.entryAt v va k = .ok e → let leaf := e.getLsbD 9
      (e.getLsbD 0 = false → x = .trap 0x02) ∧
      (e.getLsbD 0 = true → k < 3 → leaf = false → ¬ tableEntry e → x = .fault 0x05) ∧
      (e.getLsbD 0 = true → leaf = true → k = 0 → x = .fault 0x05) ∧
      (e.getLsbD 0 = true → leaf = true → k = 1 ∨ k = 2 → leafGives e va (2 ^ (39 - 9 * k)) x) ∧
      (e.getLsbD 0 = true → k = 3 → ∀ e2, s.entryAt v va 2 = .ok e2 →
        let group := s.readPhys64 v (bits e2 47 12 * 2 ^ 12 + 8 * (va / 2 ^ 12 % 512 / 16 * 16))
        (∀ c, group = .error c → x = .fault c) ∧
        ∀ g, group = .ok g → let p64 := e.getLsbD 10 || (g.getLsbD 0 && g.getLsbD 10)
          (p64 = false → (leaf = true → leafGives e va (2 ^ 12) x) ∧ (leaf = false → x = .fault 0x05)) ∧
          (p64 = true → (g.getLsbD 0 = false → x = .trap 0x02) ∧
            (g.getLsbD 0 = true → g.getLsbD 9 = false → x = .fault 0x05) ∧
            (g.getLsbD 0 = true → g.getLsbD 9 = true → leafGives g va (2 ^ 16) x)))) ∧
  (∀ (p : PageInfo), permission .read p = (if p.r then .ok p else .fault 0x04) ∧
    permission .write p = (if p.w then (if p.cow then .trap 0x03 else .ok p) else .fault 0x04) ∧
    permission .fetch p = (if p.x then .ok p else .fault 0x04))

/-- R13, R203, R209: when walks complete, no access of the acting core waits for its translation, unless 2,048 requests are
outstanding, one for each element (the model's reading, log 66), which none exceeds, or a meter holds a walk up: each has its places, or has failed; those of the user context keep their order and their
numbers, and no register changes. -/
def Claims.WalksComplete : Prop :=
  ∀ (s : State), let m := s.core.mem
    let waits (q : List QueueEntry) : Nat := ((queueAccesses q).map (fun x => if x.untranslated then x.elems.length else 0)).sum
    ∃ t, exec .pageWalkComplete s = .next t ∧ t.core.regs = s.core.regs ∧ let m' := t.core.mem
    (waits m.loadQ + waits m.storeQ + sentRequests m.loadQ + sentRequests m.storeQ ≤ 2048 → s.metered s.core.ctxId = false →
      ∀ x, QueueEntry.access x ∈ m'.loadQ ++ m'.storeQ → x.untranslated = false) ∧
    (sentRequests m.loadQ + sentRequests m.storeQ ≤ 2048 → sentRequests m'.loadQ + sentRequests m'.storeQ ≤ 2048) ∧
    (s.core.task.status ≠ .faulted → (∀ x, QueueEntry.access x ∈ m.loadQ ++ m.storeQ → x.physical = false) →
      (queueAccesses m'.loadQ).map (fun x => x.seq) = (queueAccesses m.loadQ).map (fun x => x.seq) ∧
      (queueAccesses m'.storeQ).map (fun x => x.seq) = (queueAccesses m.storeQ).map (fun x => x.seq)) ∧
    (s.core.task.status ≠ .faulted → (∀ x, QueueEntry.access x ∈ m.loadQ ++ m.storeQ → x.untranslated = false) →
      s.sameModule t ∧ t.core = s.core)

/-- R103, R210: the value a load lands: a scalar one extended by its kind, a vector one element by element, `vldb` its one
element in every place. -/
def Claims.LoadValues : Prop :=
  (∀ (e : MemElem) (bs : List Byte) (f : FormLD), let n := leValue bs
    (bs.length = 1 → loadValue (.ldB f) [(e, bs)] = (BitVec.ofInt 64 (BitVec.ofNat 8 n).toInt).setWidth 2048 ∧
      loadValue (.ldBu f) [(e, bs)] = (BitVec.ofNat 64 n).setWidth 2048) ∧
    (bs.length = 2 → loadValue (.ldH f) [(e, bs)] = (BitVec.ofInt 64 (BitVec.ofNat 16 n).toInt).setWidth 2048 ∧
      loadValue (.ldHu f) [(e, bs)] = (BitVec.ofNat 64 n).setWidth 2048) ∧
    (bs.length = 4 → loadValue (.ldW f) [(e, bs)] = (BitVec.ofInt 64 (BitVec.ofNat 32 n).toInt).setWidth 2048 ∧
      loadValue (.ldWu f) [(e, bs)] = (BitVec.ofNat 64 n).setWidth 2048) ∧
    (bs.length = 8 → loadValue (.ldD f) [(e, bs)] = (BitVec.ofNat 64 n).setWidth 2048)) ∧
  (∀ (f : FormLV) (n : Nat) (l : List (MemElem × List Byte)) (i : Instr), (f.ty.toNat % 4, n) ∈ [(0, 4), (1, 2), (2, 1), (3, 8)] →
    i ∈ [Instr.vld f, .vldEf f, .vlds f, .vldx f] → (l.map (fun p => p.1.idx)).Nodup →
    (∀ p ∈ l, p.2.length = n ∧ p.1.idx < 256 / n) →
    ∀ p ∈ l, elem (loadValue i l) (8 * n) p.1.idx = BitVec.ofNat (8 * n) (leValue p.2)) ∧
  (∀ (f : FormLV) (n j : Nat) (p : MemElem × List Byte), (f.ty.toNat % 4, n) ∈ [(0, 4), (1, 2), (2, 1), (3, 8)] → j < 256 / n →
    elem (loadValue (.vldb f) [p]) (8 * n) j = BitVec.ofNat (8 * n) (leValue p.2))

/-- R54, R103, R207: the load at the head of the queue is performed and leaves it, and its value arrives at its result; an
uncorrectable error is found instead. -/
def Claims.LoadArrivals : Prop :=
  ∀ (s : State) (x : Access) (ts : List Target), headOf s.core.mem.loadQ = some (.access x) → x.targets = some ts →
    let s1 := (s.charge s.cur x).modMem (fun c => { c with loadQ := dropAccess c.loadQ x.seq })
    (∀ u l, s1.readTargets s.cur (isEvictFirst x.instr) x.physical ts = (u, .ok l) → ∃ t, exec .loadDataArrival s = .next t ∧
      u.sameModule t ∧ t.core.regs = u.core.regs ∧ t.core.mem = u.core.mem ∧
      (x.physical = false → t.core.flow.pend = u.core.flow.pend.map (fun p =>
        if p.seq = x.seq then { p with value := loadValue x.instr l, ready := true, readyTick := u.tick } else p))) ∧
    (∀ u va, s1.readTargets s.cur (isEvictFirst x.instr) x.physical ts = (u, .error va) → x.physical = false →
      u.core.flow.finding = none → ∃ t, exec .loadDataArrival s = .next t ∧ u.sameModule t ∧ t.core.regs = u.core.regs ∧
        t.core.flow.finding = some (.fault 0x0D x.slot x.addr va false 0))

/-- R192, R195, R197, R198, R210: the bytes that a load gets: those of its bank, of memory under its key on an MS page or where no
bank caches, and otherwise those of its block in the cluster cache, which a miss fills from memory around its dirty bytes. A
load changes no memory. -/
def Claims.LoadedBytes : Prop :=
  ∀ (s : State) (x : Access) (ts : List Target), headOf s.core.mem.loadQ = some (.access x) → x.targets = some ts →
    s.bad = [] → x.physical = false → (∀ t ∈ ts, ∃ p, t.places = [p]) →
    let lands (t : State) (byte : Target → Nat → Byte) : Prop := exec .loadDataArrival s = .next t ∧ t.mem = s.mem ∧
      t.keyTag = s.keyTag ∧ t.core.regs = s.core.regs ∧ t.core.mem.loadQ = dropAccess s.core.mem.loadQ x.seq ∧
      t.core.flow.pend =
        s.delivered x (loadValue x.instr (ts.map (fun t => (t.elem, (List.range t.elem.size).map (byte t)))))
    let home (t : Target) (i : Nat) : Byte := s.homeByte t.key (t.places.headD (.bank 0)) i
    ((∀ t ∈ ts, (∃ off, t.places = [.bank off]) ∨ t.ms = true ∨ s.cluster.cacheBanks = 0) → ∃ t, lands t home ∧
      t.clusters = s.clusters) ∧
    (∀ e a pa key, ts = [⟨e, [.mem a pa], false, key⟩] → 0 < s.cluster.cacheBanks → a % 16 + e.size ≤ 16 →
      let b := find CacheBlock.empty (a / 16) s.cluster.cache
      (b.serves s.core.mem.refill (a % 16) e.size = true → ∃ t, lands t (fun _ i => b.byte (a % 16 + i))) ∧
      (b.serves s.core.mem.refill (a % 16) e.size = false → s.blockFits (a / 16) → ∃ t,
        lands t (fun u i => if b.dirty.getLsbD (a % 16 + i) then b.byte (a % 16 + i) else home u i) ∧
        ∃ c, find? (a / 16) t.cluster.cache = some c ∧ c.valid = BitVec.allOnes 16 ∧ c.dirty = b.dirty))

/-- R104, R195, R197, R198, R211, R227: the store at the head of the queue is performed and leaves it: its bytes, lowest first,
stand in the bank; on an MS page, or where no bank caches, in memory under its key; otherwise in the block of the cluster cache,
dirty, and in memory only once they are written back. Where the cache is full its victim leaves it, and its dirty bytes then
stand in memory. Nothing else of them changes. -/
def Claims.WritesPerformed : Prop :=
  ∀ (s : State) (x : Access) (e : MemElem) (ms : Bool) (key : Nat), headOf s.core.mem.storeQ = some (.access x) →
    let bs := storeBytes x e
    let left (t : State) : Prop := t.core.regs = s.core.regs ∧ t.core.mem.storeQ = dropAccess s.core.mem.storeQ x.seq
    (∀ off, x.targets = some [⟨e, [.bank off], ms, key⟩] → ∃ t, exec .writePerformed s = .next t ∧ left t ∧ t.mem = s.mem ∧
      let old := s.cluster.sram; let new := t.cluster.sram
      (∀ i, i < bs.length → some (readByte new (off + i)) = bs[i]?) ∧
      ∀ a, a < off ∨ off + bs.length ≤ a → readByte new a = readByte old a) ∧
    (∀ a pa, x.targets = some [⟨e, [.mem a pa], ms, key⟩] →
      (ms = true ∨ s.cluster.cacheBanks = 0 → ∃ t, exec .writePerformed s = .next t ∧ left t ∧ t.clusters = s.clusters ∧
        (∀ i, i < bs.length → some (t.devByte key (a + i)) = bs[i]?) ∧
        ∀ b, b < a ∨ a + bs.length ≤ b → t.devByte key b = s.devByte key b) ∧
      (ms = false → 0 < s.cluster.cacheBanks → a % 16 + bs.length ≤ 16 → s.bad = [] → ∃ t c,
        exec .writePerformed s = .next t ∧ left t ∧ let blk := a / 16; let b := find CacheBlock.empty blk s.cluster.cache
        find? blk t.cluster.cache = some c ∧ c.key = key ∧ s.cur ∈ c.owners ∧
        (∀ i, i < bs.length → some (c.byte (a % 16 + i)) = bs[i]? ∧ c.valid.getLsbD (a % 16 + i) = true ∧
          c.dirty.getLsbD (a % 16 + i) = true) ∧
        (∀ j, j < 16 → j < a % 16 ∨ a % 16 + bs.length ≤ j → c.byte j = b.byte j ∧
          c.valid.getLsbD j = b.valid.getLsbD j ∧ c.dirty.getLsbD j = b.dirty.getLsbD j) ∧
        (s.cluster.evicts blk = none → t.mem = s.mem ∧ t.keyTag = s.keyTag ∧
          ∀ k, k ≠ blk → find? k t.cluster.cache = find? k s.cluster.cache) ∧
        (∀ v, s.cluster.evicts blk = some v → let g := find CacheBlock.empty v s.cluster.cache
          v ≠ blk ∧ find? v t.cluster.cache = none ∧
          (∀ k, k ≠ blk → k ≠ v → find? k t.cluster.cache = find? k s.cluster.cache) ∧
          (g.dirty = 0 → t.mem = s.mem ∧ t.keyTag = s.keyTag) ∧
          (∀ i, i < 16 → g.dirty.getLsbD i = true → t.devByte g.key (16 * v + i) = g.byte i) ∧
          ∀ d, d / 16 ≠ v ∨ g.dirty.getLsbD (d % 16) = false → t.devByte g.key d = s.devByte g.key d)))

/-- R197: when a new block drives another out, and which: evict-first blocks first, then the least recently used. -/
def Claims.CacheVictims : Prop :=
  (∀ (s : State) (blk : Nat), s.cluster.evicts blk = none ↔ s.blockFits blk ∨ s.cluster.cache = []) ∧
  (∀ (s : State) (blk v : Nat), s.cluster.evicts blk = some v → cacheVictim s.cluster.cache = some v) ∧
  (∀ (l : Store CacheBlock) (v : Nat), (l.map (fun p => p.1)).Nodup → cacheVictim l = some v → ∃ b, (v, b) ∈ l ∧
    ∀ p ∈ l, (p.2.ef = true → b.ef = true) ∧ (p.2.ef = b.ef → b.used ≤ p.2.used))

/-- R104, R195, R197, R209, R211, R212, R227, R231: a store of any number of elements and places is performed in ascending order
of its elements: each byte that some of them reach holds what the last of these puts there, and every other byte stays. -/
def Claims.StoresOfElements : Prop :=
  ∀ (s : State) (x : Access) (ts : List Target), headOf s.core.mem.storeQ = some (.access x) → x.targets = some ts →
    let bw := bankWrites x ts; let mw := memWrites x ts
    ∃ t, exec .writePerformed s = .next t ∧ t.core.regs = s.core.regs ∧ t.hostMem = s.hostMem ∧
      t.core.mem.storeQ = dropAccess s.core.mem.storeQ x.seq ∧
      (∀ a, readByte t.cluster.sram a = (lastWrite bw a).getD (readByte s.cluster.sram a)) ∧
      (∀ key, (∀ u ∈ ts, u.key = key ∧ (u.ms = true ∨ s.cluster.cacheBanks = 0)) →
        (∀ c, (t.clusterAt c).cache = (s.clusterAt c).cache) ∧
        ∀ a, t.devByte key a = (lastWrite mw a).getD (s.devByte key a)) ∧
      (s.bad = [] → s.cluster.cacheBanks ≠ 0 → s.cluster.cache.length + mw.length ≤ 32768 * s.cluster.cacheBanks →
        (∀ u ∈ ts, u.ms = false) → (∀ w ∈ mw, w.1 % 16 + w.2.length ≤ 16) → t.mem = s.mem ∧ t.keyTag = s.keyTag ∧
        ∀ blk i, i < 16 → let b := find CacheBlock.empty blk s.cluster.cache; let c := find CacheBlock.empty blk t.cluster.cache
          (∀ v, lastWrite mw (16 * blk + i) = some v → c.byte i = v ∧ c.valid.getLsbD i = true ∧ c.dirty.getLsbD i = true) ∧
          (lastWrite mw (16 * blk + i) = none → c.byte i = b.byte i ∧ c.valid.getLsbD i = b.valid.getLsbD i ∧
            c.dirty.getLsbD i = b.dirty.getLsbD i))

/-- R192, R215 to R217: the atomic at the head of the queue is applied once, to the word as it stands, and its old value
arrives: to a word of a bank, to one of an MS page, and on another page to the word in memory, once the dirty bytes that the
cluster cache holds of it have been written back and their block is dropped. -/
def Claims.AtomicExecutions : Prop :=
  ∀ (s : State) (x : Access) (e : MemElem) (op : AmoOp) (ms : Bool) (key : Nat),
    headOf s.core.mem.storeQ = some (.access x) → amoOpOf x.instr = some op → e.size = 4 ∨ e.size = 8 → x.physical = false →
    s.bad = [] → let n := e.size; let low (w : Word) : Nat := w.toNat % 2 ^ (8 * n)
    let got (t : State) (m : Nat) : Prop := exec .atomicExecution s = .next t ∧ t.core.regs = s.core.regs ∧
      t.core.mem.storeQ = dropAccess s.core.mem.storeQ x.seq ∧
      t.core.flow.pend = s.delivered x ((BitVec.ofNat 64 m).setWidth 2048)
    let new (m : Nat) : Nat := amoValue op (8 * n) m (low x.ops.data) (low x.ops.t) % 2 ^ (8 * n)
    (∀ off, x.targets = some [⟨e, [.bank off], ms, key⟩] → let m := leValue (readBytes s.cluster.sram off n)
      ∃ t, got t m ∧ t.mem = s.mem ∧ leValue (readBytes t.cluster.sram off n) = new m ∧
        ∀ a, a < off ∨ off + n ≤ a → readByte t.cluster.sram a = readByte s.cluster.sram a) ∧
    (∀ a pa, x.targets = some [⟨e, [.mem a pa], ms, key⟩] →
      let word (u : State) : Nat := leValue ((List.range n).map (fun i => u.devByte key (a + i)))
      (ms = true → ∃ t, got t (word s) ∧ t.clusters = s.clusters ∧ word t = new (word s) ∧
        ∀ b, b < a ∨ a + n ≤ b → t.devByte key b = s.devByte key b) ∧
      (ms = false → a % 16 + n ≤ 16 → (∀ b, find? (a / 16) s.cluster.cache = some b → b.key = key) →
        let b := find CacheBlock.empty (a / 16) s.cluster.cache
        let m := leValue ((List.range n).map (fun i =>
          if b.dirty.getLsbD (a % 16 + i) then b.byte (a % 16 + i) else s.devByte key (a + i)))
        ∃ t, got t m ∧ find? (a / 16) t.cluster.cache = none ∧ word t = new m ∧
          (∀ k, k ≠ a / 16 → find? k t.cluster.cache = find? k s.cluster.cache) ∧
          ∀ c, c / 16 ≠ a / 16 → t.devByte key c = s.devByte key c))

/-- R239: an atomic that comes back from a page that has moved keeps its place in the queue and waits; it is translated again
once the page no longer moves. -/
def Claims.AtomicBounces : Prop :=
  ∀ (s : State) (x : Access), headOf s.core.mem.storeQ = some (.access x) →
    (∃ t, exec .atomicBounce s = .next t ∧ s.sameModule t ∧ t.core.regs = s.core.regs ∧ t.core.mem.loadQ = s.core.mem.loadQ ∧
      t.core.mem.storeQ = s.core.mem.storeQ.map (fun e => match e with
        | .access y => if y.seq = x.seq then .access { y with targets := none, bounced := true } else e
        | .marker _ _ => e)) ∧
    (s.stillMoving s.cur x = true → exec .atomicReissue s = .next s) ∧
    (∀ u ts, s.stillMoving s.cur x = false → s.translateAccess s.cur x = (u, ts, []) → ∃ t, exec .atomicReissue s = .next t ∧
      u.sameModule t ∧ t.core.regs = u.core.regs ∧ t.core.mem.storeQ = u.core.mem.storeQ.map (fun e => match e with
        | .access y => if y.seq = x.seq then .access { x with targets := some ts, bounced := false } else e
        | .marker _ _ => e))

/-- R214, R230, R234, R345: the row that writes dirty bytes back completes in every state: the blocks whose meters are open go
home, and once none of those meant is dirty what waits for them goes on. The marker at the head of both queues is passed, from
die scope on behind the dirty bytes of the core's stores; a `wbk` leaves its queue behind those of its region; for a task that
has halted or is pre-empted there is nothing more. Where no meter counts none stays dirty. No register changes. -/
def Claims.Writebacks : Prop :=
  ∀ (s : State), let own := s.cluster.ownBlocks s.cur
    let open_ (u : State) (blks : List Nat) : State := u.writeBackOpen (whoStore s.cur) (clusterOf s.cur) blks
    (∀ scope : BitVec 3, s.core.mem.markerDue = some scope →
      (scope.toNat < 2 → ∃ t, exec .clusterCacheWriteback s = .next t ∧ s.sameModule t ∧ s.sameOthers t ∧
        t.core = { s.core with mem := s.core.mem.passMarker }) ∧
      (2 ≤ scope.toNat → let u := open_ s own
        (u.cluster.cleanAll own = true → ∃ t, exec .clusterCacheWriteback s = .next t ∧ u.sameModule t ∧ u.sameOthers t ∧
          t.core = { u.core with mem := { u.core.mem.passMarker with refill := s.cluster.stamp } }) ∧
        (u.cluster.cleanAll own = false → exec .clusterCacheWriteback s = .next u))) ∧
    (∀ x, s.core.mem.markerDue = none → headOf s.core.mem.storeQ = some (.access x) →
      ∀ v blks, s.regionBlocks s.cur (x.ops.base + x.ops.t) = (v, blks) → let u := open_ v blks
      (u.cluster.cleanAll blks = true → ∃ t, exec .clusterCacheWriteback s = .next t ∧ u.sameModule t ∧ u.sameOthers t ∧
        t.core = { u.core with mem := { u.core.mem with storeQ := dropAccess s.core.mem.storeQ x.seq } }) ∧
      (u.cluster.cleanAll blks = false → exec .clusterCacheWriteback s = .next u)) ∧
    (s.core.mem.markerDue = none → (∀ x, headOf s.core.mem.storeQ ≠ some (.access x)) →
      exec .clusterCacheWriteback s = .next (open_ s own)) ∧
    (∀ blks, s.metered (s.clusterCtx (clusterOf s.cur)) = false → (open_ s blks).cluster.cleanAll blks = true) ∧
    ∀ blks n, ((open_ s blks).coreAt n).regs = (s.coreAt n).regs

/-- R197, R207, R214: the write-back of one block: its dirty bytes stand in memory under its key, every other byte of memory
reads under that key as before, and the block stays, clean. -/
def Claims.BlockWrittenBack : Prop :=
  ∀ (s : State) (cl blk : Nat) (b : CacheBlock), find? blk (s.clusterAt cl).cache = some b →
    s.badCached cl (16 * blk) 16 = false → let t := s.writeBack cl blk
    (∀ i, i < 16 → b.dirty.getLsbD i = true → t.devByte b.key (16 * blk + i) = b.byte i) ∧
    (∀ a, a / 16 ≠ blk ∨ b.dirty.getLsbD (a % 16) = false → t.devByte b.key a = s.devByte b.key a) ∧
    t.cores = s.cores ∧ find? blk (t.clusterAt cl).cache = some { b with dirty := 0, owners := [] } ∧
    ∀ k, k ≠ blk → find? k (t.clusterAt cl).cache = find? k (s.clusterAt cl).cache

/-! The front end (R115, R116, R206, R262, R263, R333 to R347). -/

/-- The running graph of the queue that acts is ready at a node whose record is readable and has no reserved field set. -/
def State.atNode (s : State) (r : GraphRun) (bs : List Byte) : Prop :=
  s.run = some r ∧ r.wait = .ready ∧ r.node < r.count ∧ s.nodeBytes s.fe.ctx r = .ok bs ∧ nodeReservedOk bs = true

/-- R345: the state once n bytes that the front end reads or writes at an address are counted, with the walk to them (log 44);
only tokens of meters differ. -/
def State.feCounted (s : State) (va n : Nat) : State := s.countAll s.fe.ctx (s.feCosts s.fe.ctx va n)
/-- The state once the record of a graph's node is read. -/
def State.nodeRead (s : State) (r : GraphRun) : State := s.feCounted (r.nodeAddr r.node) 32

/-- R339: the status record of a graph that ends: status, node, tag, flags, and the fault record, or zeros. -/
def statusBytes (status : Nat) (r : GraphRun) (fault : List Byte) : List Byte :=
  leBytes status 4 ++ leBytes r.node 4 ++ leBytes r.tag.toNat 8 ++ leBytes r.flag0.toNat 4 ++ List.replicate 12 0 ++ fault

/-- R339: t is u with the running graph r of a queue ended: its status record is performed, and then the job counter advances;
while the record cannot be written the graph waits with it, and the counter stays. -/
def State.endsGraph (u t : State) (ctx q status : Nat) (r : GraphRun) (fault : List Word) (bytes : List Byte) : Prop :=
  let x := u.queueAt ctx q; let y := t.queueAt ctx q; let record := statusBytes status r bytes
  (∀ v, u.writeOut ctx r.status.toNat record = some v → v.sameMemory t ∧ y.run = none ∧ y.completed = x.completed + 1) ∧
  (u.writeOut ctx r.status.toNat record = none → u.sameMemory t ∧ y.completed = x.completed ∧
    y.run = some { r with wait := .status, ending := some (status, fault) })

/-- R338: where the registers of the queues stand in BAR0, and what they read; the running graph takes a place of its queue
(log 59). -/
def Claims.QueueRegisters : Prop :=
  ∀ (s : State) (part k q reg : Nat), k < 64 → q < 4 → reg < 0x40 → let off := 0x1000 + 0x1000 * k + 0x40 * q + reg
    (s.windowCtx part k = none → s.barPlace part off = none ∧ s.barRead part off = 0) ∧
    ∀ ctx, s.windowCtx part k = some ctx → s.barPlace part off = some (ctx, q, reg) ∧
      (∃ c, (ctx, c) ∈ s.contexts ∧ c.part = part ∧ c.window = k) ∧ let x := s.queueAt ctx q
      let running := if x.run.isSome then 1 else 0
      (reg = 0x08 → s.barRead part off = wordOf (256 - (x.waiting.length + running))) ∧
      (reg = 0x10 → s.barRead part off = wordOf (x.overflow.toNat + 2 * x.badAddr.toNat + 4 * running)) ∧
      (reg = 0x18 → s.barRead part off = x.completed) ∧
      (reg ≠ 0x08 → reg ≠ 0x10 → reg ≠ 0x18 → s.barRead part off = 0)

/-- R338: a doorbell, which finds a queue full when its waiting graphs and the running one take 256 places (log 59), and a clear
of the status register. -/
def Claims.Doorbells : Prop :=
  (∀ (s : State) (part off : Nat) (addr : Word), s.req = some (.doorbell part off addr) → ∃ t, exec .doorbell s = .next t ∧
    (s.barQueue part off 0x00 = none → t = { s with req := none }) ∧
    (∀ ctx q, s.barQueue part off 0x00 = some (ctx, q) → t.req = none ∧ t.cores = s.cores ∧ s.sameMemory t ∧ t.fe = s.fe ∧
      let x := s.queueAt ctx q
      let full := decide (256 ≤ x.waiting.length + x.run.isSome.toNat)
      let bad := decide (addr.toNat % 64 ≠ 0 ∨ 2 ^ 48 ≤ addr.toNat)
      t.queueAt ctx q = { x with
        overflow := x.overflow || full, badAddr := x.badAddr || bad
        waiting := if full || bad then x.waiting else x.waiting ++ [addr.setWidth 48] } ∧
      ∀ c k, c ≠ ctx ∨ k ≠ q → t.queueAt c k = s.queueAt c k)) ∧
  (∀ (s : State) (part off : Nat) (b : BitVec 3), s.req = some (.queueStatusClear part off b) →
    ∃ t, exec .queueStatusClear s = .next t ∧ (s.barQueue part off 0x10 = none → t = { s with req := none }) ∧
    (∀ ctx q, s.barQueue part off 0x10 = some (ctx, q) → t.req = none ∧ t.cores = s.cores ∧ s.sameMemory t ∧
      let x := s.queueAt ctx q
      t.queueAt ctx q = { x with overflow := x.overflow && !b.getLsbD 0, badAddr := x.badAddr && !b.getLsbD 1 } ∧
      ∀ c k, c ≠ ctx ∨ k ≠ q → t.queueAt c k = s.queueAt c k))

/-- R262, R263, R333, R338, R339: cancelling a graph stops what its node does, its phase or its copy, which gets a record of a
cancelled copy, and ends the graph with status 2, once the record of its node has found its place in the ring; a graph that
ends already keeps its status. Cancelling a job empties the queue as well. Other queues stay. -/
def Claims.Cancels : Prop :=
  ∀ (s : State) (part off : Nat) (i : Instr) (job : Bool),
    (i = .cancelGraph ∧ job = false ∧ s.req = some (.cancelGraph part off)) ∨
      (i = .cancelJob ∧ job = true ∧ s.req = some (.cancelJob part off)) →
    let s0 : State := { s with req := none }
    (s.barQueue part off 0x20 = none → exec i s = .next s0) ∧
    ∀ ctx q, s.barQueue part off 0x20 = some (ctx, q) → ∃ t, exec i s = .next t ∧ t.req = none ∧
      (∀ c k, c ≠ ctx ∨ k ≠ q → t.queueAt c k = s.queueAt c k) ∧ let x := s.queueAt ctx q; let y := t.queueAt ctx q
      y.waiting = (if job then [] else x.waiting) ∧
      (x.run = none → y.run = none ∧ y.completed = x.completed ∧ t.cores = s.cores ∧ s.sameMemory t) ∧
      ∀ r, x.run = some r →
        let ends (u : State) : Prop := u.endsGraph t ctx q 2 r [] (List.replicate 32 0)
        let waits : Prop := y.completed = x.completed ∧ y.run = some { r with wait := .ring, ending := some (2, []) }
        (r.ending.isSome = true → y.run = some r ∧ y.completed = x.completed ∧ s.sameMemory t ∧ t.cores = s.cores) ∧
        (r.ending = none →
          (∀ id, r.wait = .phase id → find? id t.fe.phases = none ∧ ends (s0.cancelPhase id)) ∧
          (r.wait = .ready ∨ r.wait = .status ∨ (∃ a v, r.wait = .mem a v) ∨ (∃ n, r.wait = .tick n) →
            ends s0 ∧ t.cores = s.cores) ∧
          (r.wait = .ring → waits ∧ s.sameMemory t ∧ t.cores = s.cores) ∧
          (∀ w, r.wait = .copy → s.fe.transfers.filter (fun t => t.ctx == ctx && t.q == some q) = [w] →
            let others := s.fe.transfers.filter (fun t => !(t.ctx == ctx && t.q == some q))
            let s1 : State := { s0 with fe := { s.fe with transfers := others } }
            let record := leBytes 2 4 ++ [0] ++ List.replicate 3 0 ++ leBytes w.moved 8 ++ leBytes w.tag.toNat 8
            t.fe.transfers = others ∧ ((s.ctxAt ctx).ring = none → ends s1) ∧
            ∀ g, (s.ctxAt ctx).ring = some g →
              (g.full = true ∨ g.held ≠ [] ∨ s1.putRecord ctx g record = none → waits ∧
                (t.ctxAt ctx).ring = some { g with held := g.held ++ [(record, some q)] }) ∧
              (g.full = false → g.held = [] → ∀ v, s1.putRecord ctx g record = some v → ends v)))

/-- R262, R263: a host copy joins the transfers. A record stands in the ring at place prod modulo the count, with prod as its
number; it is performed, and prod advances, in memory too where the registration has put it there: the record is in the ring only
when prod is written as well (log 79). The vector that is signalled is one of the context's partition. -/
def Claims.CopyRequests : Prop :=
  (∀ (s : State) (c : CopyRequest), s.req = some (.hostCopy c) → exec .hostCopy s = .next { s with
    req := none, fe := { s.fe with transfers := s.fe.transfers ++ [⟨c.ctx, none, c.tag, c.dst, c.src, c.count, 0⟩] } }) ∧
  (∀ (s u v : State) (ctx : Nat) (r : Ring) (record : List Byte), s.writeOut ctx (r.base.toNat + 32 * (r.prod.toNat % max 1 r.count))
      (record ++ leBytes r.prod.toNat 4 ++ List.replicate 4 0) = some u → r.indices = none →
    s.putRecord ctx r record = some v → u.sameMemory v ∧ v.cores = u.cores ∧
      (v.ctxAt ctx).ring = some { r with prod := r.prod + 1 } ∧
      ∀ n, r.vector = some n → v.fe.msix = u.fe.msix ++ [((u.ctxAt ctx).part, n)]) ∧
  (∀ (s u : State) (ctx : Nat) (r : Ring) (record : List Byte) (a : Addr),
    s.writeOut ctx (r.base.toNat + 32 * (r.prod.toNat % max 1 r.count))
      (record ++ leBytes r.prod.toNat 4 ++ List.replicate 4 0) = some u → r.indices = some a →
    let w := u.modCtxAt ctx (fun c => { c with ring := some { r with prod := r.prod + 1 } })
    (w.writeOut ctx a.toNat (leBytes (r.prod + 1).toNat 4) = none → s.putRecord ctx r record = none) ∧
    ∀ x, w.writeOut ctx a.toNat (leBytes (r.prod + 1).toNat 4) = some x → ∃ v, s.putRecord ctx r record = some v ∧
      x.sameMemory v ∧ v.cores = s.cores ∧ (v.ctxAt ctx).ring = some { r with prod := r.prod + 1 })

/-- R263: the consumer count of a ring moves on, by a write of the host or by one in memory. Without a held record only the
count changes; while the ring is full nothing else does; a held record that fits is written, and its node goes on, or its graph
ends as it was to end. -/
def Claims.RingResumes : Prop :=
  ∀ (s : State) (ctx : Nat) (cons : BitVec 32), let s0 : State := { s with req := none }
    (s.req = some (.completionRingResume ctx cons) → (s.ctxAt ctx).ring = none → exec .completionRingResume s = .next s0) ∧
    (∀ r a, s.req = some (.completionRingResume ctx cons) → (s.ctxAt ctx).ring = some r → r.indices = some a →
      s0.writeVa ctx (a.toNat + 4) (leBytes cons.toNat 4) = none → exec .completionRingResume s = .next s0) ∧
    (∀ u r, (s.req = some (.completionRingResume ctx cons) ∧ ((r.indices = none ∧ u = s0) ∨
        ∃ a, r.indices = some a ∧ s0.writeVa ctx (a.toNat + 4) (leBytes cons.toNat 4) = some u)) ∨
        (s.req = none ∧ s.fe.ctx = ctx ∧ s.ringCons ctx r = cons ∧ u = s) →
      (s.ctxAt ctx).ring = some r → ∃ t, exec .completionRingResume s = .next t ∧ t.req = none ∧ t.cores = s.cores ∧
        let r' : Ring := { r with cons := cons }
        (r.held = [] ∨ r.count ≤ (r.prod - cons).toNat → u.sameMemory t ∧ (t.ctxAt ctx).ring = some r' ∧
          ∀ c k, t.queueAt c k = s.queueAt c k) ∧
        ∀ record who v, r.held = [(record, who)] → (r.prod - cons).toNat < r.count →
          (u.modCtxAt ctx (fun c => { c with ring := some r' })).putRecord ctx { r' with held := [] } record = some v →
          (who = none → v.sameMemory t ∧ ∀ c k, t.queueAt c k = s.queueAt c k) ∧
          ∀ q g, who = some q → (s.queueAt ctx q).run = some g → g.wait = .ring →
            (g.ending = none → v.sameMemory t ∧ (t.queueAt ctx q).run =
              some { g with wait := .ready, node := g.node + 1, done := g.done + 1 }) ∧
            (g.ending = some (2, []) → v.endsGraph t ctx q 2 g [] (List.replicate 32 0)))

/-- R203, R339, R341: a graph starts at node 0 with what its header says; a header that cannot be read, or whose status address
cannot be used, is dropped, with the bad-address bit set (one that fails ECC too, log 75); a page that moves is waited for
(log 46). -/
def Claims.GraphStarts : Prop :=
  ∀ (s : State) (h : Addr) (rest : List Addr), let ctx := s.fe.ctx; let q := s.fe.q; let x := s.queueAt ctx q
    let dropped (t : State) : Prop :=
      t.queueAt ctx q = { x with waiting := rest, badAddr := true, completed := x.completed + 1 }
    x.waiting = h :: rest → x.run = none →
    (s.fetchVa ctx h.toNat 32 = .pause → exec .graphStart s = .next s) ∧
    (∀ c, s.fetchVa ctx h.toNat 32 = .fault c → ∃ t, exec .graphStart s = .next t ∧ dropped t ∧
      (c ≠ 0x0D → t.cores = s.cores ∧ s.sameMemory t)) ∧
    (∀ bs, s.fetchVa ctx h.toNat 32 = .ok bs → let status := fieldAt bs 8 8; let count := fieldAt bs 0 4
      let u := s.feCounted h.toNat 32
      (status % 64 ≠ 0 ∨ 2 ^ 48 ≤ status → ∃ t, exec .graphStart s = .next t ∧ dropped t ∧ t.cores = s.cores ∧ s.sameMemory t) ∧
      (status % 64 = 0 → status < 2 ^ 48 → u.walk ctx status = .moving → exec .graphStart s = .next u) ∧
      ∀ p a, status % 64 = 0 → status < 2 ^ 48 → u.walk ctx status = .ok p →
        u.devAddr ctx ((physOf p status [0]).headD 0) = some a → 1 ≤ count → count ≤ 65536 →
        fieldAt bs 4 4 = 0 → fieldAt bs 24 8 = 0 → ∃ t, exec .graphStart s = .next t ∧ t.cores = s.cores ∧ s.sameMemory t ∧
        t.queueAt ctx q = { x with
          waiting := rest
          run := some (⟨h, count, BitVec.ofNat 48 status, wordOf (fieldAt bs 16 8), 0, [], false, .ready, false, 0, none⟩ :
            GraphRun) })

/-- R333, R341: what a conditional, a loop and a loop-end node make of the run, each a completed node more, and a node index
outside the graph. -/
def Claims.ControlNodes : Prop :=
  ∀ (s : State) (r : GraphRun) (bs : List Byte), s.atNode r bs → let a := fieldAt bs 16 4; let b := fieldAt bs 20 4
    let u := s.nodeRead r
    let goes (w : State) (g : GraphRun) (i : Nat) : State := w.setRun { g with node := i, wait := .ready, done := r.done + 1 }
    (∀ ws va, va = wordOf (fieldAt bs 8 8) → u.wordFinding u.fe.ctx .read va = .ok →
      u.fetchVa u.fe.ctx va.toNat 4 = .ok ws → let p : BitVec 32 := BitVec.ofNat 32 (leValue ws); let w := u.feCounted va.toNat 4
      (a < r.count → b < r.count → exec .condNode s = .next (goes w r (if p = 0 then b else a))) ∧
      (r.count ≤ a ∨ r.count ≤ b → exec .condNode s = .next (w.nodeFault r 0x06 0)) ∧
      let n := find 0 r.node r.iters;
        (b < r.count → p ≠ 0 → n ≠ a → exec .loopNode s =
          .next (goes w { r with iters := put r.node (n + 1) r.iters } (r.node + 1))) ∧
        (b < r.count → p = 0 ∨ n = a → exec .loopNode s = .next (goes w
          { r with iters := put r.node 0 r.iters, flag0 := r.flag0 || decide (p ≠ 0) } (b + 1))) ∧
        (r.count ≤ b → exec .loopNode s = .next (w.nodeFault r 0x06 0))) ∧
    (a < r.count → exec .loopEndNode s = .next (goes u r a)) ∧
    (r.count ≤ a → exec .loopEndNode s = .next (u.nodeFault r 0x06 0))

/-- R333, R339, R341: a wait node waits for a word or for ring time, and goes on once it has come; a signal node writes its word;
an end node ends the graph with status 0. -/
def Claims.WaitNodes : Prop :=
  (∀ (s : State) (r : GraphRun) (bs : List Byte), s.atNode r bs → let va := wordOf (fieldAt bs 8 8); let v := fieldAt bs 16 4
    let u := s.nodeRead r
    (fieldAt bs 1 1 = 1 → exec .waitNode s = .next (u.setRun { r with wait := .tick va })) ∧
    (∀ ws, fieldAt bs 1 1 = 0 → u.wordFinding u.fe.ctx .read va = .ok → u.fetchVa u.fe.ctx va.toNat 4 = .ok ws →
      exec .waitNode s = .next ((u.feCounted va.toNat 4).setRun { r with wait := .mem (va.setWidth 48) (BitVec.ofNat 32 v) })) ∧
    (∀ w, u.wordFinding u.fe.ctx .write va = .ok → u.writeVa u.fe.ctx va.toNat (leBytes v 4) = some w →
      exec .signalNode s =
        .next ((w.feCounted va.toNat 4).setRun { r with node := r.node + 1, wait := .ready, done := r.done + 1 })) ∧
    (∃ t, exec .endNode s = .next t ∧ t.cores = s.cores ∧
      u.endsGraph t s.fe.ctx s.fe.q 0 r [] (List.replicate 32 0))) ∧
  (∀ (s : State) (r : GraphRun), s.run = some r →
    let on (u : State) : State := u.setRun { r with node := r.node + 1, wait := .ready, done := r.done + 1 }
    (∀ a v bs, r.wait = .mem a v → s.fetchVa s.fe.ctx a.toNat 4 = .ok bs → exec .waitSatisfied s = .next (
      if BitVec.ofNat 32 (leValue bs) = v then on (s.feCounted a.toNat 4) else s)) ∧
    (∀ t, r.wait = .tick t → exec .waitSatisfied s = .next (if t.toNat ≤ s.ringTime then on s else s)))

/-- R262, R263, R341: a copy node starts a transfer that names graph and node; a transfer that completes leaves the list, and
its graph goes on once its record is in the ring: where the ring is full, or holds a record already, the record is held and the
graph waits. -/
def Claims.CopyNodes : Prop :=
  (∀ (s : State) (r : GraphRun) (bs : List Byte), s.atNode r bs → ∃ t, exec .copyNode s = .next t ∧
    t.run = some { r with wait := .copy } ∧ t.cores = s.cores ∧ s.sameMemory t ∧ t.fe = { s.fe with transfers :=
      s.fe.transfers ++ [⟨s.fe.ctx, some s.fe.q, wordOf (r.tag.toNat % 2 ^ 32 * 2 ^ 32 + r.node),
        wordOf (fieldAt bs 8 8), BitVec.ofNat 48 (fieldAt bs 16 6), fieldAt bs 24 8, 0⟩] }) ∧
  (∀ (s u : State) (x : Transfer) (n : Nat), s.readyTransfer = some x → x.far s = none →
    ({ s with fe := { s.fe with transfers := s.fe.transfers.erase x } } : State).moveBytes x.ctx x.addr x.src.toNat
      (x.count - x.moved) x.moved = (u, n, none) → ∃ t, exec .blockTransferComplete s = .next t ∧
      t.fe.transfers = s.fe.transfers.erase x ∧ t.cores = s.cores ∧
      let record := leBytes 0 4 ++ [0] ++ List.replicate 3 0 ++ leBytes n 8 ++ leBytes x.tag.toNat 8
      (∀ q r, x.q = some q → (s.queueAt x.ctx q).run = some r →
        ((s.ctxAt x.ctx).ring = none → u.sameMemory t ∧
          (t.queueAt x.ctx q).run = some { r with node := r.node + 1, wait := .ready, done := r.done + 1 }) ∧
        ∀ g, (s.ctxAt x.ctx).ring = some g → g.full = true ∨ g.held ≠ [] → u.sameMemory t ∧
          (t.ctxAt x.ctx).ring = some { g with held := g.held ++ [(record, x.q)] } ∧
          (t.queueAt x.ctx q).run = some { r with wait := .ring }))

/-- R335, R336, R341: a phase node whose mask and launch record pass their checks starts one launch on each die of the mask,
with the fields of the record and no task dispatched. -/
def Claims.PhaseNodes : Prop :=
  ∀ (s : State) (r : GraphRun) (bs lb : List Byte), s.atNode r bs → let ctx := s.fe.ctx; let va := wordOf (fieldAt bs 8 8)
    let mask : BitVec 8 := BitVec.ofNat 8 (fieldAt bs 16 1); let f (i n : Nat) : Nat := fieldAt lb i n
    let u := s.nodeRead r
    u.maskOk ctx mask = true → u.feFinding ctx .read va = .ok → u.readVa ctx va.toNat 64 = some lb →
    va.toNat % 64 = 0 → launchRecordOk lb = true →
    (f 22 1 = 1 → ∀ d, mask.getLsbD d = true → f 16 2 * f 18 2 * f 20 2 = (s.allocation ctx d).length) →
    ∃ t, exec .phaseNode s = .next t ∧ t.cores = s.cores ∧ s.sameMemory t ∧ let id := s.fe.nextId
      t.run = some { r with wait := .phase id } ∧ s.fe.nextId < t.fe.nextId ∧
      (∃ p, find? id t.fe.phases = some p ∧ p.ctx = ctx ∧ p.q = s.fe.q ∧ p.mask = mask ∧ p.start = none ∧
        p.timed = decide (f 22 1 = 1)) ∧
      ∀ d, d < 8 → mask.getLsbD d = true → ∃ l, find? (id + 1 + d) t.fe.launches = some l ∧ l.die = d ∧ l.phase = id ∧
        l.ctx = ctx ∧ l.cls = s.fe.q ∧ l.entry = BitVec.ofNat 48 (f 0 6) ∧ l.params = BitVec.ofNat 48 (f 8 6) ∧
        l.ex = f 16 2 ∧ l.ey = f 18 2 ∧ l.ez = f 20 2 ∧ l.cadence = f 28 4 ∧ l.bwin = BitVec.ofNat 32 (f 32 4) ∧
        l.next = 0 ∧ l.done = 0

/-- R41, R45, R115, R116, R193, R234, R319: what a task starts with, and that its launch goes on to the next tile. Blocks that
its cluster cached before are not hit any more, and the code of its program stands in instruction memory (here of one page and
without a segment table). A timed phase starts at the smallest multiple of 64 that leaves every die of it 1,024 ticks. -/
def Claims.TaskStarts : Prop :=
  (∀ (s : State) (core launch : Nat) (l : Launch), find? launch s.fe.launches = some l →
    ∃ t, exec (.taskDispatch core launch) s = .next t ∧ t.mem = s.mem ∧ t.keyTag = s.keyTag ∧ t.hostMem = s.hostMem ∧
      (∀ n, t.clusterAt n = { s.clusterAt n with tlb := (t.clusterAt n).tlb }) ∧ s.onlyCounts t ∧
      find? launch t.fe.launches = some { l with next := l.next + 1 } ∧ (∀ n, n ≠ core → t.coreAt n = s.coreAt n) ∧
      let c := t.coreAt core
      c.task.status = .running ∧ c.task.launch = l.id ∧ c.task.tile = l.next ∧ c.task.start = 0 ∧
      c.task.leave = l.timed ∧ c.flow.goto = some l.entry ∧ c.flow.pend = [] ∧ c.loops.order = [] ∧ c.flow.xfers = [] ∧
      c.mem.refill = (s.clusterAt (core / 8)).stamp ∧
      (∀ n, c.regs.readA n = 0 ∧ find 0 n c.regs.v = 0 ∧ find 0 n c.regs.csr =
        (if n = 0x004 then l.bwin.setWidth 64 else if n = 0x006 then l.params.setWidth 64
         else if n = 0x005 then wordOf (l.next % l.ex + 2 ^ 16 * (l.next / l.ex % l.ey) + 2 ^ 32 * (l.next / (l.ex * l.ey)))
         else if n < 0x100 then 0 else find 0 n (s.coreAt core).regs.csr)) ∧ c.regs.vflags = 0 ∧ c.regs.rb = 0 ∧
      ∀ (p : Program) (a : Addr) (u : State) (pos : Pos) (bs : List Bundle), (s.ctxAt l.ctx).programAt l.entry = some p →
        p.segCount = 0 → p.pages = [(a, 1)] → s.enter core a = (u, .ok pos) → u.codeOf core pos.ver = .ok bs →
        pos.ver ∈ c.mem.resident ∧ ∀ j b, bs[j]? = some b → c.mem.bundleAt ⟨pos.ver, j⟩ = b) ∧
  (∀ (s : State) (phase : Nat) (p : Phase), find? phase s.fe.phases = some p → ∃ t S,
    exec (.timedPhaseStart phase) s = .next t ∧ S % 64 = 0 ∧
    find? phase t.fe.phases = some { p with start := some S } ∧
    (∀ d, d < 8 → p.mask.getLsbD d = true → s.ringEstimate d + 1024 ≤ S) ∧
    (∀ S', p.mask ≠ 0 → S' % 64 = 0 → (∀ d, d < 8 → p.mask.getLsbD d = true → s.ringEstimate d + 1024 ≤ S') → S ≤ S') ∧
    ∀ x ∈ s.launchesOf phase, ∀ n ∈ s.allocation p.ctx x.2.die,
      (t.coreAt n).task.start = wordOf S ∧ (t.coreAt n).task.status = .running)

/-- R343, R344: a core is reserved, and other waiting phases hold none of its cores; a phase that has all its cores asks for
leave; leave that is granted moves from the requests to what is held, and reaches its owner. -/
def Claims.Leaves : Prop :=
  (∀ (s : State) (core launch : Nat) (l : Launch), find? launch s.fe.launches = some l →
    ∃ t, exec (.timedLaunchReservation core launch) s = .next t ∧ t.cores = s.cores ∧ s.sameMemory t ∧
      find? launch t.fe.launches = some { l with
        reserved := if l.reserved.contains core then l.reserved else l.reserved ++ [core] } ∧
      (∀ id x, find? id t.fe.launches = some x → x.phase ≠ l.phase → ∀ d, d < 8 → ∀ n ∈ s.allocation l.ctx d, n ∉ x.reserved) ∧
      (t.gov = s.gov ∨ ∃ w p, t.gov = { s.gov with waiting := s.gov.waiting ++ [w] } ∧ w.owner = .phase p.id ∧
        w.timed = true ∧ find? l.phase s.fe.phases = some p ∧ find? p.id t.fe.phases = some { p with asked := true })) ∧
  (∀ (s : State) (r : LeaveRequest), s.gov.next = some r → s.gov.trip = false ∧
    s.gov.draw + (s.gov.held.map (fun x => x.milliwatts)).sum + r.milliwatts ≤ 3600000 ∧ r ∈ s.gov.waiting ∧
    ∃ t, exec .leaveGrant s = .next t ∧ s.sameMemory t ∧
      t.gov = { s.gov with held := s.gov.held ++ [r], waiting := s.gov.waiting.erase r } ∧
      (∀ n, r.owner = .core n → (t.coreAt n).task = { (s.coreAt n).task with leave := true, leaveAsked := false }) ∧
      (∀ id p, r.owner = .phase id → find? id s.fe.phases = some p → find? id t.fe.phases = some { p with granted := true }))

/-- R52, R95, R116, R333, R334, R339: the end of a task, of a phase, and a fault: the core is free, its leave comes back and its
levels end; the last task of a phase lets the graph go on; a fault ends the phase, and its graph with status 1 and the record. Of
faults found in one tick that of the lowest core counts, those that a phase keeps among them (R334). -/
def Claims.TaskEnds : Prop :=
  (∀ (s : State) (l : Launch), s.complete s.cur = true → find? s.core.task.launch s.fe.launches = some l →
    ∃ t u : State, exec .taskComplete s = .next t ∧ t = u.phaseOver l.phase ∧ u.core.task = Task.none ∧ u.core.regs = s.core.regs ∧
      u.core.loops.order = [] ∧ (∀ n, (u.core.loops.level n).active = false) ∧
      find? s.core.task.launch u.fe.launches = some { l with done := l.done + 1 } ∧ s.sameMemory t ∧
      ∀ r ∈ u.gov.held, r.owner ≠ .core s.cur) ∧
  (∀ (s : State) (id : Nat) (p : Phase) (r : GraphRun), find? id s.fe.phases = some p →
    (∀ x ∈ s.launchesOf id, x.2.ex * x.2.ey * x.2.ez ≤ x.2.done) → (s.queueAt p.ctx p.q).run = some r → r.wait = .phase id →
    let t := s.phaseOver id
    (t.queueAt p.ctx p.q).run = some { r with node := r.node + 1, wait := .ready, done := r.done + 1 } ∧
    find? id t.fe.phases = none ∧ (∀ x ∈ t.fe.launches, x.2.phase ≠ id) ∧ s.sameMemory t) ∧
  (∀ (s : State) (l : Launch) (p : Phase) (r : GraphRun), s.core.task.status = .faulted → s.core.flow.finding = none →
    find? s.core.task.launch s.fe.launches = some l → find? l.phase s.fe.phases = some p →
    (s.queueAt p.ctx p.q).run = some r → r.wait = .phase l.phase →
    (∀ x ∈ s.fe.phases, ∀ k, x.2.fault = some k → s.cur ≤ recordCore k) →
    let record := (List.range 4).map (fun i => find 0 i s.core.flight.fault)
    ∃ t u, exec .faultReport s = .next t ∧ s.sameMemory u ∧ u.queueAt p.ctx p.q = s.queueAt p.ctx p.q ∧
      u.endsGraph t p.ctx p.q 1 r record (record.flatMap (fun (w : Word) => leBytes w.toNat 8)) ∧
      (t.ctxAt p.ctx).lastFault = record ∧
      find? l.phase t.fe.phases = none ∧ t.core.task = Task.none ∧ ∀ x ∈ t.gov.held, x.owner ≠ .core s.cur) ∧
  (∀ (s : State) (id : Nat) (p : Phase) (k : List Word) (r : GraphRun), (id, p) ∈ s.fe.phases → find? id s.fe.phases = some p →
    p.fault = some k → k.length = 4 →
    (∀ x ∈ s.fe.phases, ∀ k', x.2.fault = some k' → x = (id, p) ∨ recordCore k < recordCore k') →
    recordCore k < s.cur ∨ (s.core.task.status ≠ .faulted ∧ s.core.flow.finding = none) →
    (s.queueAt p.ctx p.q).run = some r → r.wait = .phase id →
    ∃ t u, exec .faultReport s = .next t ∧ s.sameMemory u ∧ u.queueAt p.ctx p.q = s.queueAt p.ctx p.q ∧
      u.endsGraph t p.ctx p.q 1 r k (k.flatMap (fun (w : Word) => leBytes w.toNat 8)) ∧
      (t.ctxAt p.ctx).lastFault = k ∧ find? id t.fe.phases = none)

/-- R206, R284, R286, R345: a cluster that passes to a context writes its dirty blocks back, as far as meters let them go, and is
not passed on before none is left. Its banks are then cleared and in cache mode, unless banks saved for a task of that context are
due there: those come back with their modes and bytes. For each launch whose pre-empted tasks have left the cluster the banks in
scratchpad and FIFO mode are saved (log 64). Its cores have the new context's registers and no code of another (log 45). -/
def Claims.ContextChanges : Prop :=
  ∀ (s : State), let cl := clusterOf s.cur; let w := s.flushOpen whoFrontEnd cl
    ((w.clusterAt cl).allDirty ≠ [] → exec .contextChange s = .next w) ∧
    (s.bad = [] → (w.clusterAt cl).allDirty = [] → ∃ t, exec .contextChange s = .next t ∧ let ctx := s.fe.ctx
    let c := w.clusterAt cl; let c' := t.clusterAt cl
    c'.ctx = some ctx ∧ c'.cache = [] ∧
    ((∀ b ∈ s.fe.banks, b.cluster = cl → b.ctx = ctx → b.due = false) → c'.sram = [] ∧ ∀ b, c'.mode b = .cache) ∧
    (∀ b, s.fe.banks.filter (fun b => b.due && b.ctx == ctx && b.cluster == cl) = [b] →
      b.sram.wf = true → (b.modes.map (fun m => m.1)).Nodup → (∀ a, readByte c'.sram a = readByte b.sram a) ∧
      ∀ m ∈ b.modes, c'.mode m.1 = m.2) ∧
    (∀ old p, c.ctx = some old → p ∈ s.fe.preempted → p.ctx = old → clusterOf p.core = cl →
      (∀ n ∈ clusterCores cl, (s.coreAt n).task.status = .idle ∨ (s.coreAt n).task.launch ≠ p.task.launch) →
      (∀ b ∈ s.fe.banks, b.ctx ≠ old ∨ b.launch ≠ p.task.launch ∨ b.cluster ≠ cl) →
      let modes := c.modes.filter (fun m => m.2 != .cache)
      ⟨old, p.task.launch, cl, modes, c.sram.filter (fun x => modes.any (fun m => m.1 == x.1 / 2 ^ 19)), false⟩ ∈ t.fe.banks) ∧
    (∀ n, n ∈ clusterCores cl → let c := t.coreAt n
      find 0 0x100 c.regs.csr = (s.ctxAt ctx).feat.setWidth 64 ∧ find 0 0x101 c.regs.csr = (s.ctxAt ctx).safebound.setWidth 64 ∧
      bits (find 0 0x102 c.regs.csr) 11 0 = ctx % 4096 ∧ c.mem.code = [] ∧ c.mem.segCount = 0 ∧
      c.regs.a = (s.coreAt n).regs.a ∧ c.task = (s.coreAt n).task) ∧
    ∀ n, n ∉ clusterCores cl → t.coreAt n = s.coreAt n)

/-- R16, R345: a thermal trip stops the grants and asks for a lower clock (which point, and that the end of the trip goes back to point 0, is
the model's choice), and no die is tripped when grants go on;
a refill adds the rate to each metered resource, up to its burst. -/
def Claims.TripsAndMeters : Prop :=
  (∀ (s : State) (d : Nat), s.req = some (.thermalTrip d) → ∃ t, exec .thermalTrip s = .next t ∧ t.req = none ∧
    t.cores = s.cores ∧ s.sameMemory t ∧ (t.dieAt d).trip = true ∧ t.gov = { s.gov with trip := true } ∧
    t.gov.next = none ∧ t.mgmt.requests = s.mgmt.requests ++ [.clock d 1]) ∧
  (∀ (s : State) (d : Nat), s.req = some (.thermalTripClear d) → ∃ t, exec .thermalTripClear s = .next t ∧ t.req = none ∧
    t.cores = s.cores ∧ s.sameMemory t ∧ (t.dieAt d).trip = false ∧ t.gov.held = s.gov.held ∧
    (t.gov.trip = false ↔ ∀ k, k < 13 → (t.dieAt k).trip = false) ∧ t.mgmt.requests = s.mgmt.requests ++ [.clock d 0]) ∧
  (∀ (s : State), ∃ t, exec .meterRefill s = .next t ∧ t.cores = s.cores ∧ s.sameMemory t ∧
    ∀ ctx c res m, find? ctx s.contexts = some c → find? res c.meters = some m →
      find? res (t.ctxAt ctx).meters = some (if m.rate = 0 then m else
        { m with tokens := min (m.burst : Int) (m.tokens + (m.rate : Int)) }))

/-! Management (R17 to R20, R199, R201, R206, R239, R273, R307, R310, R329, R345, R353 to R355). -/

/-- R353: a command that ends leaves its result in bytes 4 to 7 of its block, and the mailbox is free; nothing else but the
command's own effect has changed, which is the step from s to u. -/
def CommandEnds (u t : State) (code : Nat) : Prop :=
  t = { u with hostMem := t.hostMem, mgmt := { u.mgmt with busy := false, cmd := none, result := code } } ∧
  readBytes t.hostMem (u.mgmt.block.toNat + 4) 4 = leBytes code 4 ∧
  ∀ a, a < u.mgmt.block.toNat + 4 ∨ u.mgmt.block.toNat + 8 ≤ a → readByte t.hostMem a = readByte u.hostMem a

/-- R346, R353, R354: `CAPS` and `SUMMARY` write their table to the buffer, or end with result 4 where it does not fit; in the
table of capabilities every unit that is there belongs to exactly one run, with its owner. -/
def Claims.Tables : Prop :=
  (∀ (s : State) (i : Instr) (buf size : Nat) (bs : List Byte),
    (i = .caps ∧ s.mgmt.cmd = some (.caps buf size) ∧ bs = s.capTable) ∨
      (i = .summary ∧ s.mgmt.cmd = some (.summary buf size) ∧ bs = s.snapshot) →
    ∃ t u, exec i s = .next t ∧ CommandEnds u t (if size < bs.length then 4 else 0) ∧
      (size < bs.length → u = s) ∧ (bs.length ≤ size → u = { s with hostMem := u.hostMem } ∧
        (∀ n, n < bs.length → bs[n]? = some (readByte u.hostMem (buf + n))) ∧
        ∀ a, a < buf ∨ buf + bs.length ≤ a → readByte u.hostMem a = readByte s.hostMem a)) ∧
  (∀ (s : State) (ty i : Nat) (x : Nat × Bool), 1 ≤ ty → ty ≤ 9 → i < capCount ty → s.capUnit ty i = some x →
    ∃ r ∈ s.capRuns ty, (r.first ≤ i ∧ i < r.first + r.count ∧ r.type = ty ∧ r.owner = x.1 ∧ r.fenced = x.2) ∧
      ∀ r' ∈ s.capRuns ty, r'.first ≤ i → i < r'.first + r'.count → r' = r) ∧
  (∀ (s : State) (ty i : Nat) (r : CapRun), r ∈ s.capRuns ty → r.first ≤ i → i < r.first + r.count →
    i < capCount ty ∧ s.capUnit ty i = some (r.owner, r.fenced))

/-- R17, R355: what the partition commands do, and their results; where a cause of more than one stands, 3, 5, 2 and 1 come in this
order (log 32). Nothing changes unless the result is 0. A partition may hold no way (log 95); lines of ways that are taken from
one go (log 88). The end of a partition waits until the status records of its graphs are written, and the command with it. -/
def Claims.PartitionCommands : Prop :=
  (∀ (s : State) (part : Nat) (r : Resources), s.mgmt.cmd = some (.pcreate part r) →
    let code := if 64 ≤ part ∨ Resources.granular r = false then 3 else if s.namesFenced r = true then 5
      else if (find? part s.mgmt.partitions).isSome = true ∨ s.allFree r = false then 2 else 0
    ∃ t u, exec .pcreate s = .next t ∧ CommandEnds u t code ∧
      u = (if code = 0 then { s with mgmt := { s.mgmt with partitions := put part r s.mgmt.partitions } } else s)) ∧
  (∀ (s : State) (part : Nat) (more less : Resources), s.mgmt.cmd = some (.presize part more less) →
    (find? part s.mgmt.partitions = none → ∃ t, exec .presize s = .next t ∧ CommandEnds s t 3) ∧
    ∀ r, find? part s.mgmt.partitions = some r → let new := Resources.change r more less
      let code := if Resources.granular new = false ∨ Resources.covers r less = false then 3 else if s.namesFenced more = true then 5
        else if s.allFree more = false then 2 else if s.partInUse part less = true then 1 else 0
      ∃ t u, exec .presize s = .next t ∧ CommandEnds u t code ∧
        u = (if code = 0 then { s with l2 := u.l2, mgmt := { s.mgmt with partitions := put part new s.mgmt.partitions } } else s) ∧
        (less.ways = [] → u.l2 = s.l2) ∧ ∀ x ∈ u.l2, x ∈ s.l2) ∧
  (∀ (s : State) (part : Nat), s.mgmt.cmd = some (.pdestroy part) →
    (find? part s.mgmt.partitions = none → ∃ t, exec .pdestroy s = .next t ∧ CommandEnds s t 3) ∧
    ((find? part s.mgmt.partitions).isSome = true → ∃ t, exec .pdestroy s = .next t ∧
      (t.ctxsOf part = [] → t.mgmt.result = 0 ∧ t.mgmt.busy = false ∧ find? part t.mgmt.partitions = none ∧
        ∀ k, k ≠ part → find? k t.mgmt.partitions = find? k s.mgmt.partitions) ∧
      (t.ctxsOf part ≠ [] → t.mgmt.cmd = s.mgmt.cmd ∧ t.mgmt.busy = s.mgmt.busy ∧ t.mgmt.partitions = s.mgmt.partitions ∧
        ∀ e ∈ t.ctxsOf part, e.1 ∈ t.mgmt.leaving) ∧
      ((∀ e ∈ s.contexts, e.2.part = part → ∀ x ∈ (s.ctxAt e.1).queues, x.2.run = none) → t.ctxsOf part = [] ∧
        ∀ k c, find? k s.contexts = some c → (c.part = part → find? k t.contexts = none) ∧
          ((∀ e ∈ s.contexts, e.1 = k → e.2.part ≠ part) → find? k t.contexts = some c))))

/-- R342, R345, R353: the commands that set a share, a meter, a link width and a clock; the last two wait for the tick. The
numbers of links and widths are the model's (log 34), and so is what tokens a new meter begins with (log 23). -/
def Claims.SettingCommands : Prop :=
  (∀ (s : State) (ctx w : Nat), s.mgmt.cmd = some (.share ctx w) → let ok := s.hasCtx ctx = true ∧ 1 ≤ w ∧ w ≤ 255
    (ok → ∃ t, exec .share s = .next t ∧ CommandEnds (s.modCtxAt ctx (fun c => { c with share := w })) t 0) ∧
    (¬ok → ∃ t, exec .share s = .next t ∧ CommandEnds s t 3)) ∧
  (∀ (s : State) (ctx res rate burst : Nat), s.mgmt.cmd = some (.meter ctx res rate burst) →
    (s.hasCtx ctx = true → res < 6 → ∃ t u, exec .meter s = .next t ∧ CommandEnds u t 0 ∧ u.cores = s.cores ∧ s.sameMemory u ∧
      ∃ m, find? res (u.ctxAt ctx).meters = some m ∧ m.rate = rate ∧ m.burst = burst ∧
        m.tokens = (find Meter.off res (s.ctxAt ctx).meters).tokens ∧
        m.held = (find Meter.off res (s.ctxAt ctx).meters).held) ∧
    (s.hasCtx ctx = false ∨ 6 ≤ res → ∃ t, exec .meter s = .next t ∧ CommandEnds s t 3)) ∧
  (∀ (s : State) (link w : Nat), s.mgmt.cmd = some (.linkw link w) → (∀ d, (s.dieAt d).fenced = false) →
    (link < 32 → 1 ≤ w → w ≤ 16 → ∃ t, exec .linkw s = .next t ∧
      CommandEnds { s with mgmt := { s.mgmt with requests := s.mgmt.requests ++ [.width link w] } } t 0) ∧
    (32 ≤ link ∨ w = 0 ∨ 16 < w → ∃ t, exec .linkw s = .next t ∧ CommandEnds s t 3)) ∧
  (∀ (s : State) (die point : Nat), s.mgmt.cmd = some (.setclk die point) → ∃ t u, exec .setclk s = .next t ∧
    let code := if 13 ≤ die then 3 else if (s.dieAt die).fenced = true then 5 else 0
    CommandEnds u t code ∧
      u = if code = 0 then { s with mgmt := { s.mgmt with requests := s.mgmt.requests ++ [.clock die point] } } else s)

/-- R329: at the management tick the last change asked for of each link and clock is made where no timed phase uses it; the
others wait. An emergency reduction is made at once, and a timed phase that uses the link ends. -/
def Claims.LinkChanges : Prop :=
  (∀ (s : State), ∃ t, exec .managementTick s = .next t ∧ t.cores = s.cores ∧ s.sameMemory t ∧ t.mgmt.requests = [] ∧
    let l := s.mgmt.deferred ++ s.mgmt.requests
    (∀ r, r ∈ t.mgmt.deferred ↔ r ∈ l ∧ s.mustDefer r = true) ∧
    (∀ a b link w, l = a ++ .width link w :: b → (∀ w', LinkRequest.width link w' ∉ b) →
      s.mustDefer (.width link w) = false → find? link t.mgmt.widths = some w) ∧
    (∀ a b die p, l = a ++ .clock die p :: b → (∀ p', LinkRequest.clock die p' ∉ b) →
      s.mustDefer (.clock die p) = false → (t.dieAt die).point = p)) ∧
  (∀ (s : State) (link w : Nat), s.req = some (.emergencyWidthReduction link w) → s.mgmt.deferred = [] →
    ∃ t, exec .emergencyWidthReduction s = .next t ∧ t.req = none ∧ find? link t.mgmt.widths = some w ∧
      ∀ p ∈ s.timedRunning, p.usesLink link = true → find? p.id t.fe.phases = none)

/-- R353: the command that a block holds: the opcode stands in bytes 0 to 3, the arguments from byte 8 on. The form of the
arguments is the model's (log 15): numbers of 8 bytes; a partition's resources as six entries of 8 bytes from byte 16, each
with a type, a mark for what is to be removed, a count and a first unit. -/
def Claims.CommandBlocks : Prop :=
  ∀ bs : List Byte, let op := leValue (bs.take 4)
    let arg (i : Nat) : Nat := leValue ((bs.drop (8 + 8 * i)).take 8)
    let lists := resourceLists ((List.range 6).map (fun i => (bs.drop (16 + 8 * i)).take 8))
    (op = 1 → commandOf bs = .caps (arg 0) (arg 1)) ∧ (op = 2 → commandOf bs = .summary (arg 0) (arg 1)) ∧
    (op = 5 → commandOf bs = .pdestroy (arg 0)) ∧ (op = 6 → commandOf bs = .linkw (arg 0) (arg 1)) ∧
    (op = 7 → commandOf bs = .setclk (arg 0) (arg 1)) ∧
    (op = 8 → commandOf bs = .meter (arg 0) (arg 1) (arg 2) (arg 3)) ∧ (op = 9 → commandOf bs = .share (arg 0) (arg 1)) ∧
    (op = 0 ∨ 9 < op → commandOf bs = .other) ∧
    (∀ r, op = 3 → lists = some (r, noResources) → commandOf bs = .pcreate (arg 0) r) ∧
    (∀ more less, op = 4 → lists = some (more, less) → commandOf bs = .presize (arg 0) more less) ∧
    ∀ (e : List Byte) (rest : List (List Byte)) (p : Resources × Resources), resourceLists rest = some p → e.length = 8 →
      let kind := leValue (e.take 1); let n := leValue ((e.drop 2).take 2); let first := leValue ((e.drop 4).take 4)
      let units := (List.range n).map (fun i => first + i)
      let into (r : Resources) : Resources :=
        ⟨if kind = 1 then r.dies ++ units else r.dies, if kind = 2 then r.clusters ++ units else r.clusters,
          if kind = 3 then r.sets ++ units else r.sets, if kind = 4 then r.ways ++ units else r.ways,
          if kind = 5 then r.keys ++ units else r.keys, if kind = 7 then r.fabricPorts ++ units else r.fabricPorts,
          if kind = 8 then r.ethPorts ++ units else r.ethPorts⟩
      resourceLists (e :: rest) = if kind = 6 ∨ 8 < kind then none
        else if leValue ((e.drop 1).take 1) % 2 = 1 then some (p.1, into p.2) else some (into p.1, p.2)

/-- R43, R273, R338, R353: registers written from outside. The mailbox takes the command of the block in host memory only while
it is free and the address is aligned; a block with an unknown opcode ends at once with result 3; a write to the BAR that
reaches no register is discarded. A soft error waits for a read or is corrected and counted (R207), and the sensors' draw is kept
(R344): that these come in as register writes is the model's choice (logs 75, 78). -/
def Claims.RegisterWrites : Prop :=
  ∀ (s : State) (r : HostReg) (x : Word), s.req = some (.registerWrite r x) → let u : State := { s with req := none }
    (r = .mailbox → s.mgmt.busy = true ∨ x.toNat % 64 ≠ 0 ∨ 2 ^ 48 ≤ x.toNat → exec .registerWrite s = .next u) ∧
    (r = .mailbox → s.mgmt.busy = false → x.toNat % 64 = 0 → x.toNat < 2 ^ 48 →
      let c := commandOf (readBytes s.hostMem x.toNat 64)
      let v : State := { u with mgmt := { s.mgmt with busy := true, block := x.setWidth 48, cmd := some c } }
      (c ≠ .other → exec .registerWrite s = .next v) ∧
      (c = .other → ∃ t, exec .registerWrite s = .next t ∧ CommandEnds v t 3)) ∧
    (∀ part off, r = .bar part off → exec .registerWrite s = .next u) ∧
    (∀ p, r = .softError p → exec .registerWrite s = .next (if x = 0
      then u.modDieAt (softDie p) (fun d => { d with corrected := d.corrected + 1 })
      else { u with bad := p :: s.bad.filter (· != p) })) ∧
    (r = .draw → exec .registerWrite s = .next { u with gov := { s.gov with draw := x.toNat } }) ∧
    (∀ core num, r = .control core num → csrValueLegal num.toNat x = false → exec .registerWrite s = .next u) ∧
    (∀ core num, r = .control core num → csrValueLegal num.toNat x = true →
      exec .registerWrite s = .next (u.modCoreAt core (fun c => c.writeCsr num.toNat x))) ∧
    (∀ core k, r = .fwText core (8 * k) → k < 2048 → ∃ t, exec .registerWrite s = .next t ∧ t.req = none ∧ s.sameMemory t ∧
      (t.coreAt core).regs = (s.coreAt core).regs ∧ ∀ j i, i < 4 →
        (find 0 j (t.coreAt core).fw.text).extractLsb' (64 * i) 64 =
          if k = 4 * j + i then x else (find 0 j (s.coreAt core).fw.text).extractLsb' (64 * i) 64) ∧
    (∀ a, r = .hostWord a → ∃ t, exec .registerWrite s = .next t ∧ t = { u with hostMem := t.hostMem } ∧
      readBytes t.hostMem a 8 = leBytes x.toNat 8 ∧
      ∀ b, b < a ∨ a + 8 ≤ b → readByte t.hostMem b = readByte s.hostMem b)

/-- R199, R206, R263, R303, R338, R339, R342: a context is created with the smallest free window, the key generation of its slot,
its programs with their segment tables, its completion ring, its queues registered with their vectors, and no table and
credits; its share is 1 where none is given, and its vectors are among the 64 of its virtual function (R332). A request with a ring
or a segment table that is none is refused (logs 40, 48). Its end drops all of that, and the keys of its slot are new ones from
then on; a context some of whose graphs have still a record to write is leaving, and goes when that is done. -/
def Claims.ContextLife : Prop :=
  (∀ (s : State) (r : CtxRequest) (p : Resources) (w : Nat), s.req = some (.contextCreation r) →
    find? r.part s.mgmt.partitions = some p → s.freeWindow r.part = some w → s.hasCtx r.ctx = false → r.ctx < 4096 →
    r.key.toNat ∈ p.keys → (∀ x, r.share = some x → 1 ≤ x ∧ x ≤ 255) → (∀ x ∈ r.vectors, x.2 < 64) →
    (∀ x v, r.ring = some x → x.vector = some v → v < 64) → (∀ x, r.ring = some x → x.base.toNat % 32 = 0 ∧ (∃ i, 4 ≤ i ∧ i ≤ 16 ∧ x.count = 2 ^ i) ∧ ∀ a, x.indices = some a → a.toNat % 8 = 0) →
    (∀ x ∈ r.programs, x.segCount = 0 ∨ x.segCount ≤ 256 ∧ x.segAddr.toNat % 64 = 0) → ∃ t, exec .contextCreation s = .next t ∧ t.req = none ∧
      t.cores = s.cores ∧ s.sameMemory t ∧ (∀ k, k ≠ r.ctx → find? k t.contexts = find? k s.contexts) ∧ let c := t.ctxAt r.ctx
      t.hasCtx r.ctx = true ∧ c.part = r.part ∧ c.key = r.key ∧ c.keyGen = find 0 r.key.toNat s.mgmt.keyGen ∧
      c.seed = r.seed ∧ c.root = r.root ∧ c.window = w ∧ c.share = r.share.getD 1 ∧ c.feat = r.feat ∧ c.safebound = r.safebound ∧
      c.programs = r.programs ∧ c.btab = [] ∧ c.retain = [] ∧ c.meters = [] ∧
      c.ring = r.ring.map (fun x => ⟨x.base, x.count, x.vector, x.indices, 0, 0, []⟩) ∧
      (∀ q, ∃ v, find Queue.empty q c.queues = { Queue.empty with vector := v } ∧
        ((4 ≤ q ∨ ∀ w, (q, w) ∉ r.vectors) → v = none) ∧
        ∀ a b w, q < 4 → r.vectors = a ++ (q, w) :: b → (∀ w', (q, w') ∉ b) → v = some w) ∧
      ∀ d q, d < 8 → q < 4 → find 0 (4 * r.ctx + q) (t.dieAt d).credit = 0) ∧
  (∀ (s : State) (r : CtxRequest), s.req = some (.contextCreation r) → s.hasCtx r.ctx = true ∨ 4096 ≤ r.ctx ∨
    (∃ x, r.share = some x ∧ (x = 0 ∨ 256 ≤ x)) ∨ (∃ x ∈ r.vectors, 64 ≤ x.2) ∨
    (∃ x v, r.ring = some x ∧ x.vector = some v ∧ 64 ≤ v) ∨ (∃ x, r.ring = some x ∧ (x.base.toNat % 32 ≠ 0 ∨ x.count < 16 ∨ 65536 < x.count)) ∨
    (∃ x ∈ r.programs, 256 < x.segCount ∨ (x.segCount ≠ 0 ∧ x.segAddr.toNat % 64 ≠ 0)) →
    exec .contextCreation s = .next { s with req := none }) ∧
  (∀ (s : State) (part w : Nat), s.freeWindow part = some w → w < 64 ∧ (∀ c ∈ s.ctxsOf part, c.2.window ≠ w) ∧
    ∀ k, k < w → ∃ c ∈ s.ctxsOf part, c.2.window = k) ∧
  (∀ (s : State) (ctx : Nat), s.req = some (.contextDestruction ctx) → s.hasCtx ctx = true →
    ∃ t, exec .contextDestruction s = .next t ∧ t.req = none ∧ (∀ k, k ≠ ctx → find? k t.contexts = find? k s.contexts) ∧
      (t.hasCtx ctx = true → ctx ∈ t.mgmt.leaving ∧ t.mgmt.keyGen = s.mgmt.keyGen ∧ ∃ x ∈ (t.ctxAt ctx).queues, x.2.run.isSome) ∧
      ((∀ x ∈ (s.ctxAt ctx).queues, x.2.run = none) → t.hasCtx ctx = false) ∧
      (t.hasCtx ctx = false → ctx ∉ t.mgmt.leaving ∧ (∀ m ∈ t.migrations, m.ctx ≠ ctx) ∧
      (∀ m ∈ t.mapxCalls, m.ctx ≠ ctx) ∧ (∀ x ∈ t.fe.preempted, x.ctx ≠ ctx) ∧ (∀ b ∈ t.fe.banks, b.ctx ≠ ctx) ∧
      (∀ x ∈ t.fe.transfers, x.ctx ≠ ctx) ∧ (∀ slot, slot = (s.ctxAt ctx).key.toNat → find 0 slot t.mgmt.keyGen = find 0 slot s.mgmt.keyGen + 1) ∧
      ∀ cl, (∀ e ∈ (t.clusterAt cl).tlb, e.ctx ≠ ctx) ∧ ((s.clusterAt cl).ctx = some ctx →
        (t.clusterAt cl).sram = [] ∧ (t.clusterAt cl).cache = [] ∧ (t.clusterAt cl).ctx = none)))

/-- R201, R203, R239: the steps of a migration: the page is marked as moving, its old home is drained, the bytes of every
replica are copied, and the new frame stands in the entry; accesses still queued for the old frames are translated again. That the
control OS takes these four steps is the model's (log 28). -/
def Claims.Migrations : Prop :=
  ∀ (s : State) (ctx : Nat) (page frame : Addr) (stage : BitVec 2), s.req = some (.pageMigration ctx page frame stage) →
    let u : State := { s with req := none }
    (stage = 0 → s.migration ctx page = none → ∀ a e size, u.leafEntry ctx page.toNat = some (a, e, size) →
      e.getLsbD 8 = false → ∃ t, exec .pageMigration s = .next t ∧
        t.mem = (u.writePhys64 ctx a (e ||| 0x100)).mem ∧
        t.migrations = s.migrations ++ [⟨ctx, page, frame, BitVec.ofNat 48 (bits e 47 12 * 2 ^ 12), size,
          if e.getLsbD 6 then (dieList (s.partOf ctx)).length else 1, false⟩] ∧
        ∀ cl, ∀ x ∈ (t.clusterAt cl).tlb, x ∈ (s.clusterAt cl).tlb ∧
          ¬(x.ctx = ctx ∧ x.info.vpage.toNat ≤ page.toNat ∧ page.toNat < x.info.vpage.toNat + x.info.size)) ∧
    (∀ m, s.migration ctx page = some m →
      (stage = 1 → ∃ t, exec .pageMigration s = .next t ∧ t = { u with migrations := t.migrations } ∧
        { m with drained := true } ∈ t.migrations) ∧
      (stage = 2 → m.drained = false → exec .pageMigration s = .next u) ∧
      (stage = 2 → m.drained = true → ∃ t, exec .pageMigration s = .next t ∧ t.migrations = s.migrations ∧
        t.mem = ((u.flushRange ctx m.oldFrame.toNat (m.size * m.replicas / 16)).copyPhys ctx m.frame.toNat m.oldFrame.toNat
          (m.size * m.replicas / 8)).mem) ∧
      (stage = 3 → ∀ a e size, u.leafEntry ctx page.toNat = some (a, e, size) → ∃ t x, exec .pageMigration s = .next t ∧
        t.mem = (u.writePhys64 ctx a x).mem ∧ m ∉ t.migrations ∧
        bits x 47 12 = m.frame.toNat / 2 ^ 12 ∧ x.getLsbD 8 = false ∧ x.getLsbD 5 = decide (2 ^ 40 ≤ m.frame.toNat) ∧
        bits x 4 0 = bits e 4 0 ∧ bits x 7 6 = bits e 7 6 ∧ bits x 11 9 = bits e 11 9 ∧ bits x 63 48 = bits e 63 48 ∧
        t.cores = s.cores.map (fun p => (p.1, p.2.retranslate m))))

/-- R307, R310: a submission that fails a check changes nothing, as one with nonzero bits [63:32] of W3 or a page address with
nonzero bits [11:0] does; one that passes sends every core of the context the event 0x12 with the new version and the canonical
page, and the call waits until each of these cores has issued its `vinval` of the page. Which bounds are compared, and which cores
are asked, is the model's (logs 29, 83, 81). -/
def Claims.Installs : Prop :=
  ∀ (s : State) (m : MapxRequest) (p : PageInfo), s.req = some (.mapx m) → let u : State := { s with req := none }
    u.walk m.ctx m.canon.toNat = .ok p → let version := (u.oldVersion m.ctx m.canon p.vint.toNat + 1) % 2 ^ 32
    (u.mapxChecks m p.vint.toNat = false → exec .mapx s = .next u) ∧
    (m.canon.toNat % 4096 ≠ 0 ∨ bits (m.words.getD 3 0) 63 32 ≠ 0 ∨ m.declared < m.bound → u.mapxChecks m p.vint.toNat = false) ∧
    (∀ tr v, u.mapxChecks m p.vint.toNat = true → mapxHeader m p.vint.toNat = some tr → u.installVersion m tr version = some v →
      ∃ t, exec .mapx s = .next t ∧ v.sameMemory t ∧ t.contexts = v.contexts ∧
        t.mapxCalls = (if v.ctxCores m.ctx = [] then v.mapxCalls else v.mapxCalls ++ [⟨m.ctx, m.canon, v.ctxCores m.ctx⟩]) ∧ ∀ n, n ∈ v.ctxCores m.ctx →
        ∃ e, e ∈ (t.coreAt n).fw.queue ∧ e.cause = 0x12 ∧ e.f29 = m.canon.setWidth 64 ∧ e.f30 = wordOf version)

/-! The fabric, boot and attestation (R20, R330, R331, R349 to R352). -/

/-- R330, R331: a port after it has sent a flit of link control: the flit has the next number of its direction, names another
number in its tag, and is kept (that the tag names it is the model's choice, log 37). -/
def Controlled (s : State) (p : FabricPort) (type dst part : Nat) (seq : BitVec 32) : FabricPort :=
  let v := (⟨type, true, s.moduleNo, dst, 0, 0, part, p.next, seq.toNat, []⟩ : Flit).encode
  { p with next := p.next + 1, retry := p.retry ++ [v], sent := p.sent ++ [v] }

/-- R331: w is s after a port has taken a flit: the next number is expected, and an acknowledge has gone out. -/
def TakesFlit (s w : State) (port : Nat) (v : Vec) : Prop :=
  let f := flitOf v; let p := s.port port; let q : FabricPort := { p with expect := p.expect + 1 }
  w = { s with req := none, ports := w.ports } ∧ (∀ n, n ≠ port → w.port n = s.port n) ∧
  w.port port = Controlled s q 5 f.src f.part f.seq

/-- R330: the encoding of a flit has a good CRC, and its fields are read back. -/
def Claims.FlitEncoding : Prop :=
  ∀ f : Flit, flitGood f.encode = true ∧
    (f.type < 2 ^ 8 → f.src < 2 ^ 16 → f.dst < 2 ^ 16 → f.len < 2 ^ 16 → f.addr < 2 ^ 48 → f.part < 2 ^ 16 → f.tag < 2 ^ 32 →
      f.payload.length = 224 → flitOf f.encode = f)

/-- R331: a flit is accepted when its CRC is good, its number is the expected one, its partition owns the port and its type is
the row's; any other changes nothing but the port: a retry request names the expected number, and a good flit of a foreign
partition is counted. What an accepted one does is said row by row: how collective data is put together, which context a remote
access goes through, and that one which no context reaches is taken and not performed, is the model's (logs 24, 35, 36). A remote
access that meets a page that moves or a closed meter waits (R201, R203, R345), and those that its port accepts after it wait
behind it. -/
def Claims.FlitReceipt : Prop :=
  ∀ (s : State) (port type : Nat) (v : Vec) (i : Instr) (r : Request),
    (i, r, type) ∈ [(Instr.fabricIdle, Request.fabricIdle port v, 0), (.collectiveData, .collectiveData port v, 1),
      (.remoteWrite, .remoteWrite port v, 2), (.remoteAtomic, .remoteAtomic port v, 3), (.atomicReply, .atomicReply port v, 4),
      (.acknowledge, .acknowledge port v, 5), (.retryRequest, .retryRequest port v, 6)] →
    s.req = some r → let f := flitOf v; let p := s.port port
    let lost := if flitGood v = true ∧ s.ownsPort port f.part = false then 1 else 0
    let good := flitGood v = true ∧ f.seq = p.expect ∧ s.ownsPort port f.part = true ∧ f.type = type
    (¬good → ∃ t, exec i s = .next t ∧ t = { s with req := none, ports := t.ports } ∧ (∀ n, n ≠ port → t.port n = s.port n) ∧
      t.port port = Controlled s { p with undelivered := p.undelivered + lost } 6 f.src f.part p.expect) ∧
    (good → ∃ w, TakesFlit s w port v ∧ (type = 0 → exec i s = .next w) ∧
      (type = 1 → f.tag % 2 = 1 → f.addr = 0 →
        exec i s = .next { w with remote := s.remote ++ [⟨f.src, f.tag / 2, f.data, []⟩] }) ∧
      (type = 1 → ¬(f.tag % 2 = 1 ∧ f.addr = 0) → ∀ a x b, s.remote = a ++ x :: b → x.src = f.src → x.index = f.tag / 2 →
        (∀ y ∈ b, ¬(y.src = f.src ∧ y.index = f.tag / 2)) → exec i s = .next { w with remote := a ++ (if f.tag % 2 = 1
          then { x with contents := x.contents ++ f.data } else { x with data := x.data ++ f.data }) :: b }) ∧
      (type = 2 ∨ type = 3 → p.pending ≠ [] ∨ w.remoteWaits f = true →
        exec i s = .next (w.setPort port { w.port port with pending := p.pending ++ [v] })) ∧
      (type = 2 → p.pending = [] → w.remoteWaits f = false →
        (w.remoteCtx f.part [.write] f.addr f.data.length = none → exec i s = .next w) ∧
        ∀ ctx u, w.remoteCtx f.part [.write] f.addr f.data.length = some ctx → w.writeVa ctx f.addr f.data = some u →
          exec i s = .next (u.countAll ctx (w.remoteCosts ctx f f.data.length))) ∧
      (type = 3 → p.pending = [] → w.remoteWaits f = false → ∀ op n x c ctx bs u, remoteAtomicOf f.data = some (op, n, x, c) →
        w.remoteCtx f.part [.read, .write] f.addr n = some ctx → f.addr % n = 0 → w.readVa ctx f.addr n = some bs →
        w.writeVa ctx f.addr (leBytes (amoValue op (8 * n) (leValue bs) (x % 2 ^ (8 * n)) (c % 2 ^ (8 * n))) n) = some u →
        exec i s = .next ((u.countAll ctx (w.remoteCosts ctx f n)).sendFlit port ⟨4, true, 0, f.src, n, f.addr, f.part, 0, f.tag, leBytes (leValue bs) n⟩)) ∧
      (type = 4 → exec i s = .next (w.setPort port { w.port port with replies := p.replies ++ [(f.tag, f.data)] })))

/-- R201, R203, R331, R345: a remote access that waits goes on when its page no longer moves and its meters are open, the oldest of
its port first; until then it stays. -/
def Claims.WaitingAccesses : Prop :=
  ∀ (s : State) (i : Instr), i = .remoteWrite ∨ i = .remoteAtomic → s.req = none →
    (∀ n v, s.remoteReady = some (n, v) → ∃ rest, (s.port n).pending = v :: rest ∧ s.remoteWaits (flitOf v) = false ∧
      exec i s = .next ((s.setPort n { s.port n with pending := rest }).performRemote n (flitOf v))) ∧
    (∀ n v rest, n < 16 → (s.port n).pending = v :: rest → s.remoteWaits (flitOf v) = false → s.remoteReady.isSome = true) ∧
    (s.remoteReady = none → exec i s = .next s)

/-- R329, R331: a flit that carries a number is kept until it is acknowledged; an acknowledge lets go of everything up to the flit
it names, and a retry request has everything from the flit it names on sent again. After 3 failed retries of one flit the width of
the port is halved. The flits that were on the link behind one that is asked for are dropped as well, and ask again: these requests
ask for nothing new (log 26). -/
def Claims.FlitControl : Prop :=
  (∀ (s : State) (n : Nat) (f : Flit), let p := s.port n; let q := (s.sendFlit n f).port n
    q.next = p.next + 1 ∧ ∃ v, q.retry = p.retry ++ [v] ∧ q.sent = p.sent ++ [v] ∧
      v = ({ f with seq := p.next, src := s.moduleNo } : Flit).encode) ∧
  (∀ (s : State) (port : Nat) (v x : Vec) (a b : List Vec), let f := flitOf v; let p := s.port port
    let n : BitVec 32 := BitVec.ofNat 32 f.tag
    flitGood v = true → f.seq = p.expect → s.ownsPort port f.part = true → p.retry = a ++ x :: b → (flitOf x).seq = n →
    (∀ y ∈ a, (flitOf y).seq ≠ n) → let u : State := { s with req := none }
    let q := Controlled s { p with expect := p.expect + 1 } 5 f.src f.part f.seq
    ∃ y, q.retry = p.retry ++ [y] ∧
    (s.req = some (.acknowledge port v) → f.type = 5 →
      exec .acknowledge s = .next (u.setPort port { q with retry := b ++ [y], retryCount := 0, retryStale := 0 })) ∧
    (s.req = some (.retryRequest port v) → f.type = 6 →
      let again : Prop := p.retrySeq = n ∧ p.retryCount ≠ 0
      let stale : Prop := again ∧ p.retryStale ≠ 0
      let count := if stale then p.retryCount else if again then p.retryCount + 1 else 1
      let next : FabricPort := if stale then { q with retryStale := p.retryStale - 1 } else
        { q with sent := q.sent ++ x :: (b ++ [y]), retrySeq := n, retryStale := b.length + 1 }
      let r : FabricPort := { next with retryCount := if count = 4 then 1 else count }
      exec .retryRequest s = .next (if count = 4 then { u.setPort port r with mgmt := { s.mgmt with
        widths := put (16 + port) (max 1 (find 16 (16 + port) s.mgmt.widths / 2)) s.mgmt.widths } } else u.setPort port r)))

/-- R350: the certificate of a die: its identity key comes from the HMAC of its device secret and its first code, and the stage 1
key of the cache die certifies it. -/
def Claims.Certificates : Prop :=
  (∀ (b : Boot) (d : Nat), d ≠ 8 → b.certificate d = Config.certify Config.stage1Key (Config.identityKey
    (Config.hmac384 (Config.deviceSecret d) (Config.sha384 (find [] d b.code))))) ∧
  ∀ (b : Boot) (d : Nat) (nonce : BitVec 384), d ∉ b.failing → b.sideOk d nonce = Config.verifies (b.certificate d)
    (digestBytes nonce) (Config.signWith (b.cdi d) (digestBytes nonce))

/-- R349: what the boot ROM runs: the image in flash, or else what the network answers, if its signature verifies under the
vendor key; and whether it came from the network. -/
def bootChoice (flash network : Option BootImage) : Option (BootImage × Bool) :=
  let good (x : BootImage) : Bool := Config.vendorSigned (x.stage1 ++ x.manifest) x.signature
  if (flash.filter good).isSome then flash.map (fun x => (x, false)) else (network.filter good).map (fun x => (x, true))

/-- R349: the images of stage 2 have the digests that the manifest names, one after the other (log 30). -/
def manifestNames (x : BootImage) : Prop :=
  x.manifest.take 48 = digestBytes (Config.sha384 x.os) ∧ (x.manifest.drop 48).take 48 = digestBytes (Config.sha384 x.firmware) ∧
    (x.manifest.drop 96).take 48 = digestBytes (Config.sha384 x.idrok)

/-- R20, R349, R350, R352: what a boot that succeeds leaves: the images, the manifest with its configuration and the source are measured; a die is admitted, with its
certificate measured, where it and each die that it meets, the cache die and the ring neighbours admitted before it, sign each
other's nonces; any other die is fenced with a log entry of zero. After a network boot the flash slot holds the image. -/
def Boots (s t : State) (x : BootImage) (network : Bool) : Prop :=
  t.boot.stage = 3 ∧ t.mgmt.bootFailed = false ∧ t.boot.flash = (if network then some x else s.boot.flash) ∧
  find? 0 t.boot.log = some (Config.sha384 x.stage1) ∧ find? 1 t.boot.log = some (Config.sha384 (x.manifest ++ x.config)) ∧
  find? 2 t.boot.log = some (Config.sha384 x.os) ∧ find? 3 t.boot.log = some (Config.sha384 x.firmware) ∧
  find? 4 t.boot.log = some (Config.sha384 x.idrok) ∧
  find? 5 t.boot.log = some (Config.sha384 (if network then 1 :: digestBytes (Config.sha384 x.url) else [0])) ∧
  ∃ nonce : Nat → Nat → BitVec 384, ∀ d, d < 13 → let c := s.boot.certificate d
    let meets (a : Nat) : Prop := d ≠ 8 ∧ a = 8 ∨ d < 8 ∧ a < d ∧ a ∈ t.boot.admitted ∧ (a = (d + 1) % 8 ∨ a = (d + 7) % 8)
    (d ∈ t.boot.admitted ↔ ∀ a, meets a → s.boot.sideOk d (nonce a d) = true ∧ s.boot.sideOk a (nonce d a) = true) ∧
    (d ∈ t.boot.admitted → t.dieAt d = s.dieAt d ∧ find? (16 + d) t.boot.log = some (Config.sha384 c) ∧
      find? d t.boot.certs = some c) ∧
    (d ∉ t.boot.admitted → (t.dieAt d).fenced = true ∧ find? (16 + d) t.boot.log = some 0)

/-- R349: t is s after the boot ROM has taken its choice: neither source, or a manifest that its images fail, leaves boot
failed. -/
def TriesBoot (s t : State) (choice : Option (BootImage × Bool)) : Prop :=
  t.cores = s.cores ∧ s.sameMemory t ∧ t.boot.powered = true ∧
  (choice = none → t.mgmt.bootFailed = true ∧ t.boot.stage = s.boot.stage ∧ t.boot.log = s.boot.log) ∧
  ∀ x network, choice = some (x, network) →
    (manifestNames x → Boots s t x network) ∧ (¬manifestNames x → t.mgmt.bootFailed = true ∧ t.boot.stage = 1)

/-- R20, R349, R352: boot from flash, or from the network; while both fail the ROM tries the network again with what it then
answers. A die whose challenge is not answered in time is fenced. -/
def Claims.Booting : Prop :=
  (∀ s : State, s.boot.powered = true → exec .powerOn s = .next s) ∧
  (∀ s : State, s.boot.powered = false → s.boot.silent = [] → ∃ t, exec .powerOn s = .next t ∧
    TriesBoot s t (bootChoice s.boot.flash s.boot.network)) ∧
  (∀ (s : State) (x : Option BootImage), s.req = some (.bootNetworkRetry x) → s.boot.powered = true → s.boot.silent = [] →
    (s.boot.stage = 0 → ∃ t, exec .bootNetworkRetry s = .next t ∧ t.req = none ∧ TriesBoot s t (bootChoice none x)) ∧
    (s.boot.stage ≠ 0 → exec .bootNetworkRetry s =
      .next { s with req := none, boot := { s.boot with network := x } })) ∧
  (∀ (s : State) (d : Nat), s.req = some (.dieChallengeTimeout d) → s.boot.stage = 2 → s.boot.next = d → d < 13 →
    ∃ t, exec .dieChallengeTimeout s = .next t ∧ t.req = none ∧ (t.dieAt d).fenced = true ∧
      find? (16 + d) t.boot.log = some 0 ∧ d < t.boot.next ∧ t.cores = s.cores)

/-- R351: the responder answers on port 0 and on the ports of the control OS alone, in the order version, capabilities,
algorithms, and then the other requests; out of order it answers with an error, and before the control OS runs not at all. The
codes are the model's (log 38), and so are the bytes that a signature covers (log 13). -/
def Claims.Attestation : Prop :=
  (∀ (s : State) (port : Nat) (nonce : BitVec 256) (n : Nat) (a b : Bool) (i : Instr) (r : Request),
    (i, r) ∈ [(Instr.getVersion, Request.getVersion port), (.getCapabilities, .getCapabilities port),
      (.negotiateAlgorithms, .negotiateAlgorithms port a b), (.getDigests, .getDigests port),
      (.getCertificate, .getCertificate port), (.challenge, .challenge port nonce),
      (.getMeasurements, .getMeasurements port n nonce)] → s.req = some r →
    s.boot.stage < 3 ∨ (port ≠ 0 ∧ port ∉ s.mgmt.osPorts) → exec i s = .next { s with req := none }) ∧
  (∀ (s : State) (port : Nat), s.boot.stage = 3 → port = 0 ∨ port ∈ s.mgmt.osPorts → let x := s.spdm
    let reply (y : Spdm) (code : Nat) (bs : List Byte) : State :=
      { s with req := none, spdm := { y with responses := x.responses ++ [(port, code, bs)] } }
    let chain := find [] 8 s.boot.certs
    (s.req = some (.getVersion port) → exec .getVersion s =
      .next (reply { x with versioned := true, capable := false, negotiated := false } 4 [1, 0, 0x13])) ∧
    (s.req = some (.getCapabilities port) → exec .getCapabilities s =
      .next (if x.versioned then reply { x with capable := true } 0x61 [0x16, 0, 0, 0] else reply x 0x7F [4])) ∧
    (∀ a b, s.req = some (.negotiateAlgorithms port a b) → exec .negotiateAlgorithms s = .next (if x.capable = false then
      reply x 0x7F [4] else if a = true ∧ b = true then reply { x with negotiated := true } 0x63 [0x80, 0, 0, 0, 2, 0, 0, 0]
      else reply x 0x7F [1])) ∧
    (s.req = some (.getDigests port) → exec .getDigests s =
      .next (if x.negotiated then reply x 1 (digestBytes (Config.sha384 chain)) else reply x 0x7F [4])) ∧
    (s.req = some (.getCertificate port) → exec .getCertificate s =
      .next (if x.negotiated then reply x 2 chain else reply x 0x7F [4])) ∧
    let fresh := (digestBytes (Config.freshNonce s.free)).take 32
    let signed (nonce : BitVec 256) (code : Nat) (bs : List Byte) : State :=
      { reply x code (bs ++ Config.ecdsaSign (leBytes nonce.toNat 32 ++ bs)) with free := s.free + 1 }
    (∀ nonce, s.req = some (.challenge port nonce) → exec .challenge s = .next (if x.negotiated then
      signed nonce 3 (digestBytes (Config.sha384 chain) ++ fresh) else reply x 0x7F [4])) ∧
    ∀ n nonce, s.req = some (.getMeasurements port n nonce) →
      (x.negotiated = false → exec .getMeasurements s = .next (reply x 0x7F [4])) ∧
      (x.negotiated = true → find? n s.boot.log = none → exec .getMeasurements s = .next (reply x 0x7F [1])) ∧
      ∀ d, x.negotiated = true → find? n s.boot.log = some d →
        exec .getMeasurements s = .next (signed nonce 0x60 (leBytes n 1 ++ digestBytes d ++ fresh)))

/-! The machine as a whole. -/

/-- R46, R47, R53, R270: what a result in flight carries, and that nothing else has changed: an operation that is computed again
from the flight record takes the place of its entry, with a new value that is ready after its real latency. And what one result
makes of the register file when it lands alone: the enabled bits of its register, and nothing of a0 or k0. -/
def Claims.ResultCarried : Prop :=
  (∀ (s : State) (d : Dest) (v en : Vec) (fl : FlagVec) (l : Latency) (r : Bool), let t := s.land d v en fl l r
    let user := s.core.fw.issuing = false
    s.sameModule t ∧ s.sameOthers t ∧ s.core.sameButFlight t.core ∧ t.core.issue = { s.core.issue with seq := s.core.issue.seq + 1 } ∧
    (user → t.core.fw = s.core.fw ∧ t.core.flow = { s.core.flow with pend := t.core.flow.pend }) ∧
    (¬user → t.core.flow = s.core.flow ∧ t.core.fw = { s.core.fw with pend := t.core.fw.pend }) ∧
    ∃ p, t.inFlight = s.inFlight ++ [p] ∧ p.value = v ∧ p.en = en ∧ p.flags = fl ∧ p.ready = r ∧
      (∀ g, s.core.issue.again = some g → p.dest = g.entry.dest ∧ p.seq = g.entry.seq ∧ p.slot = g.entry.slot ∧
        p.due = g.entry.due ∧ p.readyTick = s.tick + g.entry.lat - 1) ∧
      (s.core.issue.again = none → p.dest = d ∧ p.slot = s.core.issue.slot ∧ p.seq = s.core.issue.seq ∧
        p.lat = l.v3 ∧ p.readyTick = s.tick + l.v3 - 1 ∧
      (user → s.core.issue.pos.ver.treat ≠ .interlocked → p.due = s.core.flow.bundleNo + l.v3 - 1) ∧
      (user → s.core.issue.pos.ver.treat = .interlocked → p.due = s.core.flow.bundleNo + l.v2 - 1) ∧
      (¬user → p.due = s.core.fw.bundleNo + l.v3 - 1))) ∧
  (∀ (c : Core) (p : Pending), let d := c.landOne p
    d.flow = c.flow ∧ d.mem = c.mem ∧ d.eng = c.eng ∧ d.press = c.press ∧ d.task = c.task ∧ d.fw = c.fw ∧
    (∀ n, d.regs.readA n = if p.dest = .a n ∧ n ≠ 0 then p.value.setWidth 64 else c.regs.readA n) ∧
    (∀ n b, n < 56 → b < 2048 → (d.regs.readV n).getLsbD b =
      if p.dest = .v n ∧ p.en.getLsbD b = true then p.value.getLsbD b else (c.regs.readV n).getLsbD b) ∧
    (∀ n b, b < 64 → (d.regs.readK n).getLsbD b =
      if p.dest = .k n ∧ n ≠ 0 ∧ p.en.getLsbD b = true then p.value.getLsbD b else (c.regs.readK n).getLsbD b))

/-- R41: register a0 reads 0 and k0 all ones, for every state in which an operation reads its own operands, and f0 reads 0 in the
firmware context; writes to a0 and k0 are ignored. -/
def Claims.ConstantRegisters : Prop :=
  ∀ s : State, (s.fwIssuing = true ∨ s.recorded = none → s.readA 0 = 0) ∧
    (s.recorded = none → s.readK 0 = BitVec.allOnes 64) ∧
    ∀ (n : Nat) (x : Word), (s.core.regs.writeA 0 x).readA n = s.core.regs.readA n ∧
      (s.core.regs.writeK 0 x).readK n = s.core.regs.readK n

/-- R75, R207, R267: the checks of an operation, in their order: its encoding, registers that fail ECC (where that check stands is
the model's choice, log 75), ports and operands (where both fail, the port's fault is the model's choice, log 73). An operation that
is issued again in hidden issue has passed them (R270). -/
def Claims.CheckOrder : Prop :=
  ∀ (s : State) (i : Instr), (s.core.issue.again.isSome = true → opCheck i s = none) ∧ (s.core.issue.again = none →
    let enc := encCheck i s.core.issue.slot s
    (enc = false → opCheck i s = some (.fault 0x01 0 0)) ∧
    (enc = true → readsStruck i s = true → opCheck i s = some (.fault 0x0D 0 0)) ∧
    (enc = true → readsStruck i s = false → ∀ c, portCheck i s = some c → opCheck i s = some c) ∧
    (enc = true → readsStruck i s = false → portCheck i s = none → opCheck i s = operandCheck i s)) ∧
    (s.fwIssuing = false → ∀ n, let m := rotate s.core.regs.rb (n % 64)
      (.a n ∈ reads i ∧ .scalar s.cur m ∈ s.bad → readsStruck i s = true) ∧
      (.v n ∈ reads i ∧ n < 56 ∧ .vector s.cur (rotate s.core.regs.rb n) ∈ s.bad → readsStruck i s = true) ∧
      (.k n ∈ reads i ∧ .mask s.cur n ∈ s.bad → readsStruck i s = true)) ∧
    (s.bad = [] → readsStruck i s = false)

/-- R75, R265, R268: a check that fails ends the phase: the record stands in the state space, the bundle has no effect, what is
in flight is discarded, every loop level is inactive, and of the queues only the requests that were sent go on; the registers
stay. -/
def Claims.ChecksTaken : Prop :=
  (∀ (s : State) (i : Instr) (k : State → State) (code tc : Nat) (va : Word), opCheck i s = some (.fault code va tc) →
    ∃ t, guarded i s k = .next t ∧ s.sameModule t ∧ s.sameOthers t ∧ let c := t.core; let w (n : Nat) : Word := find 0 n c.flight.fault
      bits (w 0) 7 0 = code % 256 ∧ bits (w 0) 11 8 = s.core.issue.slot % 16 ∧ (w 0).getLsbD 12 = s.fwIssuing ∧
      (w 0).getLsbD 13 = false ∧ (w 0).getLsbD 14 = false ∧ (w 0).getLsbD 15 = false ∧ bits (w 0) 39 16 = tc % 2 ^ 24 ∧
      bits (w 0) 63 40 = 0 ∧ (s.fwIssuing = false → w 1 = s.core.issue.addr.setWidth 64) ∧ w 2 = va ∧
      bits (w 3) 8 0 = s.cur % 512 ∧ bits (w 3) 31 9 = 0 ∧ bits (w 3) 63 32 = s.ringEstimate (dieOf s.cur) % 2 ^ 32 ∧
      c.task.status = .faulted ∧ c.issue.stage = .closed ∧ c.issue.todo = [] ∧ c.flow.pend = [] ∧ c.flow.xfers = [] ∧
      c.regs = s.core.regs ∧ (∀ n, (c.loops.level n).active = false) ∧ c.fw.mode = .idle ∧ (∀ x, QueueEntry.access x ∈ c.mem.storeQ ↔
        QueueEntry.access x ∈ s.core.mem.storeQ ∧ (x.targets.isSome = true ∨ x.bounced = true)) ∧
      ∀ x, QueueEntry.access x ∈ c.mem.loadQ ↔
        QueueEntry.access x ∈ s.core.mem.loadQ ∧ (x.targets.isSome = true ∨ x.bounced = true)) ∧
  (∀ (s : State) (i : Instr) (k : State → State) (cause : Nat) (va : Word), opCheck i s = some (.trap cause va) →
    s.core.flow.finding = none → ∃ t, guarded i s k = .next t ∧ s.sameModule t ∧ s.sameOthers t ∧
      t.core.flow = { s.core.flow with finding := some (.trap cause s.core.issue.slot va), pos := s.core.issue.pos } ∧
      t.core.regs = s.core.regs ∧ t.core.task = s.core.task ∧ t.core.issue.stage = .closed ∧ t.core.issue.todo = [])

/-- R71, R73, R273, R276, R278, R289: user code may not hold an operation of the firmware, nor one whose feature bit is clear,
nor on an interlocked page one that vintage 2 lacks or one in slots 1 and 6; firmware code holds only its own operations, with f0
to f31, in slots 0 to 4; `immx` stands in slot 1 beside a partner in slot 0. Each breach is fault 0x01, at the first issue. -/
def Claims.Legality : Prop :=
  ∀ (s : State) (i : Instr),
    (s.core.issue.again = none → i.wellFormed = false ∨
      s.core.fw.issuing = false ∧ (fwOnly i = true ∨ (∃ b, featBit i = some b ∧ (find 0 0x100 s.core.regs.csr).getLsbD b = false) ∨
        s.core.issue.pos.ver.treat = .interlocked ∧
          (vintage3Only i = true ∨ s.core.issue.slot = 1 ∨ s.core.issue.slot = 6)) ∨
      (∃ x, i = .immx x) ∧ s.core.issue.slot ≠ 1 ∨
      s.core.fw.issuing = true ∧ (fwOpcode i = false ∨ fwFields i = false ∨ 4 < s.core.issue.slot) →
      opCheck i s = some (.fault 0x01 0 0)) ∧
    (fwOnly i = true ↔ i ∈ [Instr.resume, .fwtake] ∨ (∃ e c, i = .fwyield e c) ∨ (∃ a r b, i = .tlbinv a r b) ∨
      (∃ r n, i = .csrwp r n) ∨ (∃ r n, i = .csrrp r n) ∨ (∃ x y, i = .flread x y) ∨ (∃ x y, i = .flwrite x y) ∨
      (∃ r b, i = .vinval r b) ∨ ∃ x y, i = .bmap x y)

/-- The machine right after reset: what the spec states of it (R10, R41, R194, R349), with nothing listed in any memory; every
register for which the spec gives no reset value reads 0 but `ctl.feat`, which holds every defined bit (the model's choice,
log 4). -/
def Claims.Reset : Prop :=
  State.reset.memWf ∧ State.reset.mem = [] ∧ State.reset.boot.powered = false ∧ State.reset.boot.stage = 0 ∧
  State.reset.contexts = [] ∧ State.reset.mgmt.partitions = [] ∧ State.reset.tick = 0 ∧
  ∀ n, let c := State.reset.coreAt n
    c.task.status = .idle ∧ c.issue.stage = .closed ∧ c.flow.pend = [] ∧ c.fw.mode = .idle ∧ (∀ k, c.regs.readA k = 0) ∧
    (∀ k, c.regs.readV k = 0) ∧ (∀ k, k ≠ 0 → c.regs.readK k = 0) ∧ c.mem.loadQ = [] ∧ c.mem.storeQ = [] ∧
    (∀ k, c.regs.readCsr k = if k = 0x100 then 0x1F else 0) ∧ c.regs.vflags = 0 ∧ c.regs.rb = 0 ∧
    (∀ t e, c.regs.trellisEntry t e = trellisDefault e) ∧ (∀ k, (c.loops.level k).active = false ∧ c.loops.lc k = 0) ∧
    (∀ k, find 0 k c.fw.f = 0 ∧ find 0 k c.fw.text = 0) ∧ c.fw.queue = [] ∧ c.fw.pc = 0 ∧ (∀ k, find 0 k c.flight.fault = 0) ∧
    (∀ k, find 0 k c.press.acc = 0 ∧ find 0 k c.press.macros = 0 ∧ find 0 k c.press.rowBuf = 0 ∧ find 0 k c.press.xr = 0 ∧
      find 0 k c.press.xc = 0) ∧ c.press.ovf = 0 ∧ c.press.seqBeats = 0 ∧
    (∀ k, (c.eng.stream k).bound = false) ∧ c.eng.landQ = [] ∧ c.eng.nests = [] ∧ c.eng.copies = [] ∧
    State.reset.dieAt n = Die.reset ∧ Die.reset.count = 0 ∧ Die.reset.point = 0 ∧ Die.reset.fenced = false ∧
    Die.reset.trip = false ∧ Die.reset.corrected = 0 ∧ Die.reset.credit = [] ∧ let cl := State.reset.clusterAt n
    cl.modes = [] ∧ cl.sram = [] ∧ cl.cache = [] ∧ cl.tlb = [] ∧ cl.ctx = none

/-- Every memory keeps its canonical form in every step, so that equal contents are equal data. -/
def Claims.StepKeepsMemory : Prop :=
  ∀ s t : State, s.memWf → step s = .next t → t.memWf

/-- No row ever stops the machine: every row of the opcode table answers a next state in every state, faults and traps of the
spec among them; so does every step. -/
def Claims.NothingStops : Prop :=
  (∀ (i : Instr) (s : State), ∃ t, exec i s = .next t) ∧ ∀ s : State, ∃ t, step s = .next t

/-- R66 to R74, R136, R148, R289: the encoder's word of every well-formed operation decodes to that operation, in the class of
slots it stands in, and every word that decodes gives a well-formed operation. -/
def Claims.EncodeDecode : Prop :=
  (∀ (i : Instr) (cl : SlotClass) (w : Slot), i.wellFormed = true → i ≠ .nop → encode i = some (cl, w) →
    decodeClass cl w = .ok i) ∧
  ∀ (cl : SlotClass) (w : Slot) (i : Instr), decodeClass cl w = .ok i → i ≠ .nop → encode i = some (cl, w)

/-- R46, R75: when the open bundle of the acting core has a slot to run whose word decodes to i, the step is i in that slot,
with the slot taken from what is left to run; nothing else is added. A row of the bundle that has no word runs in the same
way, as slot 8. -/
def Claims.StepRunsDecoded : Prop :=
  ∀ (s : State) (i : Instr), s.boot.powered = true → 3 ≤ s.boot.stage → s.ended = false → s.core.issue.stage = .ops →
    (∀ k rest, s.core.issue.todo = .slot k :: rest → decodeSlot k (slotWord s.core.issue.word k) = .ok i →
      step s = exec i (s.modIssue (fun x => { x with slot := k, todo := rest }))) ∧
    (∀ rest, s.core.issue.todo = .row i :: rest →
      step s = exec i (s.modIssue (fun x => { x with slot := 8, todo := rest })))

/-- R62, R65 to R71, R289: a few words, written out field by field from the spec's formats, decode to their operations; the
last is the word that R289 gives for `bmap f3, f4`. -/
def Claims.DecodedWords : Prop :=
  decodeClass .a (0x01#6 ++ 5#6 ++ 6#6 ++ 7#6 ++ 0x05#6) = .ok (.andn ⟨5, 6, 7⟩) ∧
  decodeClass .a (0x13#6 ++ 5#6 ++ 3#2 ++ 0xBEEF#16) = .ok (.movk ⟨5, 3, 0xBEEF⟩) ∧
  decodeClass .c (0x01#6 ++ 4#3 ++ 5#6 ++ 6#6 ++ 0x1FF#9) = .ok (.brLtu ⟨5, 6, 0x1FF⟩) ∧
  decodeClass .l (0x0C#6 ++ 5#6 ++ 6#6 ++ 7#6 ++ 3#3 ++ 7#3) = .ok (.vldx ⟨5, 6, 7, 3, 7⟩) ∧
  decodeClass .s (0x10#6 ++ 5#6 ++ 6#6 ++ 7#6 ++ 0#1 ++ 1#1 ++ 10#4) = .ok (.amoCas ⟨5, 6, 7, true⟩) ∧
  decodeClass .v (0x2A#6 ++ 5#6 ++ 6#6 ++ 2#2 ++ 0#1 ++ 1#1 ++ 255#8) = .ok (.vmovs 5 6 255 true 2) ∧
  decodeClass .p (0x06#6 ++ 5#6 ++ 6#3 ++ 7#3 ++ 3#2 ++ 0#2 ++ 4#3 ++ 1#1 ++ 0#4) = .ok (.pdrain 5 6 7 3 0 4 true) ∧
  decodeClass .c 0x390C4000 = .ok (.bmap 3 4)

end Sys2Proof.Machine

/-! The statements, each of one claim or of several that belong together. -/

section

open Sys2Proof.Machine

/-- R77, R78: the AR group, with the corner cases of division. -/
def Obligations.ScalarArithmetic : Prop :=
  Claims.ScalarBasics ∧ Claims.ScalarShiftsAndCompares ∧ Claims.ScalarDivision ∧ Claims.ScalarCounts

/-- R64, R79 to R82: immediates, constants, halfwords. -/
def Obligations.ScalarImmediates : Prop := Claims.ScalarImmediates ∧ Claims.ScalarConstants ∧ Claims.ScalarHalfwords

/-- R83, R84: three sources, and bit fields. -/
def Obligations.ScalarFields : Prop := Claims.ThreeSources ∧ Claims.BitFields

/-- R43 to R45, R85, R86: control registers (the upper limit of the depth of ctl.bbwin is log 51, DEDUCED). -/
def Obligations.ControlRegisters : Prop := Claims.ControlAccess ∧ Claims.ControlValues ∧ Claims.ControlLandings

/-- R50, R88, R89: transfers, their targets, and what a call writes. -/
def Obligations.Transfers : Prop := Claims.TransfersTaken ∧ Claims.TargetChecks ∧ Claims.ReturnAddress

/-- R91, R94: loop levels. -/
def Obligations.Loops : Prop := Claims.LoopSetUp ∧ Claims.LoopBreak

/-- R95 to R97, R320 to R322: the ends and waits of a task. -/
def Obligations.TaskControl : Prop := Claims.Halt ∧ Claims.TrapInstruction ∧ Claims.Leave ∧ Claims.Alignment

/-- R98 to R101, R248, R254: barriers. -/
def Obligations.Barriers : Prop :=
  Claims.BarrierHandles ∧ Claims.BarrierInstructions ∧ Claims.BarrierBaseAdvance ∧ Claims.BarrierContributions

/-- R103, R104, R214: scalar accesses. -/
def Obligations.ScalarAccesses : Prop := Claims.ScalarLoads ∧ Claims.ScalarStores ∧ Claims.AddressChecks

/-- R208 to R212: vector accesses. -/
def Obligations.VectorAccesses : Prop := Claims.VectorLoads ∧ Claims.VectorStores

/-- R215 to R217: atomics and reductions. -/
def Obligations.Atomics : Prop := Claims.AtomicIssue ∧ Claims.AtomicValues

/-- R102, R213, R219: prefetch, retention and markers. -/
def Obligations.CacheInstructions : Prop := Claims.Prefetch ∧ Claims.Retention ∧ Claims.Marks

/-- R120 to R126, R145 to R148, R167, R169: floating-point vectors and their element functions. -/
def Obligations.FloatVectors : Prop :=
  Claims.FloatElements ∧ Claims.FormatValues ∧ Claims.RoundedOnce ∧ Claims.ElementSums ∧ Claims.ElementFused ∧ Claims.ElementOrder ∧ Claims.ElementTranscendentals ∧ Claims.ExactLogarithms

/-- R147, R150, R156 to R158: mask registers. -/
def Obligations.MaskRegisters : Prop := Claims.VectorCompares ∧ Claims.Masks

/-- R149 to R154: integer elements and lanes. -/
def Obligations.IntegerVectors : Prop := Claims.IntegerElements ∧ Claims.LaneMovement

/-- R127, R155: reductions. -/
def Obligations.Reductions : Prop := Claims.ReductionResults ∧ Claims.ReductionTree ∧ Claims.ReductionKinds

/-- R130 to R132, R159 to R166: the conversion pipeline. -/
def Obligations.Conversions : Prop :=
  Claims.ConversionResults ∧ Claims.ConvertedElements ∧ Claims.ScaledElements ∧ Claims.BlockScales ∧ Claims.ScalesAndTrellis ∧ Claims.Codebook

/-- R137, R168: slices. -/
def Obligations.Slices : Prop := Claims.SliceResults ∧ Claims.SliceDigits

/-- R109, R126, R170: flags. -/
def Obligations.VectorFlags : Prop := Claims.FlagAccess ∧ Claims.FlagLanes

/-- R184 to R191: press updates. -/
def Obligations.PressUpdates : Prop := Claims.PressFills ∧ Claims.PressControl

/-- R172 to R177, R187: the beats of a press sequence. -/
def Obligations.PressBeats : Prop := Claims.PressSequence ∧ Claims.PressPlanes ∧ Claims.PressProduct

/-- R179, R189: `pdrain` converts 2048 / w elements of a row: an integer form gives the element, clamped for `s32`; a
floating-point form the rounded product S · 2^(xr + xc - 7d), a marker the NaN with NV, and S = 0 gives +0. -/
def Obligations.PressDrain : Prop := Claims.PressDrain

/-- R240 to R243, R249 to R251: what the copy instructions start. -/
def Obligations.CopyInstructions : Prop :=
  Claims.CopyIssue ∧ Claims.SequencerLevels ∧ Claims.LayoutRecords ∧ Claims.Nests

/-- R242, R244 to R248: the elements of a copy, in both directions. The order in which a row performs them is the model's choice (log 8). -/
def Obligations.CopyElements : Prop := Claims.TilePlaces ∧ Claims.CopiesPerformed ∧ Claims.CopiedElement

/-- R221 to R225: streams (the place of an entry in its bank is log 20, DEDUCED). -/
def Obligations.Streams : Prop := Claims.StreamBinds ∧ Claims.StreamTransfers

/-- R196, R220: `bank` asks for a switch of its banks, and a mask of 0 for none; when the switch completes, every bank of the
mask has the mode, and a bank that left or entered cache mode reads as zeros; the others keep mode and contents. Where a bank
leaves cache mode the dirty bytes go home first; meters may let only some of them go, and then the switch goes on later. -/
def Obligations.BankModes : Prop := Claims.BankModes

/-- R256 to R258: collectives. -/
def Obligations.Collectives : Prop := Claims.CollectiveIssue ∧ Claims.CollectiveResults

/-- R236, R259 to R261: the progress of a collective (that members with the same table form one group is the model's reading, log 85). -/
def Obligations.CollectiveProgress : Prop :=
  Claims.CollectiveGroups ∧ Claims.CollectiveMatching ∧ Claims.CollectiveReads ∧ Claims.CollectiveCompletion

/-- R316: ring time is the smallest count of an unfenced compute die at its nominal point; a count record goes to every other
unfenced compute die, over a neighbour's open link in 24 ticks and else in 40; a receipt raises the bound to count + lam - 1
where that exceeds what the bound has come to. -/
def Obligations.RingTime : Prop := Claims.RingTime

/-- R324 to R326: timed sends. -/
def Obligations.TimedSends : Prop := Claims.SendsDepart ∧ Claims.SendsArrive

/-- R269 to R275: activations (f29 and f30 of cause 0x12 are log 42, a trap found while another has the record log 97, both DEDUCED). -/
def Obligations.FirmwareEntry : Prop := Claims.TrapEntry ∧ Claims.BackgroundActivation

/-- R270, R284, R286, R288, R289: the end of an activation, and tasks resumed (the list of pre-empted tasks and which is taken up are log 43, DEDUCED). -/
def Obligations.FirmwareReturn : Prop :=
  Claims.Resume ∧ Claims.YieldAndTake ∧ Claims.RecordedValues ∧ Claims.TasksResumed

/-- R277: what a word of the state space reads after a write of x to it. That a count above 96 entries reads 96 is the model's
reading (log 17). -/
def Obligations.StateSpace : Prop := Claims.StateSpace

/-- R204, R289, R310: the instructions that reach the state space, the TLBs, versions and the barrier table. `tlbinv` drops,
of the translations of the context that it names, those of the micro-TLB alone, of the cluster and its cores, or of the die;
every other translation stays, and nothing else changes. What `bmap` writes stands in the table from the end of the
activation on (`Resume`). -/
def Obligations.PrivilegedInstructions : Prop := Claims.PrivilegedInstructions

/-- R61, R76, R95, R283, R287, R320: bundles without operations. -/
def Obligations.BundleFaults : Prop := Claims.WholeBundleFaults ∧ Claims.NoOpBundles

/-- R46, R57, R59, R60, R75, R193, R264, R267, R280, R303, R304, R311: code (logs 18, 27 and 61, DEDUCED, for the copy of cause 0x11, slot 8 of a fetch and the order of findings). -/
def Obligations.Code : Prop :=
  Claims.SegmentsAndFills ∧ Claims.SegmentCopies ∧ Claims.CodeReload ∧ Claims.BundleFetches ∧ Claims.BundleChecks ∧ Claims.BundleRows

/-- R281 to R284, R288: pre-emption. -/
def Obligations.Preemption : Prop := Claims.SafeBundles ∧ Claims.TimedPreemption

/-- R49 to R52, R93, R111, R112, R114, R282, R287: loop passes, drains, and where the core goes next (the meeting of a loop return and a pending transfer, and iterations set up at once while one is pending, are the model's, logs 71, 72 and 19). -/
def Obligations.LoopEnds : Prop := Claims.EndEvaluations ∧ Claims.StageEnables ∧ Claims.Drains ∧ Claims.NextPlaces

/-- R46, R47, R53, R108, R126, R170: a bundle ends. The results due land together, and what is not due stays in flight; of
several results for one scalar register, one lane of a vector register or one bit of a mask register the one of the highest
slot wins, of one slot the latest; of a lane the winner alone writes. Flags accumulate onto what `vflags` cleared or restored. -/
def Obligations.BundleEnds : Prop := Claims.BundleEnds

/-- R205: where a byte of the pool stands, and that two bytes of one context's pool never share a place; nor do granules of
different row groups, whatever the seeds. -/
def Obligations.PoolPlacement : Prop := Claims.PoolPlacement

/-- R13, R200 to R203: translation (that each element counts as one request is log 66, DEDUCED). -/
def Obligations.Translation : Prop := Claims.Walks ∧ Claims.WalksComplete

/-- R54, R103, R192, R195, R197, R198, R207, R210: loads arrive. -/
def Obligations.Loads : Prop := Claims.LoadValues ∧ Claims.LoadArrivals ∧ Claims.LoadedBytes

/-- R104, R192, R195, R197, R198, R209, R211, R214, R227, R230, R231, R234: stores. -/
def Obligations.Stores : Prop :=
  Claims.WritesPerformed ∧ Claims.CacheVictims ∧ Claims.StoresOfElements ∧ Claims.Writebacks ∧ Claims.BlockWrittenBack

/-- R192, R215 to R217, R239: atomics at memory. -/
def Obligations.AtomicsExecuted : Prop := Claims.AtomicExecutions ∧ Claims.AtomicBounces

/-- R262, R263, R333, R338, R339: what the host submits (where the index words of a ring stand, and that the running graph takes a place of its queue, are the model's, logs 79 and 59). -/
def Obligations.Submission : Prop :=
  Claims.QueueRegisters ∧ Claims.Doorbells ∧ Claims.Cancels ∧ Claims.CopyRequests ∧ Claims.RingResumes

/-- R203, R207, R262, R263, R335 to R341: graphs (the order of findings, waiting on a moving page and a header that fails ECC are the model's, logs 59, 46, 75). -/
def Obligations.Graphs : Prop :=
  Claims.GraphStarts ∧ Claims.ControlNodes ∧ Claims.WaitNodes ∧ Claims.CopyNodes ∧ Claims.PhaseNodes

/-- R41, R95, R115, R116, R193, R206, R234, R284, R286, R319, R333, R334, R343: tasks (what a context change does at the cores, and the return of banks, are the model's, logs 45, 64). -/
def Obligations.Tasks : Prop := Claims.TaskStarts ∧ Claims.TaskEnds ∧ Claims.ContextChanges

/-- R15, R16, R343 to R345: the governor and the meters. -/
def Obligations.Governance : Prop := Claims.Leaves ∧ Claims.TripsAndMeters

/-- R17, R207, R338, R344, R346, R353 to R355: the mailbox (the form of the arguments, the order of results, links and widths, new meters, and ways that no partition or a smaller one holds are the model's, logs 15, 32, 34, 23, 95, 88). -/
def Obligations.Mailbox : Prop :=
  Claims.Tables ∧ Claims.PartitionCommands ∧ Claims.SettingCommands ∧ Claims.CommandBlocks ∧ Claims.RegisterWrites

/-- R199, R201, R203, R206, R239, R263, R303, R307, R310, R329, R338, R339: the control OS (steps of a migration, bounds and cores of mapx and refused creations are the model's, logs 28, 29, 83, 81, 40, 48). -/
def Obligations.ControlOs : Prop := Claims.ContextLife ∧ Claims.Migrations ∧ Claims.Installs ∧ Claims.LinkChanges

/-- R201, R203, R329 to R331, R345: the fabric (payloads, link control, the reduced width and the context of a remote access are the model's, logs 24, 26, 35, 36, 37). -/
def Obligations.Fabric : Prop :=
  Claims.FlitEncoding ∧ Claims.FlitReceipt ∧ Claims.WaitingAccesses ∧ Claims.FlitControl

/-- R20, R349 to R352: boot and attestation (the codes of the responses, the form of the manifest and the bytes signed are the model's, logs 38, 30 and 13). -/
def Obligations.Boot : Prop := Claims.Certificates ∧ Claims.Booting ∧ Claims.Attestation

/-- R41, R46, R47, R108, R270: results in flight, and the registers that are constant. -/
def Obligations.ResultsInFlight : Prop := Claims.ResultCarried ∧ Claims.ConstantRegisters

/-- R75, R207, R265 to R269: faults and traps; R64, R71, R73, R273, R276, R279, R289: legality. -/
def Obligations.FaultsTaken : Prop := Claims.CheckOrder ∧ Claims.ChecksTaken ∧ Claims.Legality

/-- The machine right after reset: what the spec states of it (R10, R41, R194, R349), with nothing listed in any memory; every
register for which the spec gives no reset value reads 0 but `ctl.feat`, which holds every defined bit (the model's choice,
log 4). -/
def Obligations.Reset : Prop := Claims.Reset

/-- Every memory keeps its canonical form in every step, so that equal contents are equal data. -/
def Obligations.StepKeepsMemory : Prop := Claims.StepKeepsMemory

/-- No row ever stops the machine: every row of the opcode table answers a next state in every state, faults and traps of the
spec among them; so does every step. -/
def Obligations.NothingStops : Prop := Claims.NothingStops

/-- R66 to R74, R136, R148, R289: the encoder's word of every well-formed operation decodes to that operation, in the class of
slots it stands in, and every word that decodes gives a well-formed operation. -/
def Obligations.EncodeDecode : Prop := Claims.EncodeDecode

/-- R46, R75: when the open bundle of the acting core has a slot to run whose word decodes to i, the step is i in that slot,
with the slot taken from what is left to run; nothing else is added. A row of the bundle that has no word runs in the same
way, as slot 8. -/
def Obligations.StepRunsDecoded : Prop := Claims.StepRunsDecoded

/-- R62, R65 to R71, R289: a few words, written out field by field from the spec's formats, decode to their operations; the
last is the word that R289 gives for `bmap f3, f4`. -/
def Obligations.DecodedWords : Prop := Claims.DecodedWords

end
end

