-- ==== Sys2Proof/Laws/Memory.lean ====
section
/-! SUPPORT. Storage: reading after writing, and the canonical form of byte memory, which every write keeps. -/

namespace Sys2Proof.Machine

/-! Reading a store after a change. -/

@[simp] theorem find?_put_same {α : Type} (k : Nat) (v : α) (st : Store α) : find? k (put k v st) = some v := by
  induction st with
  | nil => simp [put, find?]
  | cons p r ih =>
    obtain ⟨j, w⟩ := p
    simp only [put]
    split
    · simp [find?]
    · split
      · simp [find?]
      · rename_i hne
        simp [find?, hne, ih]

theorem find?_put_ne {α : Type} {j k : Nat} (h : j ≠ k) (v : α) (st : Store α) : find? j (put k v st) = find? j st := by
  induction st with
  | nil => simp [put, find?, h]
  | cons p r ih =>
    obtain ⟨i, w⟩ := p
    simp only [put]
    split
    · simp [find?, h]
    · split
      · rename_i hki
        subst hki
        simp [find?, h]
      · simp only [find?, ih]

@[simp] theorem find_put_same {α : Type} (d : α) (k : Nat) (v : α) (st : Store α) : find d k (put k v st) = v := by
  simp [find]

theorem find_put_ne {α : Type} (d : α) {j k : Nat} (h : j ≠ k) (v : α) (st : Store α) :
    find d j (put k v st) = find d j st := by
  simp [find, find?_put_ne h]

@[simp] theorem put_put {α : Type} (k : Nat) (v w : α) (st : Store α) : put k v (put k w st) = put k v st := by
  induction st with
  | nil => simp [put]
  | cons p r ih =>
    obtain ⟨i, x⟩ := p
    by_cases h1 : k < i
    · simp [put, h1]
    · by_cases h2 : k = i
      · subst h2; simp [put]
      · simp [put, h1, h2, ih]

theorem find?_drop_same {α : Type} (k : Nat) (st : Store α) : find? k (drop k st) = none := by
  induction st with
  | nil => rfl
  | cons p r ih =>
    obtain ⟨i, w⟩ := p
    by_cases h : i = k
    · subst h; simpa [drop] using ih
    · have h' : k ≠ i := fun e => h e.symm
      simp only [drop, List.filter_cons, bne_iff_ne, ne_eq, h, not_false_eq_true, if_true, find?, h', if_false]
      exact ih

theorem find?_drop_ne {α : Type} {j k : Nat} (h : j ≠ k) (st : Store α) : find? j (drop k st) = find? j st := by
  induction st with
  | nil => rfl
  | cons p r ih =>
    obtain ⟨i, w⟩ := p
    by_cases hi : i = k
    · subst hi
      simp only [drop, List.filter_cons, bne_self_eq_false, find?, h, if_false]
      exact ih
    · simp only [drop, List.filter_cons, bne_iff_ne, ne_eq, hi, not_false_eq_true, if_true, find?]
      split
      · rfl
      · exact ih

/-! Byte memory (R2, R227). -/

@[simp] theorem readByte_writeByte_same (m : Memory) (a : Nat) (b : Byte) : readByte (writeByte m a b) a = b := by
  by_cases h : b = unlistedByte
  · simp [readByte, writeByte, h, find, find?_drop_same]
  · simp [readByte, writeByte, h]

theorem readByte_writeByte_ne (m : Memory) {a x : Nat} (h : x ≠ a) (b : Byte) :
    readByte (writeByte m a b) x = readByte m x := by
  by_cases hb : b = unlistedByte
  · simp [readByte, writeByte, hb, find, find?_drop_ne h]
  · simp [readByte, writeByte, hb, find_put_ne _ h]

/-- Every byte outside the written range reads as before. -/
theorem readByte_writeBytes_outside (bs : List Byte) (m : Memory) (a x : Nat) (h : x < a ∨ a + bs.length ≤ x) :
    readByte (writeBytes m a bs) x = readByte m x := by
  induction bs generalizing m a with
  | nil => rfl
  | cons b r ih =>
    simp only [List.length_cons] at h
    rw [writeBytes, ih _ _ (by omega), readByte_writeByte_ne _ (by omega)]

/-- Byte i of the written range reads as the byte written there. -/
theorem readByte_writeBytes_inside (bs : List Byte) (m : Memory) (a i : Nat) (h : i < bs.length) :
    readByte (writeBytes m a bs) (a + i) = bs[i] := by
  induction bs generalizing m a i with
  | nil => simp at h
  | cons b r ih =>
    cases i with
    | zero => rw [writeBytes, readByte_writeBytes_outside _ _ _ _ (by omega)]; simp
    | succ i =>
      have := ih (writeByte m a b) (a + 1) i (by simpa using h)
      rw [writeBytes, show a + (i + 1) = a + 1 + i by omega, this]
      simp

theorem readBytes_writeBytes (bs : List Byte) (m : Memory) (a : Nat) :
    readBytes (writeBytes m a bs) a bs.length = bs := by
  apply List.ext_getElem
  · simp [readBytes]
  · intro i h1 h2
    simp [readBytes, readByte_writeBytes_inside bs m a i h2]

/-! The canonical form. -/

theorem risingFrom_mono {α : Type} (st : List (Nat × α)) {n k : Nat} (h : n ≤ k) (w : risingFrom k st = true) :
    risingFrom n st = true := by
  cases st with
  | nil => rfl
  | cons p r =>
    obtain ⟨j, x⟩ := p
    simp only [risingFrom, Bool.and_eq_true, decide_eq_true_eq] at w ⊢
    exact ⟨by omega, w.2⟩

theorem risingFrom_put {α : Type} (st : Store α) {n k : Nat} (v : α) (h : n ≤ k) (w : risingFrom n st = true) :
    risingFrom n (put k v st) = true := by
  induction st generalizing n with
  | nil => simp [put, risingFrom, h]
  | cons p r ih =>
    obtain ⟨j, x⟩ := p
    simp only [risingFrom, Bool.and_eq_true, decide_eq_true_eq] at w
    simp only [put]
    split
    · rename_i hk
      simp only [risingFrom, Bool.and_eq_true, decide_eq_true_eq]
      exact ⟨h, by omega, w.2⟩
    · split
      · rename_i hk
        subst hk
        simp only [risingFrom, Bool.and_eq_true, decide_eq_true_eq]
        exact ⟨h, w.2⟩
      · simp only [risingFrom, Bool.and_eq_true, decide_eq_true_eq]
        exact ⟨w.1, ih (by omega) w.2⟩

theorem risingFrom_filter {α : Type} (st : List (Nat × α)) (f : Nat × α → Bool) {n : Nat}
    (w : risingFrom n st = true) : risingFrom n (st.filter f) = true := by
  induction st generalizing n with
  | nil => rfl
  | cons p r ih =>
    obtain ⟨j, x⟩ := p
    simp only [risingFrom, Bool.and_eq_true, decide_eq_true_eq] at w
    simp only [List.filter_cons]
    split
    · simp only [risingFrom, Bool.and_eq_true, decide_eq_true_eq]
      exact ⟨w.1, ih w.2⟩
    · exact ih (risingFrom_mono r (by omega) w.2)

theorem Memory.wf_nil : Memory.wf [] = true := rfl

theorem Memory.wf_filter (m : Memory) (f : Host.Cell → Bool) (w : m.wf = true) : Memory.wf (m.filter f) = true := by
  simp only [Memory.wf, Bool.and_eq_true, List.all_eq_true] at w ⊢
  exact ⟨risingFrom_filter m f w.1, fun c hc => w.2 c (List.mem_filter.mp hc).1⟩

theorem mem_put {α : Type} (k : Nat) (v : α) (st : Store α) (p : Nat × α) (h : p ∈ put k v st) :
    p = (k, v) ∨ p ∈ st := by
  induction st with
  | nil => simpa [put] using h
  | cons q r ih =>
    obtain ⟨j, x⟩ := q
    simp only [put] at h
    split at h
    · simpa using h
    · split at h
      · rcases List.mem_cons.mp h with h | h
        · exact Or.inl h
        · exact Or.inr (List.mem_cons_of_mem _ h)
      · rcases List.mem_cons.mp h with h | h
        · exact Or.inr (h ▸ List.mem_cons_self ..)
        · rcases ih h with h | h
          · exact Or.inl h
          · exact Or.inr (List.mem_cons_of_mem _ h)

theorem Memory.wf_writeByte (m : Memory) (a : Nat) (b : Byte) (w : m.wf = true) : Memory.wf (writeByte m a b) = true := by
  unfold writeByte
  split
  · exact Memory.wf_filter m _ w
  · rename_i hb
    simp only [Memory.wf, Bool.and_eq_true, List.all_eq_true] at w ⊢
    refine ⟨risingFrom_put m b (Nat.zero_le a) w.1, fun c hc => ?_⟩
    rcases mem_put a b m c hc with rfl | hc
    · simpa using hb
    · exact w.2 c hc

theorem Memory.wf_writeBytes (bs : List Byte) (m : Memory) (a : Nat) (w : m.wf = true) :
    Memory.wf (writeBytes m a bs) = true := by
  induction bs generalizing m a with
  | nil => exact w
  | cons b r ih => exact ih _ _ (Memory.wf_writeByte m a b w)

/-- No entry stands below the first address. -/
theorem Memory.find?_below (m : Memory) {n k : Nat} (w : risingFrom n m = true) (h : k < n) : find? k m = none := by
  induction m generalizing n with
  | nil => rfl
  | cons p r ih =>
    obtain ⟨j, x⟩ := p
    simp only [risingFrom, Bool.and_eq_true, decide_eq_true_eq] at w
    simp only [find?]
    split
    · omega
    · exact ih w.2 (by omega)

end Sys2Proof.Machine
end

