-- ==== Sys2Proof/Laws/State.lean ====
section
/-! SUPPORT. The fields of the state after each update of it, true by the definition, and the acting core after a change. -/

namespace Sys2Proof.Machine

/-! Fields that an update of one part leaves as they are. -/

@[simp] theorem State.setCoreAt_clusters (s : State) (n : Nat) (c : Core) : (s.setCoreAt n c).clusters = s.clusters := rfl
@[simp] theorem State.setCoreAt_dies (s : State) (n : Nat) (c : Core) : (s.setCoreAt n c).dies = s.dies := rfl
@[simp] theorem State.setCoreAt_mem (s : State) (n : Nat) (c : Core) : (s.setCoreAt n c).mem = s.mem := rfl
@[simp] theorem State.setCoreAt_keyTag (s : State) (n : Nat) (c : Core) : (s.setCoreAt n c).keyTag = s.keyTag := rfl
@[simp] theorem State.setCoreAt_bad (s : State) (n : Nat) (c : Core) : (s.setCoreAt n c).bad = s.bad := rfl
@[simp] theorem State.setCoreAt_cellar (s : State) (n : Nat) (c : Core) : (s.setCoreAt n c).cellar = s.cellar := rfl
@[simp] theorem State.setCoreAt_l2 (s : State) (n : Nat) (c : Core) : (s.setCoreAt n c).l2 = s.l2 := rfl
@[simp] theorem State.setCoreAt_hostMem (s : State) (n : Nat) (c : Core) : (s.setCoreAt n c).hostMem = s.hostMem := rfl
@[simp] theorem State.setCoreAt_contexts (s : State) (n : Nat) (c : Core) : (s.setCoreAt n c).contexts = s.contexts := rfl
@[simp] theorem State.setCoreAt_fe (s : State) (n : Nat) (c : Core) : (s.setCoreAt n c).fe = s.fe := rfl
@[simp] theorem State.setCoreAt_gov (s : State) (n : Nat) (c : Core) : (s.setCoreAt n c).gov = s.gov := rfl
@[simp] theorem State.setCoreAt_mgmt (s : State) (n : Nat) (c : Core) : (s.setCoreAt n c).mgmt = s.mgmt := rfl
@[simp] theorem State.setCoreAt_ports (s : State) (n : Nat) (c : Core) : (s.setCoreAt n c).ports = s.ports := rfl
@[simp] theorem State.setCoreAt_boot (s : State) (n : Nat) (c : Core) : (s.setCoreAt n c).boot = s.boot := rfl
@[simp] theorem State.setCoreAt_spdm (s : State) (n : Nat) (c : Core) : (s.setCoreAt n c).spdm = s.spdm := rfl
@[simp] theorem State.setCoreAt_colls (s : State) (n : Nat) (c : Core) : (s.setCoreAt n c).colls = s.colls := rfl
@[simp] theorem State.setCoreAt_remote (s : State) (n : Nat) (c : Core) : (s.setCoreAt n c).remote = s.remote := rfl
@[simp] theorem State.setCoreAt_records (s : State) (n : Nat) (c : Core) : (s.setCoreAt n c).records = s.records := rfl
@[simp] theorem State.setCoreAt_migrations (s : State) (n : Nat) (c : Core) : (s.setCoreAt n c).migrations = s.migrations := rfl
@[simp] theorem State.setCoreAt_mapxCalls (s : State) (n : Nat) (c : Core) : (s.setCoreAt n c).mapxCalls = s.mapxCalls := rfl
@[simp] theorem State.setCoreAt_moduleNo (s : State) (n : Nat) (c : Core) : (s.setCoreAt n c).moduleNo = s.moduleNo := rfl
@[simp] theorem State.setCoreAt_reach (s : State) (n : Nat) (c : Core) : (s.setCoreAt n c).reach = s.reach := rfl
@[simp] theorem State.setCoreAt_tick (s : State) (n : Nat) (c : Core) : (s.setCoreAt n c).tick = s.tick := rfl
@[simp] theorem State.setCoreAt_cur (s : State) (n : Nat) (c : Core) : (s.setCoreAt n c).cur = s.cur := rfl
@[simp] theorem State.setCoreAt_turn (s : State) (n : Nat) (c : Core) : (s.setCoreAt n c).turn = s.turn := rfl
@[simp] theorem State.setCoreAt_acted (s : State) (n : Nat) (c : Core) : (s.setCoreAt n c).acted = s.acted := rfl
@[simp] theorem State.setCoreAt_ended (s : State) (n : Nat) (c : Core) : (s.setCoreAt n c).ended = s.ended := rfl
@[simp] theorem State.setCoreAt_closing (s : State) (n : Nat) (c : Core) : (s.setCoreAt n c).closing = s.closing := rfl
@[simp] theorem State.setCoreAt_due (s : State) (n : Nat) (c : Core) : (s.setCoreAt n c).due = s.due := rfl
@[simp] theorem State.setCoreAt_inputs (s : State) (n : Nat) (c : Core) : (s.setCoreAt n c).inputs = s.inputs := rfl
@[simp] theorem State.setCoreAt_req (s : State) (n : Nat) (c : Core) : (s.setCoreAt n c).req = s.req := rfl
@[simp] theorem State.setCoreAt_free (s : State) (n : Nat) (c : Core) : (s.setCoreAt n c).free = s.free := rfl
@[simp] theorem State.setClusterAt_cores (s : State) (n : Nat) (c : Cluster) : (s.setClusterAt n c).cores = s.cores := rfl
@[simp] theorem State.setClusterAt_dies (s : State) (n : Nat) (c : Cluster) : (s.setClusterAt n c).dies = s.dies := rfl
@[simp] theorem State.setClusterAt_mem (s : State) (n : Nat) (c : Cluster) : (s.setClusterAt n c).mem = s.mem := rfl
@[simp] theorem State.setClusterAt_keyTag (s : State) (n : Nat) (c : Cluster) : (s.setClusterAt n c).keyTag = s.keyTag := rfl
@[simp] theorem State.setClusterAt_bad (s : State) (n : Nat) (c : Cluster) : (s.setClusterAt n c).bad = s.bad := rfl
@[simp] theorem State.setClusterAt_cellar (s : State) (n : Nat) (c : Cluster) : (s.setClusterAt n c).cellar = s.cellar := rfl
@[simp] theorem State.setClusterAt_l2 (s : State) (n : Nat) (c : Cluster) : (s.setClusterAt n c).l2 = s.l2 := rfl
@[simp] theorem State.setClusterAt_hostMem (s : State) (n : Nat) (c : Cluster) : (s.setClusterAt n c).hostMem = s.hostMem := rfl
@[simp] theorem State.setClusterAt_contexts (s : State) (n : Nat) (c : Cluster) : (s.setClusterAt n c).contexts = s.contexts := rfl
@[simp] theorem State.setClusterAt_fe (s : State) (n : Nat) (c : Cluster) : (s.setClusterAt n c).fe = s.fe := rfl
@[simp] theorem State.setClusterAt_gov (s : State) (n : Nat) (c : Cluster) : (s.setClusterAt n c).gov = s.gov := rfl
@[simp] theorem State.setClusterAt_mgmt (s : State) (n : Nat) (c : Cluster) : (s.setClusterAt n c).mgmt = s.mgmt := rfl
@[simp] theorem State.setClusterAt_ports (s : State) (n : Nat) (c : Cluster) : (s.setClusterAt n c).ports = s.ports := rfl
@[simp] theorem State.setClusterAt_boot (s : State) (n : Nat) (c : Cluster) : (s.setClusterAt n c).boot = s.boot := rfl
@[simp] theorem State.setClusterAt_spdm (s : State) (n : Nat) (c : Cluster) : (s.setClusterAt n c).spdm = s.spdm := rfl
@[simp] theorem State.setClusterAt_colls (s : State) (n : Nat) (c : Cluster) : (s.setClusterAt n c).colls = s.colls := rfl
@[simp] theorem State.setClusterAt_remote (s : State) (n : Nat) (c : Cluster) : (s.setClusterAt n c).remote = s.remote := rfl
@[simp] theorem State.setClusterAt_records (s : State) (n : Nat) (c : Cluster) : (s.setClusterAt n c).records = s.records := rfl
@[simp] theorem State.setClusterAt_migrations (s : State) (n : Nat) (c : Cluster) : (s.setClusterAt n c).migrations = s.migrations := rfl
@[simp] theorem State.setClusterAt_mapxCalls (s : State) (n : Nat) (c : Cluster) : (s.setClusterAt n c).mapxCalls = s.mapxCalls := rfl
@[simp] theorem State.setClusterAt_moduleNo (s : State) (n : Nat) (c : Cluster) : (s.setClusterAt n c).moduleNo = s.moduleNo := rfl
@[simp] theorem State.setClusterAt_reach (s : State) (n : Nat) (c : Cluster) : (s.setClusterAt n c).reach = s.reach := rfl
@[simp] theorem State.setClusterAt_tick (s : State) (n : Nat) (c : Cluster) : (s.setClusterAt n c).tick = s.tick := rfl
@[simp] theorem State.setClusterAt_cur (s : State) (n : Nat) (c : Cluster) : (s.setClusterAt n c).cur = s.cur := rfl
@[simp] theorem State.setClusterAt_turn (s : State) (n : Nat) (c : Cluster) : (s.setClusterAt n c).turn = s.turn := rfl
@[simp] theorem State.setClusterAt_acted (s : State) (n : Nat) (c : Cluster) : (s.setClusterAt n c).acted = s.acted := rfl
@[simp] theorem State.setClusterAt_ended (s : State) (n : Nat) (c : Cluster) : (s.setClusterAt n c).ended = s.ended := rfl
@[simp] theorem State.setClusterAt_closing (s : State) (n : Nat) (c : Cluster) : (s.setClusterAt n c).closing = s.closing := rfl
@[simp] theorem State.setClusterAt_due (s : State) (n : Nat) (c : Cluster) : (s.setClusterAt n c).due = s.due := rfl
@[simp] theorem State.setClusterAt_inputs (s : State) (n : Nat) (c : Cluster) : (s.setClusterAt n c).inputs = s.inputs := rfl
@[simp] theorem State.setClusterAt_req (s : State) (n : Nat) (c : Cluster) : (s.setClusterAt n c).req = s.req := rfl
@[simp] theorem State.setClusterAt_free (s : State) (n : Nat) (c : Cluster) : (s.setClusterAt n c).free = s.free := rfl
@[simp] theorem State.setDieAt_cores (s : State) (n : Nat) (d : Die) : (s.setDieAt n d).cores = s.cores := rfl
@[simp] theorem State.setDieAt_clusters (s : State) (n : Nat) (d : Die) : (s.setDieAt n d).clusters = s.clusters := rfl
@[simp] theorem State.setDieAt_mem (s : State) (n : Nat) (d : Die) : (s.setDieAt n d).mem = s.mem := rfl
@[simp] theorem State.setDieAt_keyTag (s : State) (n : Nat) (d : Die) : (s.setDieAt n d).keyTag = s.keyTag := rfl
@[simp] theorem State.setDieAt_bad (s : State) (n : Nat) (d : Die) : (s.setDieAt n d).bad = s.bad := rfl
@[simp] theorem State.setDieAt_cellar (s : State) (n : Nat) (d : Die) : (s.setDieAt n d).cellar = s.cellar := rfl
@[simp] theorem State.setDieAt_l2 (s : State) (n : Nat) (d : Die) : (s.setDieAt n d).l2 = s.l2 := rfl
@[simp] theorem State.setDieAt_hostMem (s : State) (n : Nat) (d : Die) : (s.setDieAt n d).hostMem = s.hostMem := rfl
@[simp] theorem State.setDieAt_contexts (s : State) (n : Nat) (d : Die) : (s.setDieAt n d).contexts = s.contexts := rfl
@[simp] theorem State.setDieAt_fe (s : State) (n : Nat) (d : Die) : (s.setDieAt n d).fe = s.fe := rfl
@[simp] theorem State.setDieAt_gov (s : State) (n : Nat) (d : Die) : (s.setDieAt n d).gov = s.gov := rfl
@[simp] theorem State.setDieAt_mgmt (s : State) (n : Nat) (d : Die) : (s.setDieAt n d).mgmt = s.mgmt := rfl
@[simp] theorem State.setDieAt_ports (s : State) (n : Nat) (d : Die) : (s.setDieAt n d).ports = s.ports := rfl
@[simp] theorem State.setDieAt_boot (s : State) (n : Nat) (d : Die) : (s.setDieAt n d).boot = s.boot := rfl
@[simp] theorem State.setDieAt_spdm (s : State) (n : Nat) (d : Die) : (s.setDieAt n d).spdm = s.spdm := rfl
@[simp] theorem State.setDieAt_colls (s : State) (n : Nat) (d : Die) : (s.setDieAt n d).colls = s.colls := rfl
@[simp] theorem State.setDieAt_remote (s : State) (n : Nat) (d : Die) : (s.setDieAt n d).remote = s.remote := rfl
@[simp] theorem State.setDieAt_records (s : State) (n : Nat) (d : Die) : (s.setDieAt n d).records = s.records := rfl
@[simp] theorem State.setDieAt_migrations (s : State) (n : Nat) (d : Die) : (s.setDieAt n d).migrations = s.migrations := rfl
@[simp] theorem State.setDieAt_mapxCalls (s : State) (n : Nat) (d : Die) : (s.setDieAt n d).mapxCalls = s.mapxCalls := rfl
@[simp] theorem State.setDieAt_moduleNo (s : State) (n : Nat) (d : Die) : (s.setDieAt n d).moduleNo = s.moduleNo := rfl
@[simp] theorem State.setDieAt_reach (s : State) (n : Nat) (d : Die) : (s.setDieAt n d).reach = s.reach := rfl
@[simp] theorem State.setDieAt_tick (s : State) (n : Nat) (d : Die) : (s.setDieAt n d).tick = s.tick := rfl
@[simp] theorem State.setDieAt_cur (s : State) (n : Nat) (d : Die) : (s.setDieAt n d).cur = s.cur := rfl
@[simp] theorem State.setDieAt_turn (s : State) (n : Nat) (d : Die) : (s.setDieAt n d).turn = s.turn := rfl
@[simp] theorem State.setDieAt_acted (s : State) (n : Nat) (d : Die) : (s.setDieAt n d).acted = s.acted := rfl
@[simp] theorem State.setDieAt_ended (s : State) (n : Nat) (d : Die) : (s.setDieAt n d).ended = s.ended := rfl
@[simp] theorem State.setDieAt_closing (s : State) (n : Nat) (d : Die) : (s.setDieAt n d).closing = s.closing := rfl
@[simp] theorem State.setDieAt_due (s : State) (n : Nat) (d : Die) : (s.setDieAt n d).due = s.due := rfl
@[simp] theorem State.setDieAt_inputs (s : State) (n : Nat) (d : Die) : (s.setDieAt n d).inputs = s.inputs := rfl
@[simp] theorem State.setDieAt_req (s : State) (n : Nat) (d : Die) : (s.setDieAt n d).req = s.req := rfl
@[simp] theorem State.setDieAt_free (s : State) (n : Nat) (d : Die) : (s.setDieAt n d).free = s.free := rfl
@[simp] theorem State.setCtxAt_cores (s : State) (n : Nat) (c : Context) : (s.setCtxAt n c).cores = s.cores := rfl
@[simp] theorem State.setCtxAt_clusters (s : State) (n : Nat) (c : Context) : (s.setCtxAt n c).clusters = s.clusters := rfl
@[simp] theorem State.setCtxAt_dies (s : State) (n : Nat) (c : Context) : (s.setCtxAt n c).dies = s.dies := rfl
@[simp] theorem State.setCtxAt_mem (s : State) (n : Nat) (c : Context) : (s.setCtxAt n c).mem = s.mem := rfl
@[simp] theorem State.setCtxAt_keyTag (s : State) (n : Nat) (c : Context) : (s.setCtxAt n c).keyTag = s.keyTag := rfl
@[simp] theorem State.setCtxAt_bad (s : State) (n : Nat) (c : Context) : (s.setCtxAt n c).bad = s.bad := rfl
@[simp] theorem State.setCtxAt_cellar (s : State) (n : Nat) (c : Context) : (s.setCtxAt n c).cellar = s.cellar := rfl
@[simp] theorem State.setCtxAt_l2 (s : State) (n : Nat) (c : Context) : (s.setCtxAt n c).l2 = s.l2 := rfl
@[simp] theorem State.setCtxAt_hostMem (s : State) (n : Nat) (c : Context) : (s.setCtxAt n c).hostMem = s.hostMem := rfl
@[simp] theorem State.setCtxAt_fe (s : State) (n : Nat) (c : Context) : (s.setCtxAt n c).fe = s.fe := rfl
@[simp] theorem State.setCtxAt_gov (s : State) (n : Nat) (c : Context) : (s.setCtxAt n c).gov = s.gov := rfl
@[simp] theorem State.setCtxAt_mgmt (s : State) (n : Nat) (c : Context) : (s.setCtxAt n c).mgmt = s.mgmt := rfl
@[simp] theorem State.setCtxAt_ports (s : State) (n : Nat) (c : Context) : (s.setCtxAt n c).ports = s.ports := rfl
@[simp] theorem State.setCtxAt_boot (s : State) (n : Nat) (c : Context) : (s.setCtxAt n c).boot = s.boot := rfl
@[simp] theorem State.setCtxAt_spdm (s : State) (n : Nat) (c : Context) : (s.setCtxAt n c).spdm = s.spdm := rfl
@[simp] theorem State.setCtxAt_colls (s : State) (n : Nat) (c : Context) : (s.setCtxAt n c).colls = s.colls := rfl
@[simp] theorem State.setCtxAt_remote (s : State) (n : Nat) (c : Context) : (s.setCtxAt n c).remote = s.remote := rfl
@[simp] theorem State.setCtxAt_records (s : State) (n : Nat) (c : Context) : (s.setCtxAt n c).records = s.records := rfl
@[simp] theorem State.setCtxAt_migrations (s : State) (n : Nat) (c : Context) : (s.setCtxAt n c).migrations = s.migrations := rfl
@[simp] theorem State.setCtxAt_mapxCalls (s : State) (n : Nat) (c : Context) : (s.setCtxAt n c).mapxCalls = s.mapxCalls := rfl
@[simp] theorem State.setCtxAt_moduleNo (s : State) (n : Nat) (c : Context) : (s.setCtxAt n c).moduleNo = s.moduleNo := rfl
@[simp] theorem State.setCtxAt_reach (s : State) (n : Nat) (c : Context) : (s.setCtxAt n c).reach = s.reach := rfl
@[simp] theorem State.setCtxAt_tick (s : State) (n : Nat) (c : Context) : (s.setCtxAt n c).tick = s.tick := rfl
@[simp] theorem State.setCtxAt_cur (s : State) (n : Nat) (c : Context) : (s.setCtxAt n c).cur = s.cur := rfl
@[simp] theorem State.setCtxAt_turn (s : State) (n : Nat) (c : Context) : (s.setCtxAt n c).turn = s.turn := rfl
@[simp] theorem State.setCtxAt_acted (s : State) (n : Nat) (c : Context) : (s.setCtxAt n c).acted = s.acted := rfl
@[simp] theorem State.setCtxAt_ended (s : State) (n : Nat) (c : Context) : (s.setCtxAt n c).ended = s.ended := rfl
@[simp] theorem State.setCtxAt_closing (s : State) (n : Nat) (c : Context) : (s.setCtxAt n c).closing = s.closing := rfl
@[simp] theorem State.setCtxAt_due (s : State) (n : Nat) (c : Context) : (s.setCtxAt n c).due = s.due := rfl
@[simp] theorem State.setCtxAt_inputs (s : State) (n : Nat) (c : Context) : (s.setCtxAt n c).inputs = s.inputs := rfl
@[simp] theorem State.setCtxAt_req (s : State) (n : Nat) (c : Context) : (s.setCtxAt n c).req = s.req := rfl
@[simp] theorem State.setCtxAt_free (s : State) (n : Nat) (c : Context) : (s.setCtxAt n c).free = s.free := rfl
@[simp] theorem State.modCore_clusters (s : State) (g : Core → Core) : (s.modCore g).clusters = s.clusters := rfl
@[simp] theorem State.modCore_dies (s : State) (g : Core → Core) : (s.modCore g).dies = s.dies := rfl
@[simp] theorem State.modCore_mem (s : State) (g : Core → Core) : (s.modCore g).mem = s.mem := rfl
@[simp] theorem State.modCore_keyTag (s : State) (g : Core → Core) : (s.modCore g).keyTag = s.keyTag := rfl
@[simp] theorem State.modCore_bad (s : State) (g : Core → Core) : (s.modCore g).bad = s.bad := rfl
@[simp] theorem State.modCore_cellar (s : State) (g : Core → Core) : (s.modCore g).cellar = s.cellar := rfl
@[simp] theorem State.modCore_l2 (s : State) (g : Core → Core) : (s.modCore g).l2 = s.l2 := rfl
@[simp] theorem State.modCore_hostMem (s : State) (g : Core → Core) : (s.modCore g).hostMem = s.hostMem := rfl
@[simp] theorem State.modCore_contexts (s : State) (g : Core → Core) : (s.modCore g).contexts = s.contexts := rfl
@[simp] theorem State.modCore_fe (s : State) (g : Core → Core) : (s.modCore g).fe = s.fe := rfl
@[simp] theorem State.modCore_gov (s : State) (g : Core → Core) : (s.modCore g).gov = s.gov := rfl
@[simp] theorem State.modCore_mgmt (s : State) (g : Core → Core) : (s.modCore g).mgmt = s.mgmt := rfl
@[simp] theorem State.modCore_ports (s : State) (g : Core → Core) : (s.modCore g).ports = s.ports := rfl
@[simp] theorem State.modCore_boot (s : State) (g : Core → Core) : (s.modCore g).boot = s.boot := rfl
@[simp] theorem State.modCore_spdm (s : State) (g : Core → Core) : (s.modCore g).spdm = s.spdm := rfl
@[simp] theorem State.modCore_colls (s : State) (g : Core → Core) : (s.modCore g).colls = s.colls := rfl
@[simp] theorem State.modCore_remote (s : State) (g : Core → Core) : (s.modCore g).remote = s.remote := rfl
@[simp] theorem State.modCore_records (s : State) (g : Core → Core) : (s.modCore g).records = s.records := rfl
@[simp] theorem State.modCore_migrations (s : State) (g : Core → Core) : (s.modCore g).migrations = s.migrations := rfl
@[simp] theorem State.modCore_mapxCalls (s : State) (g : Core → Core) : (s.modCore g).mapxCalls = s.mapxCalls := rfl
@[simp] theorem State.modCore_moduleNo (s : State) (g : Core → Core) : (s.modCore g).moduleNo = s.moduleNo := rfl
@[simp] theorem State.modCore_reach (s : State) (g : Core → Core) : (s.modCore g).reach = s.reach := rfl
@[simp] theorem State.modCore_tick (s : State) (g : Core → Core) : (s.modCore g).tick = s.tick := rfl
@[simp] theorem State.modCore_cur (s : State) (g : Core → Core) : (s.modCore g).cur = s.cur := rfl
@[simp] theorem State.modCore_turn (s : State) (g : Core → Core) : (s.modCore g).turn = s.turn := rfl
@[simp] theorem State.modCore_acted (s : State) (g : Core → Core) : (s.modCore g).acted = s.acted := rfl
@[simp] theorem State.modCore_ended (s : State) (g : Core → Core) : (s.modCore g).ended = s.ended := rfl
@[simp] theorem State.modCore_closing (s : State) (g : Core → Core) : (s.modCore g).closing = s.closing := rfl
@[simp] theorem State.modCore_due (s : State) (g : Core → Core) : (s.modCore g).due = s.due := rfl
@[simp] theorem State.modCore_inputs (s : State) (g : Core → Core) : (s.modCore g).inputs = s.inputs := rfl
@[simp] theorem State.modCore_req (s : State) (g : Core → Core) : (s.modCore g).req = s.req := rfl
@[simp] theorem State.modCore_free (s : State) (g : Core → Core) : (s.modCore g).free = s.free := rfl
@[simp] theorem State.modCoreAt_clusters (s : State) (n : Nat) (g : Core → Core) : (s.modCoreAt n g).clusters = s.clusters := rfl
@[simp] theorem State.modCoreAt_dies (s : State) (n : Nat) (g : Core → Core) : (s.modCoreAt n g).dies = s.dies := rfl
@[simp] theorem State.modCoreAt_mem (s : State) (n : Nat) (g : Core → Core) : (s.modCoreAt n g).mem = s.mem := rfl
@[simp] theorem State.modCoreAt_keyTag (s : State) (n : Nat) (g : Core → Core) : (s.modCoreAt n g).keyTag = s.keyTag := rfl
@[simp] theorem State.modCoreAt_bad (s : State) (n : Nat) (g : Core → Core) : (s.modCoreAt n g).bad = s.bad := rfl
@[simp] theorem State.modCoreAt_cellar (s : State) (n : Nat) (g : Core → Core) : (s.modCoreAt n g).cellar = s.cellar := rfl
@[simp] theorem State.modCoreAt_l2 (s : State) (n : Nat) (g : Core → Core) : (s.modCoreAt n g).l2 = s.l2 := rfl
@[simp] theorem State.modCoreAt_hostMem (s : State) (n : Nat) (g : Core → Core) : (s.modCoreAt n g).hostMem = s.hostMem := rfl
@[simp] theorem State.modCoreAt_contexts (s : State) (n : Nat) (g : Core → Core) : (s.modCoreAt n g).contexts = s.contexts := rfl
@[simp] theorem State.modCoreAt_fe (s : State) (n : Nat) (g : Core → Core) : (s.modCoreAt n g).fe = s.fe := rfl
@[simp] theorem State.modCoreAt_gov (s : State) (n : Nat) (g : Core → Core) : (s.modCoreAt n g).gov = s.gov := rfl
@[simp] theorem State.modCoreAt_mgmt (s : State) (n : Nat) (g : Core → Core) : (s.modCoreAt n g).mgmt = s.mgmt := rfl
@[simp] theorem State.modCoreAt_ports (s : State) (n : Nat) (g : Core → Core) : (s.modCoreAt n g).ports = s.ports := rfl
@[simp] theorem State.modCoreAt_boot (s : State) (n : Nat) (g : Core → Core) : (s.modCoreAt n g).boot = s.boot := rfl
@[simp] theorem State.modCoreAt_spdm (s : State) (n : Nat) (g : Core → Core) : (s.modCoreAt n g).spdm = s.spdm := rfl
@[simp] theorem State.modCoreAt_colls (s : State) (n : Nat) (g : Core → Core) : (s.modCoreAt n g).colls = s.colls := rfl
@[simp] theorem State.modCoreAt_remote (s : State) (n : Nat) (g : Core → Core) : (s.modCoreAt n g).remote = s.remote := rfl
@[simp] theorem State.modCoreAt_records (s : State) (n : Nat) (g : Core → Core) : (s.modCoreAt n g).records = s.records := rfl
@[simp] theorem State.modCoreAt_migrations (s : State) (n : Nat) (g : Core → Core) : (s.modCoreAt n g).migrations = s.migrations := rfl
@[simp] theorem State.modCoreAt_mapxCalls (s : State) (n : Nat) (g : Core → Core) : (s.modCoreAt n g).mapxCalls = s.mapxCalls := rfl
@[simp] theorem State.modCoreAt_moduleNo (s : State) (n : Nat) (g : Core → Core) : (s.modCoreAt n g).moduleNo = s.moduleNo := rfl
@[simp] theorem State.modCoreAt_reach (s : State) (n : Nat) (g : Core → Core) : (s.modCoreAt n g).reach = s.reach := rfl
@[simp] theorem State.modCoreAt_tick (s : State) (n : Nat) (g : Core → Core) : (s.modCoreAt n g).tick = s.tick := rfl
@[simp] theorem State.modCoreAt_cur (s : State) (n : Nat) (g : Core → Core) : (s.modCoreAt n g).cur = s.cur := rfl
@[simp] theorem State.modCoreAt_turn (s : State) (n : Nat) (g : Core → Core) : (s.modCoreAt n g).turn = s.turn := rfl
@[simp] theorem State.modCoreAt_acted (s : State) (n : Nat) (g : Core → Core) : (s.modCoreAt n g).acted = s.acted := rfl
@[simp] theorem State.modCoreAt_ended (s : State) (n : Nat) (g : Core → Core) : (s.modCoreAt n g).ended = s.ended := rfl
@[simp] theorem State.modCoreAt_closing (s : State) (n : Nat) (g : Core → Core) : (s.modCoreAt n g).closing = s.closing := rfl
@[simp] theorem State.modCoreAt_due (s : State) (n : Nat) (g : Core → Core) : (s.modCoreAt n g).due = s.due := rfl
@[simp] theorem State.modCoreAt_inputs (s : State) (n : Nat) (g : Core → Core) : (s.modCoreAt n g).inputs = s.inputs := rfl
@[simp] theorem State.modCoreAt_req (s : State) (n : Nat) (g : Core → Core) : (s.modCoreAt n g).req = s.req := rfl
@[simp] theorem State.modCoreAt_free (s : State) (n : Nat) (g : Core → Core) : (s.modCoreAt n g).free = s.free := rfl
@[simp] theorem State.modClusterAt_cores (s : State) (n : Nat) (g : Cluster → Cluster) : (s.modClusterAt n g).cores = s.cores := rfl
@[simp] theorem State.modClusterAt_dies (s : State) (n : Nat) (g : Cluster → Cluster) : (s.modClusterAt n g).dies = s.dies := rfl
@[simp] theorem State.modClusterAt_mem (s : State) (n : Nat) (g : Cluster → Cluster) : (s.modClusterAt n g).mem = s.mem := rfl
@[simp] theorem State.modClusterAt_keyTag (s : State) (n : Nat) (g : Cluster → Cluster) : (s.modClusterAt n g).keyTag = s.keyTag := rfl
@[simp] theorem State.modClusterAt_bad (s : State) (n : Nat) (g : Cluster → Cluster) : (s.modClusterAt n g).bad = s.bad := rfl
@[simp] theorem State.modClusterAt_cellar (s : State) (n : Nat) (g : Cluster → Cluster) : (s.modClusterAt n g).cellar = s.cellar := rfl
@[simp] theorem State.modClusterAt_l2 (s : State) (n : Nat) (g : Cluster → Cluster) : (s.modClusterAt n g).l2 = s.l2 := rfl
@[simp] theorem State.modClusterAt_hostMem (s : State) (n : Nat) (g : Cluster → Cluster) : (s.modClusterAt n g).hostMem = s.hostMem := rfl
@[simp] theorem State.modClusterAt_contexts (s : State) (n : Nat) (g : Cluster → Cluster) : (s.modClusterAt n g).contexts = s.contexts := rfl
@[simp] theorem State.modClusterAt_fe (s : State) (n : Nat) (g : Cluster → Cluster) : (s.modClusterAt n g).fe = s.fe := rfl
@[simp] theorem State.modClusterAt_gov (s : State) (n : Nat) (g : Cluster → Cluster) : (s.modClusterAt n g).gov = s.gov := rfl
@[simp] theorem State.modClusterAt_mgmt (s : State) (n : Nat) (g : Cluster → Cluster) : (s.modClusterAt n g).mgmt = s.mgmt := rfl
@[simp] theorem State.modClusterAt_ports (s : State) (n : Nat) (g : Cluster → Cluster) : (s.modClusterAt n g).ports = s.ports := rfl
@[simp] theorem State.modClusterAt_boot (s : State) (n : Nat) (g : Cluster → Cluster) : (s.modClusterAt n g).boot = s.boot := rfl
@[simp] theorem State.modClusterAt_spdm (s : State) (n : Nat) (g : Cluster → Cluster) : (s.modClusterAt n g).spdm = s.spdm := rfl
@[simp] theorem State.modClusterAt_colls (s : State) (n : Nat) (g : Cluster → Cluster) : (s.modClusterAt n g).colls = s.colls := rfl
@[simp] theorem State.modClusterAt_remote (s : State) (n : Nat) (g : Cluster → Cluster) : (s.modClusterAt n g).remote = s.remote := rfl
@[simp] theorem State.modClusterAt_records (s : State) (n : Nat) (g : Cluster → Cluster) : (s.modClusterAt n g).records = s.records := rfl
@[simp] theorem State.modClusterAt_migrations (s : State) (n : Nat) (g : Cluster → Cluster) : (s.modClusterAt n g).migrations = s.migrations := rfl
@[simp] theorem State.modClusterAt_mapxCalls (s : State) (n : Nat) (g : Cluster → Cluster) : (s.modClusterAt n g).mapxCalls = s.mapxCalls := rfl
@[simp] theorem State.modClusterAt_moduleNo (s : State) (n : Nat) (g : Cluster → Cluster) : (s.modClusterAt n g).moduleNo = s.moduleNo := rfl
@[simp] theorem State.modClusterAt_reach (s : State) (n : Nat) (g : Cluster → Cluster) : (s.modClusterAt n g).reach = s.reach := rfl
@[simp] theorem State.modClusterAt_tick (s : State) (n : Nat) (g : Cluster → Cluster) : (s.modClusterAt n g).tick = s.tick := rfl
@[simp] theorem State.modClusterAt_cur (s : State) (n : Nat) (g : Cluster → Cluster) : (s.modClusterAt n g).cur = s.cur := rfl
@[simp] theorem State.modClusterAt_turn (s : State) (n : Nat) (g : Cluster → Cluster) : (s.modClusterAt n g).turn = s.turn := rfl
@[simp] theorem State.modClusterAt_acted (s : State) (n : Nat) (g : Cluster → Cluster) : (s.modClusterAt n g).acted = s.acted := rfl
@[simp] theorem State.modClusterAt_ended (s : State) (n : Nat) (g : Cluster → Cluster) : (s.modClusterAt n g).ended = s.ended := rfl
@[simp] theorem State.modClusterAt_closing (s : State) (n : Nat) (g : Cluster → Cluster) : (s.modClusterAt n g).closing = s.closing := rfl
@[simp] theorem State.modClusterAt_due (s : State) (n : Nat) (g : Cluster → Cluster) : (s.modClusterAt n g).due = s.due := rfl
@[simp] theorem State.modClusterAt_inputs (s : State) (n : Nat) (g : Cluster → Cluster) : (s.modClusterAt n g).inputs = s.inputs := rfl
@[simp] theorem State.modClusterAt_req (s : State) (n : Nat) (g : Cluster → Cluster) : (s.modClusterAt n g).req = s.req := rfl
@[simp] theorem State.modClusterAt_free (s : State) (n : Nat) (g : Cluster → Cluster) : (s.modClusterAt n g).free = s.free := rfl
@[simp] theorem State.modDieAt_cores (s : State) (n : Nat) (g : Die → Die) : (s.modDieAt n g).cores = s.cores := rfl
@[simp] theorem State.modDieAt_clusters (s : State) (n : Nat) (g : Die → Die) : (s.modDieAt n g).clusters = s.clusters := rfl
@[simp] theorem State.modDieAt_mem (s : State) (n : Nat) (g : Die → Die) : (s.modDieAt n g).mem = s.mem := rfl
@[simp] theorem State.modDieAt_keyTag (s : State) (n : Nat) (g : Die → Die) : (s.modDieAt n g).keyTag = s.keyTag := rfl
@[simp] theorem State.modDieAt_bad (s : State) (n : Nat) (g : Die → Die) : (s.modDieAt n g).bad = s.bad := rfl
@[simp] theorem State.modDieAt_cellar (s : State) (n : Nat) (g : Die → Die) : (s.modDieAt n g).cellar = s.cellar := rfl
@[simp] theorem State.modDieAt_l2 (s : State) (n : Nat) (g : Die → Die) : (s.modDieAt n g).l2 = s.l2 := rfl
@[simp] theorem State.modDieAt_hostMem (s : State) (n : Nat) (g : Die → Die) : (s.modDieAt n g).hostMem = s.hostMem := rfl
@[simp] theorem State.modDieAt_contexts (s : State) (n : Nat) (g : Die → Die) : (s.modDieAt n g).contexts = s.contexts := rfl
@[simp] theorem State.modDieAt_fe (s : State) (n : Nat) (g : Die → Die) : (s.modDieAt n g).fe = s.fe := rfl
@[simp] theorem State.modDieAt_gov (s : State) (n : Nat) (g : Die → Die) : (s.modDieAt n g).gov = s.gov := rfl
@[simp] theorem State.modDieAt_mgmt (s : State) (n : Nat) (g : Die → Die) : (s.modDieAt n g).mgmt = s.mgmt := rfl
@[simp] theorem State.modDieAt_ports (s : State) (n : Nat) (g : Die → Die) : (s.modDieAt n g).ports = s.ports := rfl
@[simp] theorem State.modDieAt_boot (s : State) (n : Nat) (g : Die → Die) : (s.modDieAt n g).boot = s.boot := rfl
@[simp] theorem State.modDieAt_spdm (s : State) (n : Nat) (g : Die → Die) : (s.modDieAt n g).spdm = s.spdm := rfl
@[simp] theorem State.modDieAt_colls (s : State) (n : Nat) (g : Die → Die) : (s.modDieAt n g).colls = s.colls := rfl
@[simp] theorem State.modDieAt_remote (s : State) (n : Nat) (g : Die → Die) : (s.modDieAt n g).remote = s.remote := rfl
@[simp] theorem State.modDieAt_records (s : State) (n : Nat) (g : Die → Die) : (s.modDieAt n g).records = s.records := rfl
@[simp] theorem State.modDieAt_migrations (s : State) (n : Nat) (g : Die → Die) : (s.modDieAt n g).migrations = s.migrations := rfl
@[simp] theorem State.modDieAt_mapxCalls (s : State) (n : Nat) (g : Die → Die) : (s.modDieAt n g).mapxCalls = s.mapxCalls := rfl
@[simp] theorem State.modDieAt_moduleNo (s : State) (n : Nat) (g : Die → Die) : (s.modDieAt n g).moduleNo = s.moduleNo := rfl
@[simp] theorem State.modDieAt_reach (s : State) (n : Nat) (g : Die → Die) : (s.modDieAt n g).reach = s.reach := rfl
@[simp] theorem State.modDieAt_tick (s : State) (n : Nat) (g : Die → Die) : (s.modDieAt n g).tick = s.tick := rfl
@[simp] theorem State.modDieAt_cur (s : State) (n : Nat) (g : Die → Die) : (s.modDieAt n g).cur = s.cur := rfl
@[simp] theorem State.modDieAt_turn (s : State) (n : Nat) (g : Die → Die) : (s.modDieAt n g).turn = s.turn := rfl
@[simp] theorem State.modDieAt_acted (s : State) (n : Nat) (g : Die → Die) : (s.modDieAt n g).acted = s.acted := rfl
@[simp] theorem State.modDieAt_ended (s : State) (n : Nat) (g : Die → Die) : (s.modDieAt n g).ended = s.ended := rfl
@[simp] theorem State.modDieAt_closing (s : State) (n : Nat) (g : Die → Die) : (s.modDieAt n g).closing = s.closing := rfl
@[simp] theorem State.modDieAt_due (s : State) (n : Nat) (g : Die → Die) : (s.modDieAt n g).due = s.due := rfl
@[simp] theorem State.modDieAt_inputs (s : State) (n : Nat) (g : Die → Die) : (s.modDieAt n g).inputs = s.inputs := rfl
@[simp] theorem State.modDieAt_req (s : State) (n : Nat) (g : Die → Die) : (s.modDieAt n g).req = s.req := rfl
@[simp] theorem State.modDieAt_free (s : State) (n : Nat) (g : Die → Die) : (s.modDieAt n g).free = s.free := rfl
@[simp] theorem State.modCtxAt_cores (s : State) (n : Nat) (g : Context → Context) : (s.modCtxAt n g).cores = s.cores := rfl
@[simp] theorem State.modCtxAt_clusters (s : State) (n : Nat) (g : Context → Context) : (s.modCtxAt n g).clusters = s.clusters := rfl
@[simp] theorem State.modCtxAt_dies (s : State) (n : Nat) (g : Context → Context) : (s.modCtxAt n g).dies = s.dies := rfl
@[simp] theorem State.modCtxAt_mem (s : State) (n : Nat) (g : Context → Context) : (s.modCtxAt n g).mem = s.mem := rfl
@[simp] theorem State.modCtxAt_keyTag (s : State) (n : Nat) (g : Context → Context) : (s.modCtxAt n g).keyTag = s.keyTag := rfl
@[simp] theorem State.modCtxAt_bad (s : State) (n : Nat) (g : Context → Context) : (s.modCtxAt n g).bad = s.bad := rfl
@[simp] theorem State.modCtxAt_cellar (s : State) (n : Nat) (g : Context → Context) : (s.modCtxAt n g).cellar = s.cellar := rfl
@[simp] theorem State.modCtxAt_l2 (s : State) (n : Nat) (g : Context → Context) : (s.modCtxAt n g).l2 = s.l2 := rfl
@[simp] theorem State.modCtxAt_hostMem (s : State) (n : Nat) (g : Context → Context) : (s.modCtxAt n g).hostMem = s.hostMem := rfl
@[simp] theorem State.modCtxAt_fe (s : State) (n : Nat) (g : Context → Context) : (s.modCtxAt n g).fe = s.fe := rfl
@[simp] theorem State.modCtxAt_gov (s : State) (n : Nat) (g : Context → Context) : (s.modCtxAt n g).gov = s.gov := rfl
@[simp] theorem State.modCtxAt_mgmt (s : State) (n : Nat) (g : Context → Context) : (s.modCtxAt n g).mgmt = s.mgmt := rfl
@[simp] theorem State.modCtxAt_ports (s : State) (n : Nat) (g : Context → Context) : (s.modCtxAt n g).ports = s.ports := rfl
@[simp] theorem State.modCtxAt_boot (s : State) (n : Nat) (g : Context → Context) : (s.modCtxAt n g).boot = s.boot := rfl
@[simp] theorem State.modCtxAt_spdm (s : State) (n : Nat) (g : Context → Context) : (s.modCtxAt n g).spdm = s.spdm := rfl
@[simp] theorem State.modCtxAt_colls (s : State) (n : Nat) (g : Context → Context) : (s.modCtxAt n g).colls = s.colls := rfl
@[simp] theorem State.modCtxAt_remote (s : State) (n : Nat) (g : Context → Context) : (s.modCtxAt n g).remote = s.remote := rfl
@[simp] theorem State.modCtxAt_records (s : State) (n : Nat) (g : Context → Context) : (s.modCtxAt n g).records = s.records := rfl
@[simp] theorem State.modCtxAt_migrations (s : State) (n : Nat) (g : Context → Context) : (s.modCtxAt n g).migrations = s.migrations := rfl
@[simp] theorem State.modCtxAt_mapxCalls (s : State) (n : Nat) (g : Context → Context) : (s.modCtxAt n g).mapxCalls = s.mapxCalls := rfl
@[simp] theorem State.modCtxAt_moduleNo (s : State) (n : Nat) (g : Context → Context) : (s.modCtxAt n g).moduleNo = s.moduleNo := rfl
@[simp] theorem State.modCtxAt_reach (s : State) (n : Nat) (g : Context → Context) : (s.modCtxAt n g).reach = s.reach := rfl
@[simp] theorem State.modCtxAt_tick (s : State) (n : Nat) (g : Context → Context) : (s.modCtxAt n g).tick = s.tick := rfl
@[simp] theorem State.modCtxAt_cur (s : State) (n : Nat) (g : Context → Context) : (s.modCtxAt n g).cur = s.cur := rfl
@[simp] theorem State.modCtxAt_turn (s : State) (n : Nat) (g : Context → Context) : (s.modCtxAt n g).turn = s.turn := rfl
@[simp] theorem State.modCtxAt_acted (s : State) (n : Nat) (g : Context → Context) : (s.modCtxAt n g).acted = s.acted := rfl
@[simp] theorem State.modCtxAt_ended (s : State) (n : Nat) (g : Context → Context) : (s.modCtxAt n g).ended = s.ended := rfl
@[simp] theorem State.modCtxAt_closing (s : State) (n : Nat) (g : Context → Context) : (s.modCtxAt n g).closing = s.closing := rfl
@[simp] theorem State.modCtxAt_due (s : State) (n : Nat) (g : Context → Context) : (s.modCtxAt n g).due = s.due := rfl
@[simp] theorem State.modCtxAt_inputs (s : State) (n : Nat) (g : Context → Context) : (s.modCtxAt n g).inputs = s.inputs := rfl
@[simp] theorem State.modCtxAt_req (s : State) (n : Nat) (g : Context → Context) : (s.modCtxAt n g).req = s.req := rfl
@[simp] theorem State.modCtxAt_free (s : State) (n : Nat) (g : Context → Context) : (s.modCtxAt n g).free = s.free := rfl

/-! The part that an update writes. -/

@[simp] theorem State.coreAt_setCoreAt (s : State) (n : Nat) (c : Core) : (s.setCoreAt n c).coreAt n = c := by
  simp [State.coreAt, State.setCoreAt]
theorem State.coreAt_setCoreAt_ne (s : State) {m n : Nat} (h : m ≠ n) (c : Core) :
    (s.setCoreAt n c).coreAt m = s.coreAt m := by
  simp [State.coreAt, State.setCoreAt, find_put_ne _ h]
@[simp] theorem State.clusterAt_setClusterAt (s : State) (n : Nat) (c : Cluster) : (s.setClusterAt n c).clusterAt n = c := by
  simp [State.clusterAt, State.setClusterAt]
theorem State.clusterAt_setClusterAt_ne (s : State) {m n : Nat} (h : m ≠ n) (c : Cluster) :
    (s.setClusterAt n c).clusterAt m = s.clusterAt m := by
  simp [State.clusterAt, State.setClusterAt, find_put_ne _ h]
@[simp] theorem State.dieAt_setDieAt (s : State) (n : Nat) (d : Die) : (s.setDieAt n d).dieAt n = d := by
  simp [State.dieAt, State.setDieAt]
theorem State.dieAt_setDieAt_ne (s : State) {m n : Nat} (h : m ≠ n) (d : Die) : (s.setDieAt n d).dieAt m = s.dieAt m := by
  simp [State.dieAt, State.setDieAt, find_put_ne _ h]
@[simp] theorem State.ctxAt_setCtxAt (s : State) (n : Nat) (c : Context) : (s.setCtxAt n c).ctxAt n = c := by
  simp [State.ctxAt, State.setCtxAt]
theorem State.ctxAt_setCtxAt_ne (s : State) {m n : Nat} (h : m ≠ n) (c : Context) :
    (s.setCtxAt n c).ctxAt m = s.ctxAt m := by
  simp [State.ctxAt, State.setCtxAt, find_put_ne _ h]

/-! The acting core. -/

@[simp] theorem State.core_modCore (s : State) (g : Core → Core) : (s.modCore g).core = g s.core := by
  simp [State.modCore, State.setCore, State.core]
theorem State.coreAt_modCore_ne (s : State) {n : Nat} (h : n ≠ s.cur) (g : Core → Core) :
    (s.modCore g).coreAt n = s.coreAt n := by
  simp [State.modCore, State.setCore, State.coreAt_setCoreAt_ne s h]
@[simp] theorem State.coreAt_modCoreAt (s : State) (n : Nat) (g : Core → Core) : (s.modCoreAt n g).coreAt n = g (s.coreAt n) := by
  simp [State.modCoreAt]
@[simp] theorem State.clusterAt_modClusterAt (s : State) (n : Nat) (g : Cluster → Cluster) :
    (s.modClusterAt n g).clusterAt n = g (s.clusterAt n) := by
  simp [State.modClusterAt]
@[simp] theorem State.dieAt_modDieAt (s : State) (n : Nat) (g : Die → Die) : (s.modDieAt n g).dieAt n = g (s.dieAt n) := by
  simp [State.modDieAt]
@[simp] theorem State.ctxAt_modCtxAt (s : State) (n : Nat) (g : Context → Context) :
    (s.modCtxAt n g).ctxAt n = g (s.ctxAt n) := by
  simp [State.modCtxAt]
@[simp] theorem State.modCore_modCore (s : State) (g h : Core → Core) :
    (s.modCore g).modCore h = s.modCore (fun c => h (g c)) := by
  simp only [State.modCore, State.setCore, State.core, State.coreAt, State.setCoreAt, find_put_same, put_put]

/-! A change of one part of the acting core is a change of that core. -/

@[simp] theorem State.modIssue_eq (s : State) (g : Issue → Issue) :
    s.modIssue g = s.modCore (fun c => { c with issue := g c.issue }) := rfl
@[simp] theorem State.modFlow_eq (s : State) (g : Flow → Flow) :
    s.modFlow g = s.modCore (fun c => { c with flow := g c.flow }) := rfl
@[simp] theorem State.modMem_eq (s : State) (g : CoreMem → CoreMem) :
    s.modMem g = s.modCore (fun c => { c with mem := g c.mem }) := rfl
@[simp] theorem State.modEng_eq (s : State) (g : Engines → Engines) :
    s.modEng g = s.modCore (fun c => { c with eng := g c.eng }) := rfl
@[simp] theorem State.modTask_eq (s : State) (g : Task → Task) :
    s.modTask g = s.modCore (fun c => { c with task := g c.task }) := rfl
@[simp] theorem State.modFw_eq (s : State) (g : Firmware → Firmware) :
    s.modFw g = s.modCore (fun c => { c with fw := g c.fw }) := rfl
@[simp] theorem State.modLoops_eq (s : State) (g : Loops → Loops) :
    s.modLoops g = s.modCore (fun c => { c with loops := g c.loops }) := rfl
@[simp] theorem State.modPress_eq (s : State) (g : Press → Press) :
    s.modPress g = s.modCore (fun c => { c with press := g c.press }) := rfl
@[simp] theorem State.modRegs_eq (s : State) (g : Regs → Regs) :
    s.modRegs g = s.modCore (fun c => { c with regs := g c.regs }) := rfl
@[simp] theorem State.modFlight_eq (s : State) (g : Flight → Flight) :
    s.modFlight g = s.modCore (fun c => { c with flight := g c.flight }) := rfl

end Sys2Proof.Machine
end

