-- ==== Sys2Proof/Laws/Ops.lean ====
section
/-! SUPPORT. What each shared operation can do, said once: the guard of every slot operation, results in flight, checks
taken, and the queues. -/

namespace Sys2Proof.Machine

/-! The guard (R75). -/

/-- An operation that passes its checks has its effect. -/
theorem guarded_ok {i : Instr} {s : State} (k : State → State) (h : opCheck i s = none) : guarded i s k = .next (k s) := by
  simp [guarded, h]

/-- An operation that fails a check takes it. -/
theorem guarded_check {i : Instr} {s : State} {c : Check} (k : State → State) (h : opCheck i s = some c) :
    guarded i s k = .next (s.takeCheck s.core.issue.slot c) := by
  simp [guarded, h]

/-- A guarded operation never stops the machine. -/
theorem guarded_next (i : Instr) (s : State) (k : State → State) : ∃ t, guarded i s k = .next t := by
  unfold guarded
  split <;> exact ⟨_, rfl⟩

/-- The next state of a guarded operation: its effect, or the check it takes. -/
theorem guarded_cases {i : Instr} {s t : State} {k : State → State} (h : guarded i s k = .next t) :
    (opCheck i s = none ∧ t = k s) ∨ (∃ c, opCheck i s = some c ∧ t = s.takeCheck s.core.issue.slot c) := by
  unfold guarded at h
  split at h
  · rename_i c hc
    exact Or.inr ⟨c, hc, (Host.Outcome.next.inj h).symm⟩
  · rename_i hc
    exact Or.inl ⟨hc, (Host.Outcome.next.inj h).symm⟩

/-! States that agree outside the cores, and on the other cores. -/

theorem State.sameModule_refl (s : State) : s.sameModule s := rfl
theorem State.sameModule_trans {s t u : State} (a : s.sameModule t) (b : t.sameModule u) : s.sameModule u := by
  unfold State.sameModule at *
  rw [b, a]
theorem State.sameOthers_refl (s : State) : s.sameOthers s := fun _ _ => rfl
theorem State.sameModule_modCore (s : State) (g : Core → Core) : s.sameModule (s.modCore g) := rfl
theorem State.sameOthers_modCore (s : State) (g : Core → Core) : s.sameOthers (s.modCore g) :=
  fun _ h => State.coreAt_modCore_ne s h g

/-- A state that differs in its cores alone has the same memory. -/
theorem State.sameMemory_of_sameModule {s t : State} (h : s.sameModule t) : s.sameMemory t := by
  unfold State.sameModule at h
  rw [h]
  exact ⟨rfl, rfl, rfl, rfl, rfl⟩

theorem State.memWf_of_sameModule {s t : State} (h : s.sameModule t) (w : s.memWf) : t.memWf := by
  unfold State.sameModule at h
  rw [h]
  exact w

/-! A result in flight (R46, R47). -/

/-- What putting a result in flight makes of the acting core. -/
theorem State.core_land (s : State) (d : Dest) (v en : Vec) (fl : FlagVec) (l : Latency) (r : Bool) :
    (s.land d v en fl l r).core =
      let c := { s.core with issue := { s.core.issue with seq := s.core.issue.seq + 1 } }
      let p := s.result s.core.issue.slot d v en fl l r
      if s.core.fw.issuing then { c with fw := { c.fw with pend := c.fw.pend ++ [p] } }
      else { c with flow := { c.flow with pend := c.flow.pend ++ [p] } } := by
  simp [State.land]

theorem State.sameModule_land (s : State) (d : Dest) (v en : Vec) (fl : FlagVec) (l : Latency) (r : Bool) :
    s.sameModule (s.land d v en fl l r) := rfl
theorem State.sameOthers_land (s : State) (d : Dest) (v en : Vec) (fl : FlagVec) (l : Latency) (r : Bool) :
    s.sameOthers (s.land d v en fl l r) := State.sameOthers_modCore s _
theorem State.sameButFlight_land (s : State) (d : Dest) (v en : Vec) (fl : FlagVec) (l : Latency) (r : Bool) :
    s.core.sameButFlight (s.land d v en fl l r).core := by
  rw [State.core_land]
  unfold Core.sameButFlight
  dsimp only
  split <;> exact ⟨rfl, rfl, rfl, rfl, rfl, rfl, rfl⟩

@[simp] theorem State.cur_land (s : State) (d : Dest) (v en : Vec) (fl : FlagVec) (l : Latency) (r : Bool) :
    (s.land d v en fl l r).cur = s.cur := rfl

/-! Faults and traps (R75, R265 to R269). -/

theorem State.sameModule_raise (s : State) (code slot : Nat) (addr : Addr) (vaddr : Word) (fw imp cad fy : Bool)
    (tcode : Nat) : s.sameModule (s.raise code slot addr vaddr fw imp cad fy tcode) := rfl
theorem State.sameOthers_raise (s : State) (code slot : Nat) (addr : Addr) (vaddr : Word) (fw imp cad fy : Bool)
    (tcode : Nat) : s.sameOthers (s.raise code slot addr vaddr fw imp cad fy tcode) := State.sameOthers_modCore s _
theorem State.sameModule_report (s : State) (x : Finding) : s.sameModule (s.report x) := rfl
theorem State.sameOthers_report (s : State) (x : Finding) : s.sameOthers (s.report x) := State.sameOthers_modCore s _

theorem State.sameModule_takeCheck (s : State) (slot : Nat) (k : Check) : s.sameModule (s.takeCheck slot k) := by
  cases k with
  | fault code va tc => unfold State.takeCheck State.raiseHere; dsimp only; split <;> rfl
  | trap cause va => rfl
  | miss => rfl

theorem State.sameOthers_takeCheck (s : State) (slot : Nat) (k : Check) : s.sameOthers (s.takeCheck slot k) := by
  cases k with
  | fault code va tc =>
    unfold State.takeCheck State.raiseHere; dsimp only
    split <;> exact State.sameOthers_raise s _ _ _ _ _ _ _ _ _
  | trap cause va =>
    intro n h
    simp only [State.takeCheck, State.trapHere, State.report, State.modFlow_eq, State.modCore_modCore]
    exact State.coreAt_modCore_ne s h _
  | miss =>
    intro n h
    simp only [State.takeCheck, State.trapHere, State.report, State.modFlow_eq, State.modCore_modCore]
    exact State.coreAt_modCore_ne s h _

/-- A check that is taken leaves the registers of the core as they are. -/
theorem State.regs_takeCheck (s : State) (slot : Nat) (k : Check) : (s.takeCheck slot k).core.regs = s.core.regs := by
  cases k with
  | fault code va tc =>
    unfold State.takeCheck State.raiseHere; dsimp only
    split <;> simp [State.raise]
  | trap cause va => simp [State.takeCheck, State.trapHere, State.report]
  | miss => simp [State.takeCheck, State.trapHere, State.report]

/-! Meters (R345). -/

theorem State.sameButContexts_refl (s : State) : s.sameButContexts s := rfl
theorem State.sameButContexts_trans {s t u : State} (a : s.sameButContexts t) (b : t.sameButContexts u) :
    s.sameButContexts u := by
  unfold State.sameButContexts at *
  rw [b, a]

/-- Counting bytes changes meters alone. -/
theorem State.sameButContexts_meterCount (s : State) (ctx res n : Nat) : s.sameButContexts (s.meterCount ctx res n) := by
  unfold State.meterCount
  dsimp only
  split <;> rfl

theorem State.sameButContexts_meterTake (s : State) (who ctx res n : Nat) :
    s.sameButContexts (s.meterTake who ctx res n) := by
  unfold State.meterTake
  dsimp only
  split <;> rfl

theorem State.sameButContexts_countAll (s : State) (ctx : Nat) (costs : List (Nat × Nat)) :
    s.sameButContexts (s.countAll ctx costs) := by
  induction costs generalizing s with
  | nil => rfl
  | cons x r ih => exact State.sameButContexts_trans (s.sameButContexts_meterCount ctx x.1 x.2) (ih _)

/-- A resource without a rate holds nothing up. -/
theorem State.meterOpen_unmetered {s : State} {who ctx res : Nat} (h : (find Meter.off res (s.ctxAt ctx).meters).rate = 0) :
    s.meterOpen who ctx res = true := by
  simp [State.meterOpen, h]

/-- The request that arrived first proceeds as soon as a token is there. -/
theorem State.meterOpen_head {s : State} {who ctx res : Nat} (h : 0 < (find Meter.off res (s.ctxAt ctx).meters).tokens)
    (w : (find Meter.off res (s.ctxAt ctx).meters).held.head? = some who) : s.meterOpen who ctx res = true := by
  simp [State.meterOpen, h, w]

/-! The elements that a faulting vector store writes all the same (R209). -/

/-- Only the count of free values differs, and what is chosen is some of the elements, in their order. -/
theorem State.chooseSome_spec (s : State) (ts : List Target) :
    (s.chooseSome ts).1 = { s with free := s.free + ts.length } ∧ (s.chooseSome ts).2.Sublist ts := by
  induction ts generalizing s with
  | nil => exact ⟨rfl, List.Sublist.slnil⟩
  | cons x r ih =>
    obtain ⟨a, b⟩ := ih { s with free := s.free + 1 }
    refine ⟨?_, ?_⟩
    · show (({ s with free := s.free + 1 } : State).chooseSome r).1 = _
      rw [a]
      simp [Nat.add_assoc, Nat.add_comm 1]
    · show (if Config.freeChoice s.free then x :: _ else _) |>.Sublist (x :: r)
      split
      · exact b.cons_cons x
      · exact b.cons x

/-! The queues (R228). -/

theorem State.sameModule_bankIssue (s : State) (x : Access) : s.sameModule (s.bankIssue x).1 := by
  unfold State.bankIssue
  dsimp only
  split <;> rfl

theorem State.sameModule_enqueueLoad (s : State) (i : Instr) (d : Dest) (en : Vec) : s.sameModule (s.enqueueLoad i d en) := by
  unfold State.enqueueLoad
  dsimp only
  split
  · rfl
  · exact State.sameModule_trans (State.sameModule_bankIssue s _) rfl

theorem State.sameModule_enqueueStore (s : State) (i : Instr) : s.sameModule (s.enqueueStore i) := by
  unfold State.enqueueStore
  dsimp only
  split
  · rfl
  · split
    · exact State.sameModule_trans (State.sameModule_bankIssue s _) rfl
    · rfl

theorem State.sameModule_enqueueAtomic (s : State) (i : Instr) : s.sameModule (s.enqueueAtomic i) := by
  unfold State.enqueueAtomic
  exact State.sameModule_trans (State.sameModule_bankIssue s _) rfl

end Sys2Proof.Machine
end

