-- ==== Sys2Proof/Tests/Slice0.lean ====
section
/-! SUPPORT. Tests: words written out from the spec's encodings, ill-formed terms, and states that meet the hypotheses of
the statements. -/

namespace Sys2Proof.Machine.Tests

open Sys2Proof Sys2Proof.Machine

/-! Each theorem is checked before the next begins, which bounds the memory of the build. -/
set_option Elab.async false

/-! Words, field by field from R62 and R64 to R72, highest field first. -/

/-- A word of five fields of 6 bits: opcode and four registers or functions (AR, AM, AMO). -/
def word5 (op a b c e : BitVec 6) : Slot := op ++ a ++ b ++ c ++ e
/-- A word of three fields of 6 bits and 12 more (AI, LD, ST, VI). -/
def word12 (op a b : BitVec 6) (imm : BitVec 12) : Slot := op ++ a ++ b ++ imm
/-- A word of the LV format: vd, base, t, k, ty. -/
def wordLV (op a b c : BitVec 6) (k ty : BitVec 3) : Slot := op ++ a ++ b ++ c ++ k ++ ty
/-- A word of the VR format: vd, vs, vt, k, ty, nf. -/
def wordVR (op a b c : BitVec 6) (k : BitVec 3) (ty : BitVec 2) (nf : BitVec 1) : Slot := op ++ a ++ b ++ c ++ k ++ ty ++ nf
/-- A word of 24 bits behind its opcode. -/
def word24 (op : BitVec 6) (x : BitVec 24) : Slot := op ++ x

/-- Whether every word of a list decodes to its operation in a class. -/
def decodes (cl : SlotClass) (l : List (Slot × Instr)) : Bool := l.all (fun p => (decodeClass cl p.1).toOption == some p.2)

/-- R65, R66: the AR group. -/
theorem test_decode_ar :
    decodes .a [(word5 1 5 6 7 0x00, .add ⟨5, 6, 7⟩), (word5 1 5 6 7 0x01, .sub ⟨5, 6, 7⟩), (word5 1 5 6 7 0x02, .and ⟨5, 6, 7⟩),
      (word5 1 5 6 7 0x03, .or ⟨5, 6, 7⟩), (word5 1 5 6 7 0x04, .xor ⟨5, 6, 7⟩), (word5 1 5 6 7 0x05, .andn ⟨5, 6, 7⟩),
      (word5 1 5 6 7 0x06, .shl ⟨5, 6, 7⟩), (word5 1 5 6 7 0x07, .shr ⟨5, 6, 7⟩), (word5 1 5 6 7 0x08, .sar ⟨5, 6, 7⟩),
      (word5 1 5 6 7 0x09, .min ⟨5, 6, 7⟩), (word5 1 5 6 7 0x0A, .max ⟨5, 6, 7⟩), (word5 1 5 6 7 0x0B, .minu ⟨5, 6, 7⟩),
      (word5 1 5 6 7 0x0C, .maxu ⟨5, 6, 7⟩), (word5 1 5 6 7 0x0D, .slt ⟨5, 6, 7⟩), (word5 1 5 6 7 0x0E, .sltu ⟨5, 6, 7⟩),
      (word5 1 5 6 7 0x0F, .seq ⟨5, 6, 7⟩), (word5 1 5 6 7 0x10, .sne ⟨5, 6, 7⟩), (word5 1 5 6 7 0x11, .mul ⟨5, 6, 7⟩),
      (word5 1 5 6 7 0x12, .mulh ⟨5, 6, 7⟩), (word5 1 5 6 7 0x13, .mulhu ⟨5, 6, 7⟩), (word5 1 5 6 7 0x14, .div ⟨5, 6, 7⟩),
      (word5 1 5 6 7 0x15, .divu ⟨5, 6, 7⟩), (word5 1 5 6 7 0x16, .rem ⟨5, 6, 7⟩), (word5 1 5 6 7 0x17, .remu ⟨5, 6, 7⟩),
      (word5 1 5 6 0 0x18, .clz ⟨5, 6, 0⟩), (word5 1 5 6 0 0x19, .ctz ⟨5, 6, 0⟩), (word5 1 63 1 0 0x1A, .popc ⟨63, 1, 0⟩)] =
      true := by decide

/-- R65: immediates, constants, three sources, bit fields, control registers. -/
theorem test_decode_a :
    decodes .a [(word12 2 5 6 0x801, .addi ⟨5, 6, 0x801⟩), (word12 3 5 6 0xFFF, .andi ⟨5, 6, 0xFFF⟩),
      (word12 4 5 6 1, .ori ⟨5, 6, 1⟩), (word12 5 5 6 2, .xori ⟨5, 6, 2⟩), (word12 6 5 6 3, .slti ⟨5, 6, 3⟩),
      (word12 7 5 6 4, .sltui ⟨5, 6, 4⟩), (word12 8 5 6 63, .shli ⟨5, 6, 63⟩), (word12 9 5 6 1, .shri ⟨5, 6, 1⟩),
      (word12 10 5 6 2, .sari ⟨5, 6, 2⟩), (0x10#6 ++ 5#6 ++ 0x20001#18, .movi ⟨5, 0x20001⟩),
      (0x13#6 ++ 5#6 ++ 3#2 ++ 0xBEEF#16, .movk ⟨5, 3, 0xBEEF⟩), (word5 0x14 1 2 3 4, .madd ⟨1, 2, 3, 4⟩),
      (word5 0x15 1 2 3 63, .lea ⟨1, 2, 3, 63⟩), (word5 0x16 1 2 3 4, .sel ⟨1, 2, 3, 4⟩),
      (word5 0x17 1 2 8 55, .bfx ⟨1, 2, 8, 55⟩), (word5 0x18 1 2 63 0, .bfxz ⟨1, 2, 63, 0⟩), (word5 0x19 1 2 0 63, .bfi ⟨1, 2, 0, 63⟩),
      (word12 0x1A 5 0 0x009, .csrr ⟨5, 0, 0x009⟩), (word12 0x1B 0 6 0x002, .csrw ⟨0, 6, 0x002⟩),
      (word24 0x3F 0xABCDEF, .immx 0xABCDEF)] = true := by decide

/-- R67: the C slot. -/
theorem test_decode_c :
    decodes .c [(1#6 ++ 0#3 ++ 5#6 ++ 6#6 ++ 0x1FF#9, .brEq ⟨5, 6, 0x1FF⟩), (1#6 ++ 1#3 ++ 5#6 ++ 6#6 ++ 2#9, .brNe ⟨5, 6, 2⟩),
      (1#6 ++ 2#3 ++ 5#6 ++ 6#6 ++ 3#9, .brLt ⟨5, 6, 3⟩), (1#6 ++ 3#3 ++ 5#6 ++ 6#6 ++ 4#9, .brGe ⟨5, 6, 4⟩),
      (1#6 ++ 4#3 ++ 5#6 ++ 6#6 ++ 5#9, .brLtu ⟨5, 6, 5⟩), (1#6 ++ 5#3 ++ 5#6 ++ 6#6 ++ 6#9, .brGeu ⟨5, 6, 6⟩),
      (2#6 ++ 0#1 ++ 9#6 ++ 0x1FFFF#17, .bz 9 0x1FFFF), (2#6 ++ 1#1 ++ 9#6 ++ 3#17, .bnz 9 3), (word24 3 0xFFFFFE, .jmp 0xFFFFFE),
      (word24 4 7, .call 7), (5#6 ++ 0#1 ++ 9#6 ++ 0#17, .jmpr 9), (6#6 ++ 0#1 ++ 9#6 ++ 0#17, .callr 9), (word24 7 0, .ret),
      (8#6 ++ 2#2 ++ 9#6 ++ 11#8 ++ 3#3 ++ 1#1 ++ 0#1 ++ 0#3, .loop ⟨2, 9, 11, 3, true, false⟩),
      (9#6 ++ 3#2 ++ 63#6 ++ 255#8 ++ 7#3 ++ 0#1 ++ 1#1 ++ 0#3, .loopi ⟨3, 63, 255, 7, false, true⟩), (0x0A#6 ++ 3#2 ++ 0#22, .lbrk 3),
      (word24 0x0B 0, .halt), (word24 0x0C 0x123456, .trap 0x123456), (word24 0x0D 16, .align 16), (0x0E#6 ++ 9#6 ++ 0#18, .alignr 9),
      (word24 0x0F 0, .realign), (0x10#6 ++ 1023#10 ++ 0#14, .bwait 1023), (0x11#6 ++ 5#10 ++ 9#6 ++ 1#1 ++ 0#7, .barm 5 9 true),
      (word24 0x12 0, .bbadv), (0x13#6 ++ 4#3 ++ 0#21, .mark 4), (0x14#6 ++ 0#1 ++ 0#23, .leave), (0x14#6 ++ 1#1 ++ 0#23, .leaveEnd)] =
      true := by decide

/-- R72, R289: the firmware's operations. -/
theorem test_decode_fw :
    decodes .c [(word24 0x30 0, .resume), (word24 0x31 0, .fwtake), (0x32#6 ++ 1#1 ++ 0#15 ++ 0x0D#8, .fwyield true 0x0D),
      (0x33#6 ++ 2#2 ++ 9#6 ++ 1#1 ++ 0#15, .tlbinv 2 9 true), (0x34#6 ++ 9#6 ++ 0x100#12 ++ 0#6, .csrwp 9 0x100),
      (0x35#6 ++ 9#6 ++ 0x000#12 ++ 0#6, .csrrp 9 0x000), (0x36#6 ++ 3#6 ++ 4#6 ++ 0#12, .flread 3 4),
      (0x37#6 ++ 3#6 ++ 4#6 ++ 0#12, .flwrite 3 4), (0x38#6 ++ 31#6 ++ 1#1 ++ 0#17, .vinval 31 true), (0x390C4000#30, .bmap 3 4)] =
      true := by decide

/-- R68: the L slot. -/
theorem test_decode_l :
    decodes .l [(word12 1 5 6 0xFFF, .ldB ⟨5, 6, 0xFFF⟩), (word12 2 5 6 1, .ldBu ⟨5, 6, 1⟩), (word12 3 5 6 2, .ldH ⟨5, 6, 2⟩),
      (word12 4 5 6 2, .ldHu ⟨5, 6, 2⟩), (word12 5 5 6 4, .ldW ⟨5, 6, 4⟩), (word12 6 5 6 4, .ldWu ⟨5, 6, 4⟩), (word12 7 5 6 8, .ldD ⟨5, 6, 8⟩),
      (wordLV 8 5 6 7 0 6, .ldx ⟨5, 6, 7, 0, 6⟩), (wordLV 9 5 6 7 3 1, .vld ⟨5, 6, 7, 3, 1⟩), (wordLV 10 5 6 7 3 2, .vldEf ⟨5, 6, 7, 3, 2⟩),
      (wordLV 11 5 6 7 3 3, .vlds ⟨5, 6, 7, 3, 3⟩), (wordLV 12 5 6 7 3 7, .vldx ⟨5, 6, 7, 3, 7⟩), (wordLV 13 5 6 7 3 0, .vldb ⟨5, 6, 7, 3, 0⟩),
      (word12 14 0 6 8, .pref ⟨0, 6, 8⟩)] = true := by decide

/-- R69: the S slot. -/
theorem test_decode_s :
    decodes .s [(word12 1 5 6 0xFFF, .stB ⟨5, 6, 0xFFF⟩), (word12 2 5 6 2, .stH ⟨5, 6, 2⟩), (word12 3 5 6 4, .stW ⟨5, 6, 4⟩),
      (word12 4 5 6 8, .stD ⟨5, 6, 8⟩), (wordLV 5 5 6 7 0 3, .stx ⟨5, 6, 7, 0, 3⟩), (wordLV 6 5 6 7 1 0, .vst ⟨5, 6, 7, 1, 0⟩),
      (wordLV 7 5 6 7 1 1, .vstEf ⟨5, 6, 7, 1, 1⟩), (wordLV 8 5 6 7 1 2, .vsts ⟨5, 6, 7, 1, 2⟩), (wordLV 9 5 6 7 1 4, .vstx ⟨5, 6, 7, 1, 4⟩),
      (wordLV 10 5 6 7 1 0, .vstmc ⟨5, 6, 7, 1, 0⟩), (0x12#6 ++ 5#6 ++ 6#6 ++ 15#4 ++ 7#3 ++ 0#5, .pin 5 6 15 7),
      (0x13#6 ++ 0#16 ++ 7#3 ++ 0#5, .unpin 7), (0x14#6 ++ 5#6 ++ 7#3 ++ 2#2 ++ 0#13, .tsend 5 7 2), (word12 0x15 0 6 8, .wbk ⟨0, 6, 8⟩)] =
      true := by decide

/-- R69: the functions of `amo` and `red`; the width is bit 4 of fn. -/
theorem test_decode_amo :
    decodes .s [(word5 0x10 0 6 7 0x10, .amoAdd ⟨0, 6, 7, true⟩), (word5 0x10 0 6 7 1, .amoFadd ⟨0, 6, 7, false⟩),
      (word5 0x10 0 6 7 2, .amoMin ⟨0, 6, 7, false⟩), (word5 0x10 0 6 7 3, .amoMax ⟨0, 6, 7, false⟩), (word5 0x10 0 6 7 4, .amoMinu ⟨0, 6, 7, false⟩),
      (word5 0x10 0 6 7 5, .amoMaxu ⟨0, 6, 7, false⟩), (word5 0x10 0 6 7 6, .amoAnd ⟨0, 6, 7, false⟩), (word5 0x10 0 6 7 7, .amoOr ⟨0, 6, 7, false⟩),
      (word5 0x10 0 6 7 8, .amoXor ⟨0, 6, 7, false⟩), (word5 0x10 0 6 7 9, .amoSwap ⟨0, 6, 7, false⟩), (word5 0x10 5 6 7 0x1A, .amoCas ⟨5, 6, 7, true⟩),
      (word5 0x10 0 6 7 11, .amoFmin ⟨0, 6, 7, false⟩), (word5 0x10 0 6 7 12, .amoFmax ⟨0, 6, 7, false⟩),
      (word5 0x11 0 6 7 0x10, .redAdd ⟨0, 6, 7, true⟩), (word5 0x11 0 6 7 1, .redFadd ⟨0, 6, 7, false⟩), (word5 0x11 0 6 7 2, .redMin ⟨0, 6, 7, false⟩),
      (word5 0x11 0 6 7 3, .redMax ⟨0, 6, 7, false⟩), (word5 0x11 0 6 7 4, .redMinu ⟨0, 6, 7, false⟩), (word5 0x11 0 6 7 5, .redMaxu ⟨0, 6, 7, false⟩),
      (word5 0x11 0 6 7 6, .redAnd ⟨0, 6, 7, false⟩), (word5 0x11 0 6 7 7, .redOr ⟨0, 6, 7, false⟩), (word5 0x11 0 6 7 8, .redXor ⟨0, 6, 7, false⟩),
      (word5 0x11 0 6 7 11, .redFmin ⟨0, 6, 7, false⟩), (word5 0x11 0 6 7 12, .redFmax ⟨0, 6, 7, false⟩)] = true := by decide

/-- R70, R146 to R149: the VR operations in the order of their opcodes, with vt where it is used. -/
theorem test_decode_vr :
    decodes .v [(wordVR 1 5 6 7 3 2 1, .vfadd ⟨5, 6, 7, 3, 2, true⟩), (wordVR 2 5 6 7 3 2 0, .vfsub ⟨5, 6, 7, 3, 2, false⟩),
      (wordVR 3 5 6 7 3 0 0, .vfmul ⟨5, 6, 7, 3, 0, false⟩), (wordVR 4 5 6 7 3 0 0, .vfma ⟨5, 6, 7, 3, 0, false⟩),
      (wordVR 5 5 6 7 3 0 0, .vfms ⟨5, 6, 7, 3, 0, false⟩), (wordVR 6 5 6 7 3 0 0, .vfmin ⟨5, 6, 7, 3, 0, false⟩),
      (wordVR 7 5 6 7 3 0 0, .vfmax ⟨5, 6, 7, 3, 0, false⟩), (wordVR 8 5 6 0 3 0 0, .vfabs ⟨5, 6, 0, 3, 0, false⟩),
      (wordVR 9 5 6 0 3 0 0, .vfneg ⟨5, 6, 0, 3, 0, false⟩), (wordVR 10 5 6 7 3 3 0, .vfceq ⟨5, 6, 7, 3, 3, false⟩),
      (wordVR 11 5 6 7 3 0 0, .vfclt ⟨5, 6, 7, 3, 0, false⟩), (wordVR 12 5 6 7 3 0 0, .vfcle ⟨5, 6, 7, 3, 0, false⟩),
      (wordVR 13 5 6 7 3 0 0, .vfcun ⟨5, 6, 7, 3, 0, false⟩), (wordVR 14 5 6 0 3 0 0, .vfrcp ⟨5, 6, 0, 3, 0, false⟩),
      (wordVR 15 5 6 0 3 0 0, .vfrsq ⟨5, 6, 0, 3, 0, false⟩), (wordVR 16 5 6 0 3 0 0, .vfexp2 ⟨5, 6, 0, 3, 0, false⟩),
      (wordVR 17 5 6 0 3 0 0, .vflog2 ⟨5, 6, 0, 3, 0, false⟩), (wordVR 0x12 5 6 7 3 1 0, .vadd ⟨5, 6, 7, 3, 1, false⟩),
      (wordVR 0x13 5 6 7 3 0 0, .vsub ⟨5, 6, 7, 3, 0, false⟩), (wordVR 0x14 5 6 7 3 0 0, .vmul ⟨5, 6, 7, 3, 0, false⟩),
      (wordVR 0x15 5 6 7 3 0 0, .vmulh ⟨5, 6, 7, 3, 0, false⟩), (wordVR 0x16 5 6 7 3 0 0, .vmin ⟨5, 6, 7, 3, 0, false⟩),
      (wordVR 0x17 5 6 7 3 0 0, .vmax ⟨5, 6, 7, 3, 0, false⟩), (wordVR 0x18 5 6 7 3 0 0, .vminu ⟨5, 6, 7, 3, 0, false⟩),
      (wordVR 0x19 5 6 7 3 0 0, .vmaxu ⟨5, 6, 7, 3, 0, false⟩), (wordVR 0x1A 5 6 7 3 0 0, .vand ⟨5, 6, 7, 3, 0, false⟩),
      (wordVR 0x1B 5 6 7 3 0 0, .vor ⟨5, 6, 7, 3, 0, false⟩), (wordVR 0x1C 5 6 7 3 0 0, .vxor ⟨5, 6, 7, 3, 0, false⟩),
      (wordVR 0x1D 5 6 7 3 0 0, .vshl ⟨5, 6, 7, 3, 0, false⟩), (wordVR 0x1E 5 6 7 3 0 0, .vshr ⟨5, 6, 7, 3, 0, false⟩),
      (wordVR 0x1F 5 6 7 3 0 0, .vsar ⟨5, 6, 7, 3, 0, false⟩), (wordVR 0x20 5 6 7 3 0 0, .vceq ⟨5, 6, 7, 3, 0, false⟩),
      (wordVR 0x21 5 6 7 3 0 0, .vclt ⟨5, 6, 7, 3, 0, false⟩), (wordVR 0x22 5 6 7 3 0 0, .vcltu ⟨5, 6, 7, 3, 0, false⟩),
      (wordVR 0x23 5 6 7 3 0 0, .vsel ⟨5, 6, 7, 3, 0, false⟩), (wordVR 0x24 5 6 7 3 0 0, .vaddsat ⟨5, 6, 7, 3, 0, false⟩),
      (wordVR 0x25 5 6 7 3 0 0, .vsubsat ⟨5, 6, 7, 3, 0, false⟩), (wordVR 0x26 5 6 7 3 0 0, .vperm ⟨5, 6, 7, 3, 0, false⟩)] = true := by
  decide

/-- R70, R152 to R170: lane movement, reductions, masks, conversions, slices and flags. -/
theorem test_decode_v :
    decodes .v [(0x27#6 ++ 5#6 ++ 6#6 ++ 0#4 ++ 0#1 ++ 0x7F#7, .vslide 5 6 0x7F), (0x27#6 ++ 5#6 ++ 6#6 ++ 0#4 ++ 1#1 ++ 3#7, .vslideR 5 6 3),
      (wordVR 0x28 5 0 0 3 2 0, .viota ⟨5, 0, 0, 3, 2, false⟩), (wordVR 0x29 5 6 0 3 3 0, .vbcast ⟨5, 6, 0, 3, 3, false⟩),
      (0x2A#6 ++ 5#6 ++ 6#6 ++ 2#2 ++ 0#1 ++ 1#1 ++ 255#8, .vmovs 5 6 255 true 2), (0x2B#6 ++ 5#6 ++ 6#6 ++ 3#2 ++ 0#1 ++ 0#1 ++ 31#8, .vinsl 5 6 31 3),
      (wordVR 0x2C 5 6 0 3 1 0, .vredsum ⟨5, 6, 0, 3, 1, false⟩), (wordVR 0x2D 5 6 0 3 0 0, .vredmax ⟨5, 6, 0, 3, 0, false⟩),
      (wordVR 0x2E 5 6 0 3 0 0, .vredmin ⟨5, 6, 0, 3, 0, false⟩), (wordVR 0x2F 5 6 7 3 0 0, .kopAnd 5 6 7 3), (wordVR 0x2F 5 6 7 3 1 0, .kopOr 5 6 7 3),
      (wordVR 0x2F 5 6 7 3 2 0, .kopXor 5 6 7 3), (wordVR 0x2F 5 6 7 3 3 0, .kopAndn 5 6 7 3), (wordVR 0x30 9 6 0 3 0 0, .kpop 9 6 3),
      (wordVR 0x30 9 6 0 3 1 0, .kpopMv 9 6 3), (wordVR 0x30 9 6 0 3 2 0, .kpopFf 9 6 3), (wordVR 0x31 5 9 0 0 0 0, .kfrom 5 9),
      (wordVR 0x32 5 9 0 0 0 0, .kset 5 9), (0x33#6 ++ 5#6 ++ 6#6 ++ 1#4 ++ 8#4 ++ 2#2 ++ 1#1 ++ 0#1, .vcvt ⟨5, 6, 1, 8, 2, true, false⟩),
      (0x34#6 ++ 5#6 ++ 6#6 ++ 2#4 ++ 7#4 ++ 3#2 ++ 0#1 ++ 1#1, .vcvts ⟨5, 6, 2, 7, 3, false, true⟩),
      (0x35#6 ++ 8#4 ++ 3#2 ++ 6#6 ++ 0#6 ++ 2#3 ++ 1#2 ++ 1#1, .vmaxabs 8 3 6 2 1 true),
      (0x36#6 ++ 5#6 ++ 6#6 ++ 0#7 ++ 2#2 ++ 3#2 ++ 0#1, .vdecb 5 6 2 3), (0x36#6 ++ 0#3 ++ 7#3 ++ 6#6 ++ 0#7 ++ 1#2 ++ 0#2 ++ 1#1, .vdecbTab 7 6 1),
      (0x37#6 ++ 5#6 ++ 6#6 ++ 8#6 ++ 7#3 ++ 3#2 ++ 1#1, .vsplit 5 6 8 7 3 true), (wordVR 0x38 5 6 7 3 1 0, .vsexp ⟨5, 6, 7, 3, 1, false⟩),
      (wordVR 0x39 5 6 7 3 1 1, .vscalb ⟨5, 6, 7, 3, 1, true⟩), (0x3A#6 ++ 5#6 ++ 0#6 ++ 0#6 ++ 0#1 ++ 0x1F#5, .vflags 5 0x1F),
      (0x3A#6 ++ 5#6 ++ 6#6 ++ 0#6 ++ 1#1 ++ 0#5, .vflagsSet 5 6)] = true := by decide

/-- R71, R184 to R191, R220, R221, R249 to R251, R256: the P slot. -/
theorem test_decode_p :
    decodes .p [(1#6 ++ 6#3 ++ 7#3 ++ 1#1 ++ 0#1 ++ 0#16, .pset 6 7 true false), (2#6 ++ 5#6 ++ 3#3 ++ 63#6 ++ 0#9, .ppush 5 3 63),
      (3#6 ++ 5#6 ++ 0#1 ++ 3#2 ++ 0#15, .pfill 5 3), (3#6 ++ 5#6 ++ 1#1 ++ 1#2 ++ 0#15, .pfillN 5 1), (4#6 ++ 0x0F#8 ++ 5#3 ++ 9#4 ++ 0#9, .pacc 0x0F 5 9),
      (5#6 ++ 2#3 ++ 3#3 ++ 47#6 ++ 0#12, .pshift 2 3 47), (6#6 ++ 5#6 ++ 6#3 ++ 7#3 ++ 3#2 ++ 0#2 ++ 4#3 ++ 1#1 ++ 0#4, .pdrain 5 6 7 3 0 4 true),
      (7#6 ++ 0xA5#8 ++ 1#1 ++ 0#1 ++ 0#13 ++ 0#1, .pclr 0xA5 true false), (7#6 ++ 5#6 ++ 0xA5#8 ++ 0#9 ++ 1#1, .pclrSt 5 0xA5),
      (8#6 ++ 5#6 ++ 1#2 ++ 0#1 ++ 0#8 ++ 0#2 ++ 0#1 ++ 0#4, .pexpRows 5 1 false), (8#6 ++ 5#6 ++ 0#2 ++ 1#1 ++ 3#8 ++ 1#2 ++ 1#1 ++ 0#4, .pexpCols 5 0 3 1 true),
      (0x10#6 ++ 52#6 ++ 62#6 ++ 1023#10 ++ 0#1 ++ 0#1, .cgoIn ⟨52, 62, 1023⟩), (0x10#6 ++ 4#6 ++ 6#6 ++ 7#10 ++ 0#1 ++ 1#1, .cgoOut ⟨4, 6, 7⟩),
      (0x11#6 ++ 5#3 ++ 9#6 ++ 61#6 ++ 0#9, .cseq 5 9 61), (0x12#6 ++ 4#6 ++ 6#6 ++ 7#10 ++ 0#1 ++ 0#1, .cstart ⟨4, 6, 7⟩),
      (0x12#6 ++ 4#6 ++ 6#6 ++ 7#10 ++ 0#1 ++ 1#1, .cstartOut ⟨4, 6, 7⟩), (0x13#6 ++ 3#2 ++ 0#2 ++ 4#6 ++ 6#6 ++ 15#4 ++ 0#4, .sbindIn ⟨3, 4, 6, 15⟩),
      (0x13#6 ++ 3#2 ++ 1#2 ++ 4#6 ++ 6#6 ++ 15#4 ++ 0#4, .sbindOut ⟨3, 4, 6, 15⟩), (0x13#6 ++ 3#2 ++ 2#2 ++ 0#20, .sbindOff 3),
      (0x14#6 ++ 0x8001#16 ++ 1#2 ++ 0#6, .bank 0x8001 1), (0x15#6 ++ 0#3 ++ 1#2 ++ 9#6 ++ 5#10 ++ 0#3, .collAllreduceSum ⟨1, 9, 5⟩),
      (0x15#6 ++ 1#3 ++ 0#2 ++ 9#6 ++ 5#10 ++ 0#3, .collAllreduceMax ⟨0, 9, 5⟩), (0x15#6 ++ 2#3 ++ 0#2 ++ 9#6 ++ 5#10 ++ 0#3, .collAllgather ⟨0, 9, 5⟩),
      (0x15#6 ++ 3#3 ++ 0#2 ++ 9#6 ++ 5#10 ++ 0#3, .collRscatterSum ⟨0, 9, 5⟩), (0x15#6 ++ 4#3 ++ 0#2 ++ 9#6 ++ 5#10 ++ 0#3, .collRscatterMax ⟨0, 9, 5⟩),
      (0x15#6 ++ 5#3 ++ 2#2 ++ 9#6 ++ 1023#10 ++ 0#3, .collBcast ⟨2, 9, 1023⟩)] = true := by decide

/-- R58, R61, R76: whole bundles: the no-op, the pad, header bits, and a reserved bit beside a no-op opcode. -/
theorem test_decode_bundles :
    rowOfBundle 0 = some .nop ∧ rowOfBundle padWord = some .padBundle ∧ decodeBundle (0x8000#16 ++ 0#240) = .ok [] ∧
      decodeBundle (0x0001#16 ++ 0#240) = .error (8, .illegalHint) ∧ decodeBundle (bundleOf 2 (word24 0x0B 0)) = .ok [(2, .halt)] ∧
      decodeClass .a 1 = .error .reservedBits ∧ decodeClass .a (word5 1 5 6 1 0x18) = .error .illegalField ∧
      decodeClass .v (word24 0x3B 0) = .error .unassigned ∧ decodeClass .c (word24 7 1) = .error .reservedBits :=
  ⟨rfl, rfl, rfl, rfl, rfl, rfl, rfl, rfl, rfl⟩

/-! Encodings refused (R63, R75). -/

/-- One ill-formed term for each check of `Instr.wellFormed`. -/
theorem test_ill_formed :
    ([.clz ⟨1, 2, 3⟩, .shli ⟨1, 2, 64⟩, .bfx ⟨1, 2, 63, 1⟩, .csrr ⟨1, 2, 0⟩, .csrr ⟨1, 0, 0x00A⟩, .csrw ⟨1, 2, 1⟩, .csrw ⟨0, 2, 0x034⟩,
      .csrw ⟨0, 2, 0x007⟩, .loop ⟨0, 5, 4, 1, false, false⟩, .mark 5, .ldx ⟨1, 2, 3, 1, 0⟩, .ldx ⟨1, 2, 3, 0, 7⟩, .stx ⟨1, 2, 3, 1, 0⟩,
      .stx ⟨1, 2, 3, 0, 4⟩, .vld ⟨1, 2, 3, 0, 4⟩, .vst ⟨1, 2, 3, 0, 4⟩, .pref ⟨1, 2, 0⟩, .wbk ⟨1, 2, 0⟩, .amoAdd ⟨1, 2, 3, true⟩,
      .redAdd ⟨1, 2, 3, true⟩, .pin 1 2 0 0, .vfabs ⟨1, 2, 3, 0, 0, false⟩, .vfceq ⟨8, 2, 3, 0, 0, false⟩, .viota ⟨1, 2, 0, 0, 0, false⟩,
      .viota ⟨1, 0, 2, 0, 0, false⟩, .vbcast ⟨1, 2, 3, 0, 0, false⟩, .vmovs 1 2 64 false 0, .vmovs 1 2 0 true 3, .vinsl 1 2 32 3,
      .vredsum ⟨1, 2, 3, 0, 0, false⟩, .vcvt ⟨1, 2, 14, 0, 0, false, false⟩, .vcvt ⟨1, 2, 15, 15, 0, false, false⟩,
      .vcvt ⟨1, 2, 15, 0, 1, false, false⟩, .vcvts ⟨1, 2, 0, 1, 0, false, false⟩, .vcvts ⟨1, 2, 15, 9, 0, false, false⟩,
      .vcvts ⟨1, 2, 4, 15, 0, true, false⟩, .vmaxabs 3 0 1 0 0 false, .vdecbTab 0 1 0, .pacc 0 0 1, .pacc 0x1F 0 1, .pacc 1 0 0,
      .pshift 0 1 48, .pdrain 1 0 0 2 1 0 false, .pdrain 1 0 0 0 2 1 false, .pexpRows 1 1 true, .pexpCols 1 0 0 0 false,
      .pexpCols 1 0 1 2 false, .pexpCols 1 1 1 0 true, .cgoIn ⟨5, 0, 0⟩, .cgoIn ⟨56, 0, 0⟩, .cgoIn ⟨4, 63, 0⟩, .cseq 6 1 2, .cseq 0 1 62,
      .sbindIn ⟨0, 5, 0, 0⟩, .bank 1 3, .collBcast ⟨3, 1, 0⟩, .tlbinv 3 1 false, .tlbinv 0 32 false, .csrwp 32 0x100, .csrwp 1 0x007,
      .csrrp 1 0x00A, .flread 32 1, .flread 1 32, .flwrite 32 1, .vinval 32 false, .bmap 1 32] : List Instr).all
        (fun i => !i.wellFormed) = true := by decide

/-! States that meet the hypotheses of the statements. Context 0 of partition 0 owns die 0; its page tables stand in the
cellar at `cel`, and map pages 0 (all permissions, MS) and 1 (reading alone), and page 3 as moving. -/

/-- The first byte of the cellar. -/
def cel : Nat := 0x10000000000

/-- Put 8-byte words into a memory, lowest byte first. -/
def putWords (m : Memory) (l : List (Nat × Nat)) : Memory := l.foldl (fun m p => writeBytes m p.1 (leBytes p.2 8)) m

/-- The page tables. -/
def tables : List (Nat × Nat) :=
  [(cel, cel + 0x1001), (cel + 0x1000, cel + 0x2001), (cel + 0x2000, cel + 0x3001), (cel + 0x3000, cel + 0x1023F),
    (cel + 0x3008, cel + 0x11223), (cel + 0x3018, cel + 0x1333F)]

/-- The context. -/
def ctx0 : Context :=
  { part := 0, key := 0, keyGen := 0, seed := 0, root := BitVec.ofNat 48 cel, window := 0, share := 1, feat := 0x1F, safebound := 0,
    programs := [], ring := none, queues := [], btab := [(0, 0x405)], retain := [], meters := [], lastFault := [] }

/-- A booted module with words at the start of page 0 of the context. -/
def world (data : List (Nat × Nat) := []) : State :=
  { State.reset with
    mem := putWords [] (tables ++ data.map (fun p => (cel + 0x10000 + p.1, p.2)))
    boot := { State.reset.boot with powered := true, stage := 3 }
    contexts := [(0, ctx0)]
    mgmt := { State.reset.mgmt with partitions := [(0, ⟨[0], [], [], [0], [0], [], []⟩)] } }

/-- The booted module with one page of 1 GiB at address 0 of the context, and words at its start. -/
def flat (data : List (Nat × Nat)) : State :=
  { world with
    mem := putWords [] (data.map (fun p => (cel + p.1, p.2)) ++ [(cel + 0x10000, cel + 0x11001), (cel + 0x11000, cel + 0x23F)])
    contexts := [(0, { ctx0 with root := BitVec.ofNat 48 (cel + 0x10000) })] }

/-- A core in a timed task with an operation of slot k to run: scalar registers as listed, a barrier window of one. -/
def working (k : Nat) (a : Store Word) : Core :=
  { Core.reset with
    regs := { Core.reset.regs with a := a, csr := [(0x004, 0x10000), (0x100, 0x1F)] }
    task := { Task.none with status := .running, timed := true, duty := 8, burst := 64 }
    issue := { Issue.none with stage := .ops, slot := k } }

/-- The same with the firmware issuing, in exclusive mode. -/
def firm (k : Nat) (f : Store Word) : Core :=
  let c := working k []
  { c with fw := { c.fw with f := f, issuing := true, mode := .exclusive } }

/-- The world with a core 0. -/
def at0 (c : Core) (data : List (Nat × Nat) := []) : State := (world data).setCore c

/-- The bytes of words. -/
def image (l : List Nat) : List Byte := l.flatMap (fun w => leBytes w 8)

/-- Whether every operation of a list passes its checks, at its first issue. -/
def pass (s : State) (l : List Instr) : Bool := s.core.issue.again.isNone && l.all (fun i => i.wellFormed && opCheck i s == none)

/-- R145, R146, R148: special values, on f32: infinities, NaNs, signed zeros, and the table of the transcendental
instructions. 0x7FC00000 is the canonical NaN. -/
theorem test_float_special_values :
  fAdd f32Format .rne 0x7F800000 0xFF800000 = (0x7FC00000, flagNV) ∧
  fMul f32Format .rne 0x00000000 0x7F800000 = (0x7FC00000, flagNV) ∧
  fFma f32Format .rne false 0x00000000 0x7F800000 0x7FC00000 = (0x7FC00000, flagNV) ∧
  fMinMax f32Format false 0x80000000 0x00000000 = (0x80000000, 0) ∧
  fMinMax f32Format true 0x7FC00000 0x3F800000 = (0x3F800000, 0) ∧
  fMinMax f32Format true 0x7F800001 0x3F800000 = (0x3F800000, flagNV) ∧
  fSignOp f32Format true 0x7FC00000 = (0x7FC00000, 0) ∧ fSignOp f32Format false 0x7F800001 = (0x7FC00000, flagNV) ∧
  fTrans f32Format .rne .rcp 0x80000000 = (0xFF800000, flagDZ) ∧ fTrans f32Format .rne .rcp 0xFF800000 = (0x80000000, 0) ∧
  fTrans f32Format .rne .rsq 0x80000000 = (0xFF800000, flagDZ) ∧ fTrans f32Format .rne .rsq 0xBF800000 = (0x7FC00000, flagNV) ∧
  fTrans f32Format .rne .exp2 0xFF800000 = (0x00000000, 0) ∧ fTrans f32Format .rne .exp2 0x80000000 = (0x3F800000, 0) ∧
  fTrans f32Format .rne .log2 0x00000000 = (0xFF800000, flagDZ) ∧ fTrans f32Format .rne .log2 0xFF800000 = (0x7FC00000, flagNV) ∧
  fTrans f32Format .rne .log2 0x3F800000 = (0x00000000, 0) := by decide +kernel

/-- Scalar operations pass, with zeros, with the operands of the corner of division, and with `immx` beside them. -/
theorem witness_scalar :
    let ops : List Instr := [.add ⟨5, 6, 7⟩, .sub ⟨5, 6, 7⟩, .and ⟨5, 6, 7⟩, .or ⟨5, 6, 7⟩, .xor ⟨5, 6, 7⟩, .andn ⟨5, 6, 7⟩, .shl ⟨5, 6, 7⟩,
      .shr ⟨5, 6, 7⟩, .sar ⟨5, 6, 7⟩, .min ⟨5, 6, 7⟩, .max ⟨5, 6, 7⟩, .minu ⟨5, 6, 7⟩, .maxu ⟨5, 6, 7⟩, .slt ⟨5, 6, 7⟩, .sltu ⟨5, 6, 7⟩,
      .seq ⟨5, 6, 7⟩, .sne ⟨5, 6, 7⟩, .mul ⟨5, 6, 7⟩, .mulh ⟨5, 6, 7⟩, .mulhu ⟨5, 6, 7⟩, .div ⟨5, 6, 7⟩, .divu ⟨5, 6, 7⟩, .rem ⟨5, 6, 7⟩,
      .remu ⟨5, 6, 7⟩, .clz ⟨5, 6, 0⟩, .ctz ⟨5, 6, 0⟩, .popc ⟨5, 6, 0⟩, .addi ⟨5, 6, 0x800⟩, .andi ⟨5, 6, 1⟩, .ori ⟨5, 6, 1⟩, .xori ⟨5, 6, 1⟩,
      .slti ⟨5, 6, 1⟩, .sltui ⟨5, 6, 1⟩, .shli ⟨5, 6, 63⟩, .shri ⟨5, 6, 1⟩, .sari ⟨5, 6, 1⟩, .movi ⟨5, 1⟩, .movk ⟨5, 3, 1⟩,
      .madd ⟨5, 6, 7, 8⟩, .lea ⟨5, 6, 7, 63⟩, .sel ⟨5, 6, 7, 8⟩, .bfx ⟨5, 6, 0, 63⟩, .bfxz ⟨5, 6, 63, 0⟩, .bfi ⟨5, 6, 1, 62⟩,
      .csrr ⟨5, 0, 0x009⟩, .csrw ⟨0, 6, 0x003⟩]
    let big : Core := working 0 [(6, BitVec.intMin 64), (7, BitVec.allOnes 64)]
    pass (at0 (working 0 [])) ops = true ∧ pass (at0 big) (ops.take 45) = true ∧
      (at0 big).readA 6 = BitVec.intMin 64 ∧ (at0 big).readA 7 = BitVec.allOnes 64 ∧ (at0 big).core.issue.immx = none ∧
      2 ^ 63 ≤ ((at0 big).readA 6).toNat ∧ ((at0 big).readA 6).getLsbD 63 = true ∧
      let c := working 0 []; let s := at0 { c with issue := { c.issue with immx := some 1 } }
      pass s ops = true ∧ s.core.issue.immx = some 1 ∧ s.core.issue.slot = 0 ∧
      let d := working 1 []; pass (at0 { d with issue := { d.issue with word := bundleOf 0 (word12 2 5 6 1) } }) [.immx 7] = true := by
  decide +kernel

/-- A privileged register in user code; the firmware's operations. -/
theorem witness_control_registers :
    let s := at0 (working 0 []); (∀ i ∈ [Instr.csrr ⟨5, 0, 0x100⟩, .csrw ⟨0, 6, 0x113⟩], encCheck i 0 s = true ∧ portCheck i s = none) ∧
      pass (at0 (firm 2 [])) [.csrrp 3 0x000, .csrwp 3 0x100, .flread 3 4, .flwrite 3 4, .tlbinv 2 3 true, .tlbinv 0 3 false,
        .vinval 3 true, .vinval 3 false, .bmap 3 4, .resume, .fwtake, .fwyield true 0x0D, .fwyield false 0] = true := by
  decide +kernel

/-- R88 to R102: transfers, loops, barriers, ends and waits. -/
theorem witness_control :
    let ops : List Instr := [.brEq ⟨5, 6, 3⟩, .brNe ⟨5, 6, 3⟩, .brLt ⟨5, 6, 3⟩, .brGe ⟨5, 6, 3⟩, .brLtu ⟨5, 6, 3⟩, .brGeu ⟨5, 6, 3⟩, .bz 5 3,
      .bnz 5 3, .jmp 3, .call 3, .jmpr 5, .callr 5, .ret, .loop ⟨3, 5, 11, 3, true, false⟩, .loopi ⟨0, 1, 0, 0, true, true⟩, .lbrk 3, .halt,
      .align 16, .alignr 5, .realign, .bwait 0, .barm 0 5 true, .bbadv, .mark 4, .leave, .leaveEnd]
    pass (at0 (working 2 [])) ops = true ∧ pass (at0 (working 2 [(5, 0xFFFFFFFF)])) [.loop ⟨3, 5, 11, 3, true, false⟩] = true ∧
      let free := working 2 []; let s := at0 { free with task := { free.task with timed := false } }
      let t := at0 { free with task := { free.task with timed := false, leave := true } }
      pass s [.leave, .leaveEnd] = true ∧ s.core.task.timed = false ∧ s.core.task.leave = false ∧
      pass t [.leave, .leaveEnd] = true ∧ t.core.task.leave = true ∧
      ∀ i ∈ [Instr.align 1, .alignr 5, .realign, .trap 7, .jmpr 5, .callr 5, .ret], encCheck i 2 s = true := by decide +kernel

/-- R89: the values a register transfer is checked on, at their bounds. -/
theorem witness_targets :
    let s (x : Word) := at0 (working 2 [(1, x)]); (s (2 ^ 48)).readA 1 = 2 ^ 48 ∧ (s 31).readA 1 = 31 ∧ (s (2 ^ 48 - 32)).readA 1 = 2 ^ 48 - 32 ∧
      encCheck .ret 2 (s (2 ^ 48)) = true := by decide +kernel

/-- R50: an interlocked page and a native one. R98: a window of no barrier, and a number at its end. -/
theorem witness_return_and_windows :
    let s := at0 (working 2 []); let c := working 2 []
    let t := at0 { c with issue := { c.issue with pos := ⟨⟨0x2000, 2, .interlocked⟩, 127⟩ } }
    s.fwIssuing = false ∧ s.core.issue.pos.ver.treat = .native ∧ t.fwIssuing = false ∧ t.core.issue.pos.ver.treat = .interlocked ∧
      bits ((at0 Core.reset).readCsr 0x004) 26 16 = 0 ∧ bits (s.readCsr 0x004) 26 16 = 1 ∧ (0 : BitVec 10).toNat < 1 := by decide +kernel

/-- R103, R104, R208 to R215: accesses. -/
theorem witness_accesses :
    pass (at0 (working 3 [])) [.ldB ⟨5, 6, 1⟩, .ldBu ⟨5, 6, 1⟩, .ldH ⟨5, 6, 2⟩, .ldHu ⟨5, 6, 2⟩, .ldW ⟨5, 6, 4⟩, .ldWu ⟨5, 6, 4⟩, .ldD ⟨5, 6, 8⟩,
        .ldx ⟨5, 6, 7, 0, 6⟩, .vld ⟨5, 6, 7, 0, 1⟩, .vldEf ⟨5, 6, 7, 0, 2⟩, .vlds ⟨5, 6, 7, 0, 3⟩, .vldx ⟨5, 6, 7, 0, 7⟩, .vldb ⟨5, 6, 7, 0, 0⟩,
        .vld ⟨5, 6, 7, 1, 1⟩, .pref ⟨0, 6, 8⟩] = true ∧
      pass (at0 (working 3 [(6, 2 ^ 48)])) [.pref ⟨0, 6, 0⟩] = true ∧ pass (at0 (working 3 [(6, 0xFFFF00000000)])) [.pref ⟨0, 6, 0⟩] = true ∧
      pass (at0 (working 4 [])) [.stB ⟨5, 6, 1⟩, .stH ⟨5, 6, 2⟩, .stW ⟨5, 6, 4⟩, .stD ⟨5, 6, 8⟩, .stx ⟨5, 6, 7, 0, 3⟩, .vst ⟨5, 6, 7, 0, 0⟩,
        .vstEf ⟨5, 6, 7, 0, 1⟩, .vsts ⟨5, 6, 7, 0, 2⟩, .vstx ⟨5, 6, 7, 0, 4⟩, .vstmc ⟨5, 6, 7, 0, 0⟩, .vstmc ⟨5, 6, 7, 1, 0⟩, .wbk ⟨0, 6, 8⟩,
        .pin 5 6 15 7, .unpin 7] = true ∧
      pass (at0 (working 4 [(5, 2 ^ 30)])) [.pin 5 6 15 7] = true ∧
      pass (at0 (working 4 [])) [.amoAdd ⟨0, 6, 7, true⟩, .amoFadd ⟨0, 6, 7, false⟩, .amoMin ⟨0, 6, 7, false⟩, .amoMax ⟨0, 6, 7, false⟩,
        .amoMinu ⟨0, 6, 7, false⟩, .amoMaxu ⟨0, 6, 7, false⟩, .amoAnd ⟨0, 6, 7, false⟩, .amoOr ⟨0, 6, 7, false⟩, .amoXor ⟨0, 6, 7, false⟩,
        .amoSwap ⟨0, 6, 7, false⟩, .amoCas ⟨5, 6, 7, true⟩, .amoFmin ⟨0, 6, 7, false⟩, .amoFmax ⟨0, 6, 7, false⟩, .redAdd ⟨0, 6, 7, true⟩,
        .redFadd ⟨0, 6, 7, false⟩, .redMin ⟨0, 6, 7, false⟩, .redMax ⟨0, 6, 7, false⟩, .redMinu ⟨0, 6, 7, false⟩, .redMaxu ⟨0, 6, 7, false⟩,
        .redAnd ⟨0, 6, 7, false⟩, .redOr ⟨0, 6, 7, false⟩, .redXor ⟨0, 6, 7, false⟩, .redFmin ⟨0, 6, 7, false⟩, .redFmax ⟨0, 6, 7, false⟩] = true := by
  decide +kernel

/-- R209: lists of elements whose first bad one is known; values of the atomics' statement at their bounds. -/
theorem witness_elements :
    (∀ x ∈ [(⟨0, 0xFFFFFFFFFFF8, 8⟩ : MemElem)], x.va.toNat < 2 ^ 48 ∧ x.size ∣ x.va.toNat) ∧ 2 ^ 48 ≤ (0x1000000000000 : Word).toNat ∧
      (3 : Word).toNat < 2 ^ 48 ∧ ¬ 2 ∣ (3 : Word).toNat ∧ 2 ^ 32 - 1 < 2 ^ 32 ∧ (3, 8) ∈ [(0, 4), (1, 2), (2, 1), (3, 8)] := by decide

/-- R145 to R170: the V slots. -/
theorem witness_vectors :
    let f : FormVR := ⟨5, 6, 7, 3, 2, false⟩; let g : FormVR := ⟨5, 6, 0, 0, 3, true⟩; let i : FormVR := ⟨5, 0, 0, 0, 2, false⟩
    pass (at0 (working 5 [(9, 64)])) [.vfadd f, .vfsub f, .vfmul f, .vfma f, .vfms f, .vfmin f, .vfmax f, .vfabs g, .vfneg g, .vfrcp g, .vfrsq g, .vfexp2 g,
      .vflog2 g, .vscalb f, .vsexp f, .vfceq f, .vfclt f, .vfcle f, .vfcun f, .vceq f, .vclt f, .vcltu f, .vadd f, .vsub f, .vmul f,
      .vmulh f, .vmin f, .vmax f, .vminu f, .vmaxu f, .vand f, .vor f, .vxor f, .vshl f, .vshr f, .vsar f, .vaddsat f, .vsubsat f, .vsel f,
      .vperm f, .viota i, .vbcast g, .vslide 5 6 0x40, .vslideR 5 6 0x3F, .vmovs 5 6 63 true 0, .vinsl 5 6 31 3, .vredsum g, .vredmax g,
      .vredmin g, .kopAnd 1 2 3 4, .kopOr 1 2 3 4, .kopXor 1 2 3 4, .kopAndn 1 2 3 4, .kpop 5 1 2, .kpopMv 5 1 2, .kpopFf 5 1 2, .kfrom 1 5,
      .kset 1 9, .vcvt ⟨5, 6, 1, 8, 2, true, false⟩, .vcvt ⟨5, 6, 15, 1, 0, false, false⟩, .vcvts ⟨5, 6, 2, 7, 3, false, true⟩,
      .vmaxabs 8 3 6 2 1 true, .vdecb 5 6 2 3, .vdecbTab 7 6 1, .vsplit 5 6 8 7 3 true, .vflags 5 0x1F, .vflagsSet 5 6] = true := by decide +kernel

/-- R127, R137, R163: the numbers of the statements about trees, digits and scales, at bounds. -/
theorem witness_numbers :
    (3 ≤ 2 ^ 2 ∧ 4 ≤ 2 ^ 2) ∧ (8 ∈ [8, 16, 32, 64] ∧ 256 = 2048 / 8 ∧ 63 < 64 ∧ 4 < 5) ∧ 254 < 255 ∧
      ((0 : Int) ≤ 7 ∧ 2 ^ 12 - 1 < 2 ^ (((7 : Int) - 0).toNat + 5) ∧ ((7 : Int) - 0).toNat ≤ 7 * 1 ∧ 0 < 1) := by decide

/-- R120, R123: encodings of each kind in the vector formats: zeros, numbers of both signs, the largest, infinities, and NaNs
that signal and that do not. -/
theorem witness_encodings :
    ∀ f ∈ vectorFormats, (f.isNumber 0 ∧ f.isNumber f.maxEnc ∧ f.rest (f.signed true 1) ≠ 0) ∧ (f.isInf f.infEnc ∧ ¬ f.isNaN f.infEnc) ∧
      (f.isNaN f.nanEnc ∧ ¬ f.signals f.nanEnc ∧ f.signals (f.infEnc + 1)) ∧ ¬ f.isNaN f.maxEnc ∧ ¬ f.isInf f.maxEnc := by
  simp only [FloatFormat.isNumber, FloatFormat.isInf, FloatFormat.isNaN, FloatFormat.signals]
  decide +kernel

/-- The same: they are encodings; and sums and products of two numbers that vanish and that do not. -/
theorem witness_encoded_sums :
    ∀ f ∈ vectorFormats, f ∈ allFormats ∧ (f.maxEnc < 2 ^ f.width ∧ f.infEnc + 1 < 2 ^ f.width ∧ f.nanEnc < 2 ^ f.width ∧ f.signed true 1 < 2 ^ f.width) ∧
      f.signOf (f.signed true f.infEnc) ≠ f.signOf f.infEnc ∧ f.value 1 + f.value (f.signed true 1) = 0 ∧ f.value 1 + f.value 1 ≠ 0 ∧
      f.value 1 * f.value 2 ≠ 0 ∧ f.value 0 * f.value 2 = 0 := by decide +kernel

/-- R120: encodings of the formats of one byte and less. -/
theorem witness_small_encodings :
    (∀ f ∈ allFormats, f.isNumber (f.signed true f.maxEnc) ∧ f.signed true f.maxEnc < 2 ^ f.width) ∧
      (e4m3Format.isNaN 0xFF ∧ ¬ e4m3Format.signals 0xFF ∧ 0xFF < 2 ^ e4m3Format.width) ∧ e5m2Format.isInf 0xFC ∧ e5m2Format.isNaN 0x7D := by
  simp only [FloatFormat.isNumber, FloatFormat.isInf, FloatFormat.isNaN, FloatFormat.signals]
  decide +kernel

/-- R124 to R126: 1 and 2^-149, which single precision holds; one that it does not, known to lie between two neighbours. -/
theorem witness_rounded :
    let f := f32Format; let x : Exact := ⟨false, 1, 0, false⟩; let y : Exact := ⟨true, 2 ^ 25, -149, true⟩
    let lo (x : Exact) := scaledBy x.mant (x.exp - f.qmin); let hi (x : Exact) := scaledBy (x.mant + 1) (x.exp - f.qmin)
    f ∈ allFormats ∧ 0 < x.mant ∧ x.more = false ∧ 2 ^ 149 * (lo x).2 = (lo x).1 * 1 ∧
      y.more = true ∧ 2 ^ (f.mbits + 2) ≤ y.mant ∧ (lo y).1 * 2 < (2 ^ 26 + 1) * (lo y).2 ∧ (2 ^ 26 + 1) * (hi y).2 < (hi y).1 * 2 := by
  decide +kernel

/-- R145: a product of zero and infinity, an infinite product beside an infinite addend of either sign, and a sum of products
that vanishes. -/
theorem witness_fused :
    let f := f32Format; let i := f.infEnc; let n := f.signed true i; let p (x y : Nat) : Int := f.value x * f.value y
    let D : Int := 2 ^ (-f.qmin).toNat
    (f.isInf i ∧ f.isNumber 0 ∧ f.rest 0 = 0) ∧ (f.isInf i ∧ ¬ f.isNaN 1 ∧ ¬ f.isNumber i ∧ f.rest 1 ≠ 0) ∧ f.isInf n ∧
      f.signOf n ≠ (f.signOf i != f.signOf 1) ∧ f.signOf i = (f.signOf i != f.signOf 1) ∧
      f.value 1 * D + p (f.signed true 0x3F800000) 1 = 0 ∧ f.value 0 * D + p 0x3F800000 1 ≠ 0 ∧ f.isNumber 0x3F800000 ∧ f.isNumber (f.signed true 0x3F800000) := by
  simp only [FloatFormat.isNumber, FloatFormat.isInf, FloatFormat.isNaN]
  decide +kernel

/-- R148, R167: the exact values that are decided, and those of a power of two and of 3. -/
theorem witness_logarithms :
    let f := f32Format
    (1 < 2 ^ (f.ebits + 1) * 2 ^ (1 : Int).toNat ∧ (exactExp2 f false 1 (-1)).mant ≠ 0 ∧ (exactExp2 f true 1 (-1)).mant ≠ 0) ∧
      1 * 2 ^ 3 ≤ 2 ^ (f.ebits + 1) ∧ (exactLog2 f 3 0).mant ≠ 0 ∧ (exactLog2 f 3 (-5)).mant ≠ 0 ∧ 3 < 2 ^ 64 ∧ (8 : Nat) = 2 ^ 3 ∧
      ∀ j : Nat, 3 ≠ 2 ^ j := by
  refine ⟨by decide +kernel, by decide, by decide +kernel, by decide +kernel, by decide, by decide, fun j h => ?_⟩
  obtain _ | _ | j := j
  · simp at h
  · simp at h
  · rw [show j + 1 + 1 = j + 2 from rfl, Nat.pow_add] at h; omega

/-- R125, R130, R132, R155, R163: integers of both kinds at the ends of their ranges, and blocks of each kind. -/
theorem witness_conversions :
    (8 ∈ [4, 8, 32, 64] ∧ 255 < 2 ^ 8 ∧ 2 ^ (8 - 1) ≤ 255 ∧ ¬ 2 ^ (8 - 1) ≤ 127 ∧ 0 < 2 ^ 8) ∧
      (let r (x : Nat) : Int := let v := scaledBy (f32Format.units (f32Format.rest x)) f32Format.qmin
        if f32Format.signOf x then -(nearestInt .rne true v.1 v.2 : Int) else nearestInt .rne false v.1 v.2;
        (r 0x42FE0000 ≤ 2 ^ 7 - 1 ∧ 2 ^ 7 - 1 < r 0x43000000 ∧ r 0xC3010000 < -2 ^ 7 ∧ -2 ^ 7 ≤ r 0xC3000000)) ∧
      FloatVal.nan true ∈ [FloatVal.nan true] ∧ (∀ q, FloatVal.nan q ∉ [FloatVal.inf false]) ∧
      (∀ v ∈ [FloatVal.fin false 0 3], ∃ n e, v = .fin n 0 e) ∧
      (let l := [FloatVal.fin false 5 0, .fin true 3 1, .fin false 0 9]; (∀ v ∈ l, ∃ n m e, v = .fin n m e) ∧ FloatVal.fin false 5 0 ∈ l ∧
        ∀ n' m' e', FloatVal.fin n' m' e' ∈ l → 0 < m' → e' + (Nat.log2 m' : Int) ≤ 0 + Nat.log2 5) ∧
      511 < 512 ∧ Core.reset.regs.trellis = [] ∧ 254 < 255 := by
  refine ⟨by decide, by decide +kernel, by decide, by simp, ?_, ⟨?_, by decide, ?_⟩, by decide, rfl, by decide⟩
  · intro v hv; simp at hv; exact ⟨_, _, hv⟩
  · intro v hv; simp at hv; rcases hv with h | h | h <;> exact ⟨_, _, _, h⟩
  · intro n m e h hm
    simp at h
    rcases h with ⟨-, rfl, rfl⟩ | ⟨-, rfl, rfl⟩ | ⟨-, rfl, rfl⟩
    · decide
    · decide
    · omega

/-- R184 to R191: the press. -/
theorem witness_press :
    pass (at0 (working 7 [])) [.pset 6 7 true false, .ppush 5 3 63, .pfill 5 3, .pfillN 5 1, .pacc 0x0F 5 9, .pshift 2 3 47,
        .pdrain 6 6 7 3 0 0 true, .pdrain 5 6 7 1 1 0 true, .pdrain 5 6 7 1 2 0 true, .pdrain 5 6 7 3 3 0 true, .pclr 0xA5 true false,
        .pclrSt 5 0xA5, .pexpRows 5 1 false, .pexpCols 5 0 3 1 true] = true ∧
      let p : Press := { Press.clear with
        macros := [(16384 + 5, 3)], cap := [(0, 2)], capW := 2, capMask := 2, capDelta := 1, capKq := 1, acc := [(2053, 0x7FFFFFFFFFFA)], ovf := 4 }
      2 < 8 ∧ 0 < 8 ∧ 5 < 128 ∧ p.ovf.getLsbD 2 = true ∧ p.capMask.getLsbD 1 = true ∧ 1 ≤ p.capW ∧ p.capW ≤ 8 ∧
        2 ^ 47 ≤ (p.accAt 2 0 5).toInt + 3 * 2 ^ 1 := by decide +kernel

/-- Registers of a record of rank 1 at a4 (four f32 elements, a window of four) and of an origin at a20. -/
def record (edge : Nat) (origin : Nat) : Store Word :=
  [(5, wordOf (4 + 2 ^ 32)), (6, wordOf (1 + 2 ^ 32)), (7, wordOf (1 + 2 ^ 32 + 2 ^ 36 + edge * 2 ^ 40)),
    (12, wordOf (4 + 2 ^ 16 + 2 ^ 32 + 2 ^ 48)), (13, 1), (20, wordOf origin)]

/-- The copy of that record. -/
def tile (edge : Nat) (origin : Int) : Copy :=
  ⟨⟨0, [4, 1, 1, 1, 1], 1, 4, edge, [0, 0, 0, 0], [4, 1, 1, 1, 1], 0, 0, 0, 0, 0, 0⟩, [origin, 0, 0, 0, 0], false, 5, 0, 0, [], 0⟩

/-- Cluster 0 with its first bank as scratchpad and its third as FIFO. -/
def banked (s : State) : State := { s with clusters := [(0, { Cluster.reset with modes := [(0, .spad), (2, .fifo)] })] }

/-- R240 to R251: copy instructions, records, levels, nests. -/
theorem witness_copies :
    let s := at0 (working 7 (record 1 0xFFFFFFFF)); let n : Nest := ⟨tile 0 0, List.replicate 6 SeqLevel.init, 0, 0, false, some 0⟩
    pass s [.cgoIn ⟨4, 20, 0⟩, .cgoOut ⟨4, 20, 0⟩, .cstart ⟨4, 20, 0⟩, .cstartOut ⟨4, 20, 0⟩, .cseq 5 9 20] = true ∧
      (match s.readTile 4 20 true with | .ok p => p == ((tile 1 (-1)).lay, (tile 1 (-1)).origin) | .error _ => false) = true ∧
      n.count ≠ 0 ∧ ({ n with levels := { SeqLevel.init with count := 0 } :: n.levels.tail } : Nest).count = 0 ∧
      n.copy.origin.length = 5 ∧ n.copy.lay.rank ≤ 5 ∧ 0 < n.copy.lay.rank ∧
      (∀ ilv ∈ [0, 1, 2], ({ n.copy.lay with ilv := ilv } : Layout).ilv = ilv) ∧ 3 < 4 ∧ 0 < 1 := by decide +kernel

/-- R246 to R248: a copy of each kind that can go on, with an element out of bounds under edge mode 2 and without; the
elements that are moved, filled and skipped; contributions. -/
theorem witness_copy_elements :
    let s (c : Copy) := let w := working 7 []; banked (at0 { w with eng := { w.eng with copies := [c], contribs := [(5, 16, true)] } })
    (s (tile 2 (-1))).readyCopy 0 = some 0 ∧ (tile 2 (-1)).lay.anyOut (tile 2 (-1)).origin = true ∧ (tile 2 (-1)).next = 0 ∧
      (s (tile 0 0)).readyCopy 0 = some 0 ∧ (tile 0 0).lay.edge ≠ 2 ∧
      let l := (tile 1 (-1)).lay
      l.inb [-1, 0, 0, 0, 0] 0 = false ∧ l.inb [-1, 0, 0, 0, 0] 1 = true ∧ l.laddr 3 < 2 ^ 23 ∧ (s (tile 0 0)).engineBank 0 (l.laddr 3) = .ok ∧
      (match (s (tile 0 0)).engineXlat 1 0 .read (l.gaddr [-1, 0, 0, 0, 0] 1) 4 with
        | (v, .ok t) => (v.readTarget 1 0 t).2.isSome
        | _ => false) = true ∧
      (s (tile 0 0)).core.eng.contribs.filter (fun c => c.1 == 5) ≠ [] ∧ (s (tile 0 0)).core.eng.contribs.filter (fun c => c.1 == 6) = [] := by
  decide +kernel

/-- R220 to R225: binds, unbinding a bound and an unbound port, entries, bank switches. -/
theorem witness_streams :
    let w := working 7 (record 0 0); let x := streamOf (tile 0 0).lay (tile 0 0).origin false 2 7 0
    let y := { streamOf (tile 0 0).lay (tile 0 0).origin true 2 7 0 with filled := 1 }
    let s := banked (at0 w); let t := banked (at0 { w with eng := { w.eng with streams := [(0, x), (1, y)] } })
    pass s [.sbindIn ⟨1, 4, 20, 2⟩, .sbindOut ⟨3, 4, 20, 2⟩, .sbindOff 2, .bank 0x8001 1, .bank 0 0] = true ∧
      pass t [.sbindOff 0, .sbindOff 2] = true ∧
      (t.core.eng.stream 0).bound = true ∧ x.fillable = true ∧ y.drainable = true ∧ y.closing = false ∧
      (match (t.streamBytes 2 0 x (x.entryElems 0)).2 with | .ok bs => bs.length == 16 | .error _ => false) = true ∧
      (t.streamWrite 2 0 y (y.entryElems 0) (readBytes t.cluster.sram (2 * 2 ^ 19) 256)).2 = none ∧
      let q := { s with clusters := [(0, { Cluster.reset with switching := [⟨0, 0, 1, .spad⟩], asked := 1 })] }
      q.cluster.switching = [⟨0, 0, 1, .spad⟩] ∧ q.cluster.flushes ⟨0, 0, 1, .spad⟩ = true ∧
      ((q.flushOpen (whoStore 0) 0).cluster.allDirty = []) := by decide +kernel

/-- Page 4 of the context, memory that is not memory-side, and a bank of it. -/
def plain : List (Nat × Nat) := [(cel + 0x3020, cel + 0x1422F)]

/-- The world with page 4, cluster 0 with banks of each mode, and copies on the core. -/
def copying (l : List Copy) : State :=
  let w := working 7 []; let s := banked (at0 { w with eng := { w.eng with copies := l } })
  { s with mem := putWords s.mem plain }

/-- That copy outwards, at another base, and with two rows that share their local places. -/
def outAt (c : Copy) (base : Nat) : Copy := { c with lay := { c.lay with base := BitVec.ofNat 48 base }, out := true }
def shared (c : Copy) : Copy :=
  { c with lay := { c.lay with extents := [4, 2, 1, 1, 1], rank := 2, windows := [4, 2, 1, 1, 1] }, next := 5 }

/-- R247: nothing to go on with; a pass that ends, one that waits for a moving page, one that meets an address past the
address space. -/
theorem witness_copy_passes :
    let s := copying []; let c := tile 0 0
    let how (c : Copy) := (s.copyPass 0 c c.left).2.2.2
    s.readyCopy 0 = none ∧ (copying [c]).readyCopy 0 = some 0 ∧ how c = .all ∧ how { c with lay := { c.lay with base := 0x3000 } } = .pause ∧
      how { c with lay := { c.lay with base := 0xFFFFFFFFFFFF } } = .fault 0x05 0x1000000000003 ∧ s.bad = [] ∧ (s.coreAt 0).flow.finding = none ∧
      (s.copyElement 0 { c with lay := { c.lay with base := 0x3000 } } 0).2 = .pause ∧ (s.copyElement 0 c 0).2 = .moved := by decide +kernel

/-- R244 to R247: a local place outside the window; a skipped element; one that comes in, or is filled, and one whose place a
later element has taken. -/
theorem witness_element_in :
    let s := copying []; let c := tile 0 0; let far := { c with lay := { c.lay with lbase := 2 ^ 23 } }
    let f := tile 1 (-1); let h (c : Copy) : Bool := match s.engineXlat (whoCopy 0) 0 .read (c.lay.gaddr c.origin 0) 4 with
      | (v, .ok t) => v.engineBank 0 (c.lay.laddr 0) == .ok && (v.coreAt 0).copyMayRead 0 (c.lay.gaddr c.origin 0) 4 && (v.readTarget (whoCopy 0) 0 t).2.isSome
      | _ => false
    2 ^ 23 ≤ far.lay.laddr 0 ∧ (tile 0 (-1)).lay.inb (tile 0 (-1)).origin 0 = false ∧ (tile 0 (-1)).lay.edge ≠ 1 ∧
      (f.lay.inb f.origin 0 = false ∧ f.lay.edge = 1 ∧ s.engineBank 0 (f.lay.laddr 0) = .ok) ∧
      (c.lay.inb c.origin 0 = true ∧ h c = true ∧ c.superseded 0 = false) ∧
      ((shared c).lay.inb (shared c).origin 0 = true ∧ h (shared c) = true ∧ (shared c).superseded 0 = true) := by decide +kernel

/-- The same outwards: to a bank, to memory-side memory and to memory behind the cluster cache. -/
theorem witness_element_out :
    let s := copying []; let c := tile 0 0
    let h (c : Copy) (ok : Target → Bool) : Bool := match s.engineXlat (whoCopy 0) 0 .write (c.lay.gaddr c.origin 0) 4 with
      | (v, .ok t) => v.engineBank 0 (c.lay.laddr 0) == .ok && (v.coreAt 0).copyMayRead 0 (wordOf (windowBase + c.lay.laddr 0)) 4 && ok t
      | _ => false
    (∀ b ∈ [0, 0x4000, windowBase], (outAt c b).lay.laddr 0 < 2 ^ 23 ∧ (outAt c b).lay.inb (outAt c b).origin 0 = true ∧ (outAt c b).superseded 0 = false) ∧
      h (outAt c windowBase) (fun t => t.places == [.bank 0]) = true ∧
      h (outAt c 0) (fun t => t.places == [.mem (cel + 0x10000) (cel + 0x10000)] && t.ms) = true ∧
      h (outAt c 0x4000) (fun t => t.places == [.mem (cel + 0x14000) (cel + 0x14000)] && !t.ms) = true ∧
      (s.clusterAt 0).cache = [] ∧ (cel + 0x14000) % 16 + 4 ≤ 16 ∧
      (shared (outAt c 0)).superseded 0 = true := by
  decide +kernel

/-- R223, R225: a drain port with entries that is unbound; an entry of the stream that closes, which the engine holds; and
one that it writes. -/
theorem witness_closing_streams :
    let w := working 7 []; let y := { streamOf (tile 0 0).lay (tile 0 0).origin true 2 7 0 with filled := 1 }
    let c := { Cluster.reset with modes := [(2, .fifo)] }; let e : Engines := { w.eng with streams := [(1, y)] }
    let d := e.applyBinds c (fun _ => false) [(1, none)]; let s := banked (at0 { w with eng := d }); let x := s.core.eng.drain 1
    (e.stream 1).bound = true ∧ (e.stream 1).drain = true ∧ (e.stream 1).taken < (e.stream 1).filled ∧ x.closing = true ∧ x.drainable = true ∧
      x.held ≠ [] ∧ (match s.drainEntry x with | some bs => (s.streamWrite (whoStream 0 1) 0 x (x.entryElems x.taken) bs).2 == none | none => false) = true ∧
      (let t := banked (at0 { w with eng := e }); let z := t.core.eng.drain 1
        z.closing = false ∧ z.drainable = true ∧ z.held = [] ∧ t.bad = [] ∧
        (match t.drainEntry z with | some bs => (t.streamWrite (whoStream 0 1) 0 z (z.entryElems z.taken) bs).2 == none | none => false) = true) := by
  decide +kernel

/-- A group table of cores 0 and 8 of this module, with its send buffer at 0x200 and its receive buffer at 0x300. -/
def group : List (Nat × Nat) := [(0, 2), (8, 1), (16, 0x200), (24, 0x300), (72, 8)]

/-- A waiting member of that group, whose send buffer of one element has been read. -/
def member (core : Nat) : Member :=
  ⟨core, 0, 0, 2, 2, 0, 1, 0x200, 0x300, [(0, 0), (8, 0)], core / 8, 5, 0, 0, [(0, [0, 0, 0, 0])], false, none, []⟩

/-- The first of those members, with nothing read yet, from a send buffer at an address. -/
def unread (send : Addr) : Member := { member 0 with got := [], send := send }

/-- R256 to R261: a `coll` that passes, and each thing the unit can do to match: wait, read, for a buffer that can be read, one
on a page that moves and one that is not there, send, fault a group that disagrees, and match one. -/
theorem witness_collectives :
    let f : FormCO := ⟨2, 9, 0⟩; let s := at0 (working 7 []) group; let w (l : List Member) : State := { s with colls := l }
    let reads (m : Member) (ok : Except (Nat × Word) (Store (List Byte)) → Bool) : Bool :=
      (w [m, member 8]).nextMatch == .read m && ok ((w [m, member 8]).readSends m m.got m.unread).2
    pass s [.collAllreduceSum f, .collAllreduceMax f, .collAllgather f, .collRscatterSum f, .collRscatterMax f, .collBcast f] = true ∧
      (w []).nextMatch = .wait ∧ (w [member 0]).nextMatch = .wait ∧
      reads (unread 0x200) (fun r => match r with | .ok g => g == [(0, [0, 0, 0, 0])] | .error _ => false) = true ∧
      reads (unread 0xFFFF00000000) (fun r => match r with | .ok _ => false | .error x => x == (0x04, 0xFFFF00000000)) = true ∧
      (match ((w []).readSend (unread 0x3000) 0).2 with | .error none => true | _ => false) = true ∧ (w [unread 0x3000, member 8]).nextMatch = .wait ∧
      (let m := { member 0 with members := [(0, 0), (8, 1)] }; (w [m]).nextMatch = .send m) ∧
      (let m := { member 8 with cnt := 2, got := [(0, [0, 0, 0, 0]), (1, [0, 0, 0, 0])] }; (w [member 0, m]).nextMatch = .mismatch [m] ∧
        ((w []).coreAt 8).flow.finding = none) ∧
      (w [member 0, member 8]).nextMatch = .ready [member 0, member 8] [[0, 0, 0, 0], [0, 0, 0, 0]] ∧
      ([[1, 0, 0, 0], [2, 0, 0, 0]] : List (List Byte)).length = (member 0).n := by decide +kernel

/-- R259: a group whose members wait with the same contents, and one that disagrees with the member named first. -/
theorem witness_groups :
    let s := at0 (working 7 []) group; let w (l : List Member) : State := { s with colls := l }; let a := member 0; let b := member 8
    let c := { b with cnt := 2 }; let k (x : Nat × Nat) : CollKey := if x = (0, 0) then a.key else c.key
    (∀ m ∈ [a, b], m.result = none ∧ ∀ x ∈ m.members, x.2 = (w [a, b]).moduleNo ∧
      (match (w [a, b]).waitingColl m.key x.1 with
        | some y => y.unread == [] && (w [a, b]).storesDone y
        | none => false) = true) ∧
      (∀ m ∈ [a, c], (m.core, (w [a, c]).moduleNo) ∈ m.members ∧ k (m.core, (w [a, c]).moduleNo) = m.key ∧ m.members.head? = some (0, 0) ∧
        (∀ x ∈ m.members, x.2 = (w [a, c]).moduleNo ∧ (w [a, c]).keysOf x = [k x] ∧ (m.core, (w [a, c]).moduleNo) ∈ (k x).members) ∧
        (8, 0) ∈ m.members ∧ k (8, 0) ≠ k (0, 0)) := by decide +kernel

/-- R261: matched members: one whose receive buffer is written, one with an element to write, one whose element must wait, and one
that meets a page without permission. -/
theorem witness_completions :
    let s := at0 (working 7 []) group; let w (l : List Member) : State := { s with colls := l }
    let m (recv : Addr) (left : List Nat) : Member := { member 0 with result := some [1, 2, 3, 4], left := left, recv := recv }
    let due (m : Member) : Bool := (w [m]).colls.find? (w [m]).completable == some m
    let writes (m : Member) (ok : Except (Nat × Word) (List Nat) → Bool) : Bool := due m && ok ((w [m]).writeRecvs m [] m.left).2
    let finds (va : Word) (ok : Engine → Bool) : Bool := ok (s.engineXlat (whoColl 0) 0 .write va 4).2
    due (m 0x300 []) = true ∧ (w []).colls.find? (w []).completable = none ∧
      writes (m 0x300 [0]) (fun r => match r with | .ok l => l == [] | .error _ => false) = true ∧
      writes (m 0x1000 [0]) (fun r => match r with | .ok _ => false | .error x => x == (0x04, 0x1000)) = true ∧
      (s.coreAt 0).flow.finding = none ∧ due (m 0x3000 [0]) = false ∧
      finds 0x300 (fun r => match r with | .ok _ => true | _ => false) = true ∧ finds 0x1000 (fun r => match r with | .fault 4 => true | _ => false) = true ∧
      finds 0x3000 (fun r => match r with | .pause => true | _ => false) = true := by decide +kernel

/-- A timed launch of one task on die 0, and its phase. -/
def launch0 : Launch :=
  { id := 0, phase := 0, ctx := 0, part := 0, cls := 0, die := 0, timed := true, entry := 0, params := 0, ex := 1, ey := 1, ez := 1, duty := 8,
    burst := 64, cadence := 0, bwin := 0x10000, next := 0, done := 0, reserved := [], cancelled := false, lambda := [(0, 4)], interval := [(0, 1)] }
def phase0 : Phase :=
  { id := 0, ctx := 0, q := 0, record := 0, node := 0, mask := 1, timed := true, asked := false, granted := false, start := none, fault := none,
    cancelled := false }

/-- A state in which that phase runs. -/
def phased (s : State) : State := { s with fe := { s.fe with launches := [(0, launch0)], phases := [(0, phase0)] } }

/-- R316 to R326: a die that bears on ring time; sends that wait, depart and arrive at a free and at a full queue. -/
theorem witness_timed :
    let w := working 4 []; let x : Send := ⟨7, 0, 2, 0, none, 4, 1⟩
    let s := phased (at0 w)
    let d := phased { at0 { w with task := { w.task with realigned := true }, eng := { w.eng with sends := [x], lastDeparture := [(0, 4)] } } with
      dies := [(0, { Die.reset with count := 5 })] }
    let a (q : List Vec) := phased (at0 { w with eng := { w.eng with sends := [{ x with departed := some 0, lambda := 1 }], landQ := [(2, q)] } })
    pass s [.tsend 7 0 2] = true ∧ (s.dieAt 0).fenced = false ∧ (s.dieAt 0).point = 0 ∧
      d.departs 0 0 = true ∧ find? 0 d.core.eng.lastDeparture = some 4 ∧ d.core.eng.waiting 0 = [x] ∧
      (a []).arrivingCore = some 0 ∧ (find [] 2 ((a []).coreAt (64 * 0 + 0 % 64)).eng.landQ).length < 64 ∧
      (a (List.replicate 64 0)).arrivingCore = some 0 ∧ 64 ≤ (find [] 2 ((a (List.replicate 64 0)).coreAt 0).eng.landQ).length ∧
      ((a []).coreAt 0).flow.finding = none ∧ ((a []).coreAt 0).eng.sends.find? ((a []).arrives 0) = some { x with departed := some 0, lambda := 1 } := by
  decide +kernel

/-- R269 to R289: activations, their ends, a value entry of the record. -/
theorem witness_firmware :
    let w := working 2 []; let f := firm 2 []
    let t := at0 { w with flow := { w.flow with finding := some (.trap 2 15 0x1000) } }
    let b := { at0 { w with regs := { w.regs with csr := put 0x103 1 w.regs.csr } } with req := some (.firmwareRequest 0) }
    let bg := at0 { f with fw := { f.fw with mode := .background } }
    let y := at0 { f with fw := { f.fw with event := some ⟨0x10, 0, 0, 0⟩ } }
    let r := { w with flight := { w.flight with words := [(0, wordOf (2 ^ 48)), (1, 5)],
                                                info := [(0, ⟨0, false, false, none, scalarBits, .a 5, IssueReads.none, 0⟩)] } }
    let busy := at0 { f with flow := { f.flow with finding := some (.trap 2 15 0x1000) } }
    (busy.core.fw.mode = .exclusive ∧ busy.core.flow.finding = some (.trap 2 15 0x1000) ∧ busy.req = none) ∧
    t.req = none ∧ t.core.flow.finding = some (.trap 2 15 0x1000) ∧ t.core.fw.mode = .idle ∧ t.core.fw.queue = [] ∧
      b.req = some (.firmwareRequest 0) ∧ (b.coreAt 0).flow.finding = none ∧ (b.coreAt 0).fw.mode = .idle ∧ (b.coreAt 0).fw.queue = [] ∧
      0 < (b.coreAt 0).share ∧
      pass bg [.resume, .fwtake, .fwyield false 0, .fwyield true 0xFF] = true ∧ bg.core.fw.mode = .background ∧
      pass y [.resume, .fwyield false 0, .fwyield true 0x0D] = true ∧ y.core.fw.mode = .exclusive ∧
      bits (find 0 (128 * 0) r.flight.words) 49 48 = 1 ∧ find 0 1 r.flight.words = BitVec.ofNat 64 5 ∧ (find? 0 r.flight.info).isSome = true := by
  decide +kernel

/-- A core at page 0, resident, with nothing bounding it. -/
def running (code : List Bundle) : Core :=
  let w := working 0 []
  { w with task := { w.task with timed := false }, mem := { w.mem with code := [(Pos.zero.ver, code)] }, issue := Issue.none }

/-- R46, R61, R76, R95, R283: an empty bundle to be fetched; no-op bundles behind a drain with work left and without. -/
theorem witness_bundles :
    let s := at0 (running [0]); let c := running []; let d := at0 { c with loops := { c.loops with draining := some 1, notStarted := [(1, 1)] } }
    s.fwIssuing = false ∧ s.core.fw.mode = .idle ∧ s.core.flow.goto = none ∧ s.core.mem.segCount = 0 ∧ s.bad = [] ∧
      s.core.flow.pos.ver ∈ s.core.mem.resident ∧ s.core.mem.bundleAt s.core.flow.pos = 0 ∧ s.core.task.timed = false ∧
      s.core.regs.readCsr 0x101 = 0 ∧ s.core.press.beatAt 0 = false ∧ (∀ k, k < 4 → s.core.regs.readCsr (0x110 + k) = 0) ∧
      s.core.loops.draining = none ∧ d.core.loops.draining = some 1 ∧ d.core.inFlight = false ∧ find 0 1 d.core.loops.notStarted ≠ 0 ∧
      find 0 0 d.core.loops.notStarted = 0 := by decide +kernel

/-- The module whose context has one page of 1 GiB with native code, and a table of two segments of one page at 0x8000. -/
def coded (c : Core) : State :=
  let s := (flat [(0x8000, 2 ^ 48), (0x8008, 1), (0x8010, 0x1000 + 2 ^ 48), (0x8018, 0), (0x1020, 7)]).setCore c
  { s with mem := putWords s.mem [(cel + 0x11000, cel + 0x23F + 3 * 2 ^ 48)] }

/-- A core with that table and segment 0 resident. -/
def overlaid (copy : Option Nat) : Core :=
  let c := running []
  { c with mem := { c.mem with segAddr := 0x8000, segCount := 2, segHalves := [0], segCopy := copy }, issue := { c.issue with addr := 0 } }

/-- Whether an address can be entered. -/
def enters (s : State) (a : Addr) : Bool := match (s.enter 0 a).2 with
  | .ok _ => true
  | _ => false

/-- R59, R60, R304: a mark, and a hint to a segment that is not resident and to a target that cannot be entered, with a copy
that runs and without; an activation for a segment. -/
theorem witness_segments :
    let s := coded (overlaid none); let r := coded (overlaid (some 1)); let x : Segment := ⟨1, 0x1000, 4096, 0⟩;
    (coded (running [])).core.mem.segCount = 0 ∧ r.core.mem.segCopy = some 1 ∧ s.core.mem.segCopy = none ∧
      s.segmentOf 0 s.core.issue.addr = some ⟨0, 0, 4096, 1⟩ ∧ 1 ∉ s.core.mem.segHalves ∧ 0 < s.core.mem.segCount ∧
      enters s 0x1000 = true ∧ s.segmentOf 0 0x1000 = some x ∧ (((0x1000 : Addr).toNat : Int) = s.core.issue.addr.toNat + 32 * (128 : BitVec 12).toInt) ∧
      (let o := overlaid none; let far := coded { o with issue := { o.issue with addr := BitVec.ofNat 48 (2 ^ 30 - 32) } }
        enters far (BitVec.ofNat 48 (2 ^ 30)) = false ∧ far.core.issue.addr.toNat + 32 * (1 : BitVec 12).toInt = 2 ^ 30) ∧
      (let f := firm 2 []; let a := at0 { f with fw := { f.fw with event := some ⟨0x11, 0, 0, 0⟩, segment := some 1 } }
        pass a [.resume, .fwyield false 0] = true ∧ a.core.fw.segment = some 1) ∧
      (r.segments 0).find? (fun y => y.idx == 1) = some x ∧ x.len = 4096 := by decide +kernel

/-- R193, R295, R304: the code of a native page, of a racked one, and a page that is not there. -/
theorem witness_code :
    let s := coded (overlaid (some 1)); let c := running []; let p : Version := ⟨0x1000, 3, .native⟩;
    (match (s.enter 0 0x1000).2 with | .ok q => q.ver == p | _ => false) = true ∧ (s.codeOf 0 p).toOption.isSome = true ∧
      (s.readAllowed (fun p => p.x) 0 0 0x1000 64).toOption.isSome = true ∧ (s.readAllowed (fun p => p.x) 0 0 0x3000 1).toOption.isSome = true ∧
      (let m := at0 { c with mem := { c.mem with reload := some ⟨0x2000, 3, .native⟩ } };
        (match m.codeOf 0 ⟨0x2000, 3, .native⟩ with | .error (.trap 0x02 0x2000) => true | _ => false) = true ∧ m.core.flow.finding = none ∧ m.core.mem.reload = some ⟨0x2000, 3, .native⟩) ∧
      (let m := { at0 c with contexts := [(0, { ctx0 with root := 0xFFFFFFFFF000 })] };
        (match m.codeOf 0 ⟨0x2000, 3, .native⟩ with | .error (.fault code _ _) => code == 0x05 | _ => false) = true) := by decide +kernel

/-- R60, R304: a fetch outside every segment, and one in a segment that is not resident. -/
theorem witness_segment_fetches :
    let c := overlaid none; let s (a : Addr) := coded { c with flow := { c.flow with pos := ⟨⟨a, 3, .native⟩, 0⟩ } };
    (s 0x2000).core.fw.mode = .idle ∧ (s 0x2000).core.flow.goto = none ∧ (s 0x2000).core.mem.segCount ≠ 0 ∧
      (s 0x2000).segmentOf 0 (s 0x2000).core.flow.pos.addr = none ∧ (s 0x2000).core.flow.finding = none ∧
      (s 0x1000).segmentOf 0 (s 0x1000).core.flow.pos.addr = some ⟨1, 0x1000, 4096, 0⟩ ∧ 1 ∉ (s 0x1000).core.mem.segHalves ∧
      (s 0x1000).core.mem.segCopy = none ∧ (s 0x1000).core.fw.segment = none := by decide +kernel

/-- R193, R304, R311: a fetch from a page that is not resident: of the program, and of no program. -/
theorem witness_page_fetches :
    let c := running []; let at_ (a : Addr) : State := at0 { c with mem := { c.mem with pages := [(0x2000, 1)] }, flow := { c.flow with pos := ⟨⟨a, 3, .native⟩, 0⟩ } };
    let ok (s : State) : Bool := s.core.fw.mode == .idle && s.core.flow.goto.isNone && s.core.mem.segCount == 0 &&
      !s.core.mem.resident.contains s.core.flow.pos.ver && s.core.flow.finding.isNone
    ok (at_ 0x2000) = true ∧ ok (at_ 0x3000) = true ∧
      (at_ 0x2000).placed 0 0x2000 = true ∧ (at_ 0x3000).placed 0 0x3000 = false ∧
      (overlaid none).mem.backs 0x1000 = false ∧ SoftPlace.code 0 0 0 ∉ (at0 (running [0])).bad := by decide +kernel

/-- What a bundle on the page that runs meets: the state with it, and its operations once it is opened. -/
def meeting (b : Bundle) (f : Core → Core) : State := at0 (f (running [b]))
def opened (s : State) : State := s.openedAt s.core.flow.pos
def meets (s : State) : List (Nat × Instr) := (opened s).core.issue.ops
/-- The check of every operation of a bundle, by slot. -/
def found (s : State) : List (Nat × Option Check) := (meets s).map (fun p => (p.1, opCheck p.2 ((opened s).atSlot p.1)))

/-- R75: no illegal slot. -/
def allLegal (s : State) : Bool := (List.range 8).all (fun k => slotWord (opened s).core.issue.word k == 0 ||
  (match decodeSlot k (slotWord (opened s).core.issue.word k) with | .ok i => legalHere i k (opened s) | .error _ => false))

/-- A timed task with a cadence; a pending request. -/
def timedCore (c : Core) : Core := { c with task := { c.task with timed := true, cadence := 8 } }
def askedCore (c : Core) : Core := { c with task := { c.task with preempt := true } }

/-- R57, R75: bundles of the statement: a pad, a bad header, a request at an empty safe bundle, a port that is empty, and a beat
without leave. -/
theorem witness_bundle_checks :
    let beat := bundleOf 7 (4#6 ++ 1#8 ++ 0#3 ++ 1#4 ++ 0#9); let safe : Bundle := 0x8000#16 ++ 0#240
    let ok (s : State) : Bool := s.core.fw.mode == .idle && s.core.flow.goto.isNone && s.core.mem.resident.contains s.core.flow.pos.ver &&
      s.bad.isEmpty && s.core.mem.segCount == 0 && s.core.flow.finding.isNone
    ok (meeting padWord id) = true ∧ (header (0x0001#16 ++ 0#240)).hint = 0 ∧ (header (0x0001#16 ++ 0#240)).dist ≠ 0 ∧
      (allLegal (meeting safe askedCore) = true ∧ (opened (meeting safe askedCore)).core.preemptsHere = true ∧
        (opened (meeting safe id)).core.preemptsHere = false) ∧
      (let s := meeting (bundleOf 5 (wordVR 1 5 60 7 0 0 0)) timedCore;
        allLegal s = true ∧ (meets s).any (fun p => (opened s).freezes p.2) = true ∧ s.core.task.timed = true ∧ s.core.task.ccount.toNat < s.core.task.cadence.toNat) ∧
      (let s := meeting beat id; ok s = true ∧ allLegal s = true ∧ (meets s).all (fun p => !(opened s).freezes p.2) = true ∧
        (opened s).core.carriesBeat ((meets s).map (fun p => p.2)) = true ∧ s.core.task.timed = false ∧ s.core.task.leave = false) := by decide +kernel

/-- R264, R267, R280: a fault of a slot, a trap, a missing barrier entry, a watch of the fetch, and a bundle that passes. -/
theorem witness_operand_checks :
    let fault := bundleOf 2 (word24 0x0C 7); let add := bundleOf 0 (word5 1 5 6 7 0); let coll := bundleOf 7 (0x15#6 ++ 5#3 ++ 2#2 ++ 9#6 ++ 0#10 ++ 0#3)
    let bad (c : Core) : Core := { c with regs := { c.regs with a := [(9, 0x2000)] } }
    let watch (dbg : Word) (c : Core) : Core := { c with regs := { c.regs with csr := (0x110, 0x140000000000000) :: (0x102, dbg) :: c.regs.csr } }
    let quiet (s : State) : Bool := allLegal s && (meets s).all (fun p => !(opened s).freezes p.2) && !(opened s).core.carriesBeat ((meets s).map (fun p => p.2))
    (let s := meeting (fault ||| add) id; quiet s = true ∧ found s = [(0, none), (2, some (.fault 0x0C 0 7))]) ∧
      (let s := meeting coll (fun c => timedCore (bad c)); allLegal s = true ∧ found s = [(7, some (.trap 0x02 0x2000))]) ∧
      (let s : State := { meeting (bundleOf 2 (0x11#6 ++ 0#10 ++ 9#6 ++ 0#1 ++ 0#7)) id with contexts := [(0, { ctx0 with btab := [] })] };
        quiet s = true ∧ found s = [(2, some .miss)]) ∧
      (let w (d : Word) := meeting add (watch d); quiet (w 0) = true ∧ found (w 0) = [(0, none)] ∧ (opened (w 0)).watchFound (meets (w 0)) = some (8, 0) ∧
        (w 0).core.debugged = false ∧ (w 0x100000).core.debugged = true ∧ (opened (w 0x100000)).watchFound (meets (w 0x100000)) = some (8, 0)) ∧
      (let s := meeting add id; quiet s = true ∧ found s = [(0, none)] ∧ ∀ n, n < 4 → s.core.regs.readCsr (0x110 + n) = 0) := by decide +kernel

/-- R75: the lowest slot whose word is no operation. -/
theorem witness_illegal_slot :
    let s := opened (meeting (bundleOf 1 1) id); s.illegalSlot 1 ∧ ¬ s.illegalSlot 0 := by
  refine ⟨⟨by decide +kernel, fun i h => ?_⟩, fun h => h.1 (by decide +kernel)⟩
  have : (decodeSlot 1 (slotWord (opened (meeting (bundleOf 1 1) id)).core.issue.word 1)).toOption = none := by decide +kernel
  rw [h] at this; cases this

/-- R281 to R288: requests, a safe bundle that is displaced, reports of a timed phase. -/
theorem witness_preemption :
    let c := running []; let safe : Bundle := BitVec.ofNat 256 (2 ^ 255)
    let p := { c with task := { c.task with preempt := true, leave := true }, issue := { c.issue with word := safe } }
    let w := working 2 []
    let r (b : Bool) := phased (at0 { w with task := { w.task with alignReport := some b } })
    (at0 p).core.preemptsHere = true ∧ (at0 p).core.task.leave = true ∧ (at0 c).core.preemptsHere = false ∧
      (r true).req = none ∧ (r true).reported = [0] ∧ (r false).reported = [0] ∧ (r false).core.task.alignReport ≠ some true ∧
      0 ∈ ((r true).siblings 0).flatMap (r true).coresOf ∧
      ({ r true with req := some (.timedPhasePreemption 0 1) } : State).req = some (.timedPhasePreemption 0 1) := by decide +kernel

/-- R51, R93, R112: a level at the end of its body in its last pass and before; the bounds of a pass. -/
theorem witness_loops :
    let l (n : BitVec 33) : LoopLevel := { LoopLevel.off with active := true, count := n, len := 1, iters := 2, rot := true, bbadv := true }
    let c := running []; let at_ (n : BitVec 33) := { c with loops := { c.loops with levels := [(0, l n)], order := [0] } }
    (l 2).endsAt (at_ 2).issue.pos = true ∧ 1 < (l 2).count.toNat ∧ (l 1).endsAt (at_ 1).issue.pos = true ∧ (l 1).count.toNat ≤ 1 ∧
      (at_ 1).loops.order = [0] ∧ (at_ 1).task.preempt = false ∧ 0 < (l 1).stages ∧ (l 2).count.toNat < (l 2).iters.toNat + (l 2).stages := by
  decide +kernel

/-- A level of n passes left and i iterations in st stages, whose body is the one bundle at address 0. -/
def levelOf (n i : BitVec 33) (st : Nat) (drained : Bool) : LoopLevel :=
  { LoopLevel.off with active := true, count := n, len := 1, stages := st, iters := i, rot := true, bbadv := true, drained := drained }

/-- A core with levels, the first set up last. -/
def looping (ls : List LoopLevel) (notStarted : Store Nat) (preempt : Bool) : Core :=
  let c := running []
  { c with loops := { c.loops with levels := (List.range ls.length).zip ls, order := List.range ls.length, notStarted := notStarted },
           task := { c.task with preempt := preempt } }

/-- R52, R111: two levels that end at one bundle, the inner in its last pass and the outer to repeat; a request with levels of
one stage. -/
theorem witness_levels :
    let c := looping [levelOf 1 3 1 false, levelOf 2 3 1 false] [] true
    let ends (n : Nat) := (c.loops.level n).endsAt c.issue.pos
    c.loops.order = [0] ++ [1] ∧ c.loops.order.Nodup ∧ c.task.preempt = true ∧ (∀ n ∈ c.loops.order, (c.loops.level n).stages ≤ 1) ∧
      ends 0 = true ∧ (c.loops.level 0).count.toNat ≤ 1 ∧ (c.loops.level 0).drained = false ∧ ends 1 = true ∧ 1 < (c.loops.level 1).count.toNat ∧
      (let d := looping [levelOf 1 3 1 false] [] false; d.loops.order = [0] ++ [] ∧ (d.loops.level 0).count.toNat ≤ 1) := by decide +kernel

/-- R114, R287: a request at a level of two stages, with iterations left to start and with none; drained levels at their end. -/
theorem witness_drains :
    let ok (c : Core) (n i : Nat) : Bool := c.loops.order == [0] && (c.loops.level 0).endsAt c.issue.pos && c.task.preempt &&
      !(c.loops.level 0).drained && (c.loops.level 0).stages == 2 && (c.loops.level 0).count.toNat == n && (c.loops.level 0).iters.toNat == i
    ok (looping [levelOf 5 5 2 false] [] true) 5 5 = true ∧ 5 + 2 - 5 < 5 ∧ ok (looping [levelOf 2 5 2 false] [] true) 2 5 = true ∧ 5 ≤ 5 + 2 - 2 ∧ 2 < 2 ^ 33 ∧
      (∀ l ∈ [[(0, 3)], []], let c := looping [levelOf 1 2 2 true] l false; (c.loops.level 0).drained = true ∧ (c.loops.level 0).count.toNat ≤ 1 ∧
        c.loops.order = [0] ∧ (find 0 0 c.loops.notStarted = 0 ∨ 0 < find 0 0 c.loops.notStarted)) := by decide +kernel

/-- R49 to R52, R287: a transfer whose countdown ends, one that has not ended beside a loop return and beside none; no-op
bundles; a drain's end with and without a transfer. -/
theorem witness_next_places :
    let c := running []; let q : Pos := ⟨⟨0, 3, .native⟩, 8⟩
    let s (f : Flow → Flow) (i : Issue → Issue) := at0 { c with flow := f c.flow, issue := i c.issue }
    let xs (s : State) : List Xfer := s.core.flow.xfers.map (fun x => { x with countdown := x.countdown - 1 }) ++
      (s.core.issue.taken.map (fun x => (⟨s.delays, x.1, x.2⟩ : Xfer))).toList
    (let t := s (fun f => { f with xfers := [⟨1, 0x100, some q⟩] }) id; t.core.flow.noOps = false ∧ t.core.loops.draining = none ∧ xs t = ⟨0, 0x100, some q⟩ :: []) ∧
      (let t := s id (fun i => { i with taken := some (0x100, some q), back := some (0, some Pos.zero) }); (∀ x ∈ (xs t).head?, 0 < x.countdown) ∧
        t.core.issue.back = some (0, some Pos.zero)) ∧
      (let t := s id id; xs t = [] ∧ t.core.issue.back = none ∧ t.core.issue.setupSkip = none ∧ t.core.issue.pos.next = .inl ⟨⟨0, 3, .native⟩, 1⟩) ∧
      (s (fun f => { f with noOps := true }) id).core.flow.noOps = true ∧
      (let d := { c with loops := { c.loops with draining := some 1, notStarted := [(1, 1)] } };
        (at0 d).core.loops.draining = some 1 ∧ (at0 d).core.flow.xfers = [] ∧ (at0 d).core.issue.taken = none ∧ (at0 d).core.task.status = .running ∧
        (let e := at0 { d with flow := { d.flow with xfers := [⟨1, 0x100, some q⟩] } }; e.core.flow.xfers ≠ [] ∧ 0 < find 0 1 e.core.loops.notStarted ∧
          (e.core.loops.level 1).active = false)) := by decide +kernel

/-- R47, R53, R108: the results that win a scalar register, a lane of a vector register and a bit of a mask register; a lane
and a bit that none writes. -/
theorem witness_winners :
    let c := working 0 []; let p (slot seq : Nat) (d : Dest) (en : Vec) : Pending := ⟨slot, seq, d, 7, en, 0, 0, true, 0, 0, false, false, 0, 1, IssueReads.none, 0⟩
    let s := at0 { c with flow := { c.flow with pend := [p 5 0 (.v 3) 0xFFFFFFFF, p 6 1 (.v 3) 0xFF, p 5 2 (.k 2) 1, p 5 3 (.k 2) 1, p 0 4 (.a 5) scalarBits, p 1 5 (.a 5) scalarBits] } }
    let last (x : Pending) (on : Pending → Bool) : Bool := s.core.flow.pend.contains x && x.lands 0 0 && on x &&
      s.core.flow.pend.all (fun q => !q.lands 0 0 || !on q || q == x || decide (q.slot < x.slot) || (q.slot == x.slot && decide (q.seq < x.seq)))
    let v (n b : Nat) (q : Pending) : Bool := q.dest == .v n && elem q.en 32 (b / 32) != 0
    let k (n b : Nat) (q : Pending) : Bool := q.dest == .k n && q.en.getLsbD b
    s.fwIssuing = false ∧ last (p 6 1 (.v 3) 0xFF) (v 3 31) = true ∧ last (p 5 3 (.k 2) 1) (k 2 0) = true ∧ last (p 1 5 (.a 5) scalarBits) (fun q => q.dest == .a 5) = true ∧
      s.core.flow.pend.all (fun q => !v 3 32 q) = true ∧ s.core.flow.pend.all (fun q => !k 2 1 q) = true := by decide +kernel

/-- R95, R287: no-op bundles of a halt; of a drain with nothing in flight, where a request is taken and where there is none. -/
theorem witness_no_ops :
    let d (b : Bool) := looping [{ levelOf 0 2 2 true with active := false }] [(0, 3)] b
    let s (b : Bool) := at0 { d b with loops := { (d b).loops with order := [], draining := some 0 } }
    (at0 (running [])).core.loops.draining = none ∧
      (∀ b ∈ [true, false], (s b).core.loops.draining = some 0 ∧ (s b).core.inFlight = false ∧ (s b).core.emptyHere [] = true ∧ (s b).core.task.preempt = b ∧
        0 < find 0 0 (s b).core.loops.notStarted ∧ ((s b).core.loops.level 0).active = false) := by decide +kernel

/-- R57: the operations of a bundle, one to a slot, with one in the C slot that is neither `immx` nor `barm`. -/
theorem witness_rows :
    (([(0, .add ⟨5, 6, 7⟩), (2, .halt)] : List (Nat × Instr)).map (fun p => p.1)).Nodup ∧ (2, Instr.halt) ∈ [(0, Instr.add ⟨5, 6, 7⟩), (2, .halt)] ∧
      (∀ p, Instr.halt ≠ .immx p) ∧ ∀ a b d, Instr.halt ≠ .barm a b d :=
  ⟨by decide, by decide, by simp, by simp⟩

/-- R46, R53: results that land and that stay; a firmware bundle. -/
theorem witness_landing :
    let s := (at0 (working 0 [])).landA 5 7 lat1; let t := (at0 (working 0 [])).landA 5 7 ⟨18, 24⟩; let f := at0 (firm 2 [])
    s.fwIssuing = false ∧ (∃ p ∈ s.core.flow.pend, p.lands 0 0 = true ∧ p.dest = .a 5 ∧
        ∀ q ∈ s.core.flow.pend, q.lands 0 0 = true → q.dest = .a 5 → q = p) ∧
      (∀ p ∈ t.core.flow.pend, p.lands 0 0 = true → p.dest ≠ .a 5) ∧
      f.fwIssuing = true ∧ f.core.fw.mode ≠ .idle ∧ f.core.fw.xfers = [] ∧ f.core.issue.taken = none := by decide +kernel

/-- An access of core 0 to page 0, translated to the places listed. -/
def access (i : Instr) (ts : Option (List Target)) : Access :=
  { slot := 4, seq := 3, instr := i, word := 0, ops := ⟨0, 0, 9, 0, 0, 0⟩, addr := 0, bundle := 0, elems := [⟨0, 0, 8⟩], targets := ts, physical := false,
    bounced := false, failed := false, asked := 0 }

/-- Core 0 with queues. -/
def queued (l q : List QueueEntry) : State := 
  let w := working 4 []
  at0 { w with mem := { w.mem with loadQ := l, storeQ := q } }

/-- R192 to R239: loads, stores and atomics at the head of their queues, to a bank and to memory; an error; a page that
moves; markers and write-backs. -/
theorem witness_memory :
    let e : MemElem := ⟨0, 0, 8⟩; let tm : Target := ⟨e, [.mem (cel + 0x10000) (cel + 0x10000)], true, 1⟩; let tb : Target := ⟨e, [.bank 16], false, 1⟩
    let ld := access (.ldD ⟨5, 6, 0⟩) (some [tm]); let st := access (.stD ⟨5, 6, 0⟩) (some [tb]); let am := access (.amoAdd ⟨0, 6, 7, true⟩) (some [tm])
    let s := queued [.access ld] []; let err : State := { s with bad := [.memory ((cel + 0x10000) / 8)] }
    headOf s.core.mem.loadQ = some (.access ld) ∧ ld.targets = some [tm] ∧
      (match ((s.charge 0 ld).readTargets 0 (isEvictFirst ld.instr) false [tm]).2 with | .ok l => l.length == 1 | .error _ => false) = true ∧
      (match ((err.charge 0 ld).readTargets 0 (isEvictFirst ld.instr) false [tm]).2 with | .ok _ => false | .error _ => true) = true ∧
      headOf (queued [] [.access st]).core.mem.storeQ = some (.access st) ∧ st.targets = some [tb] ∧
      headOf (queued [] [.access am]).core.mem.storeQ = some (.access am) ∧ am.targets = some [tm] ∧ amoOpOf am.instr = some .add ∧
      (queued [] [.access am]).badRange (cel + 0x10000) 8 = false ∧
      (let y := { access (.amoAdd ⟨0, 6, 7, true⟩) none with bounced := true }; let q := queued [] [.access y]
        q.stillMoving 0 y = false ∧ (q.translateAccess 0 y).2.2 = []) ∧
      (let y := { access (.amoAdd ⟨0, 6, 7, true⟩) none with bounced := true, elems := [⟨0, 0x3000, 8⟩] };
        (queued [] [.access y]).stillMoving 0 y = true) ∧
      (queued [.marker 2 0] [.marker 2 0]).core.mem.markerDue = some 2 ∧ (queued [.marker 1 0] [.marker 1 0]).core.mem.markerDue = some 1 ∧
      (queued [] [.access st]).core.mem.markerDue = none ∧
      (let b : CacheBlock := { CacheBlock.empty with dirty := 2 };
        find? 7 ({ s with clusters := [(0, { Cluster.reset with cache := [(7, b)] })] } : State).cluster.cache = some b ∧ b.dirty.getLsbD 1 = true) := by
  decide +kernel

/-- More entries of those tables: leaves of levels 0, 1 and 2, with a misaligned frame, groups of 64 KiB, no leaf at the last
level. -/
def moreTables : List (Nat × Nat) :=
  [(cel + 16, cel + 0x201), (cel + 24, cel + 0x3), (cel + 0x1008, cel + 2 ^ 30 + 0x23F), (cel + 0x1010, cel + 2 ^ 21 + 0x23F),
    (cel + 0x2008, cel + 2 ^ 21 + 0x23F), (cel + 0x2010, cel + 0xB3F), (cel + 0x3020, cel + 0x14001), (cel + 0x3080, cel + 0x10000 + 0x63F),
    (cel + 0x3108, cel + 0x10000 + 0x63F), (cel + 0x3180, cel + 0x10000 + 0x43F)]

/-- R200 to R203: what stands at each level: an entry that cannot be read, one that is not valid, tables, leaves, reserved bits,
and the groups of the last level. -/
theorem witness_walk_levels :
    let s : State := { world with mem := putWords (world).mem moreTables }; let v := s.ctxView 0
    let e (va k : Nat) : Word := ((s.entryAt v va k).toOption).getD 0
    let table (x : Word) : Bool := x.getLsbD 0 && bits x 8 1 == 0 && !x.getLsbD 9 && !x.getLsbD 11 && bits x 63 48 == 0
    let group (va : Nat) : Word := (s.readPhys64 v (cel + 0x3000 + 8 * (va / 2 ^ 12 % 512 / 16 * 16))).toOption.getD 0
    let t : State := { s with contexts := [(0, { ctx0 with root := 0xFFFFFFFFF000 })] }
    (t.entryAt (t.ctxView 0) 0 0).toOption = none ∧ (∀ k ∈ [0, 1, 2], table (e 0 k) = true) ∧ e 0 3 = wordOf (cel + 0x1023F) ∧
      (e (2 ^ 39) 0).getLsbD 0 = false ∧ (e (2 * 2 ^ 39) 0).getLsbD 9 = true ∧ (table (e (3 * 2 ^ 39) 0) = false ∧ (e (3 * 2 ^ 39) 0).getLsbD 9 = false) ∧
      ((e (2 ^ 30) 1).getLsbD 9 = true ∧ bits (e (2 ^ 30) 1) 47 12 * 2 ^ 12 % 2 ^ 30 = 0) ∧ bits (e (2 * 2 ^ 30) 1) 47 12 * 2 ^ 12 % 2 ^ 30 ≠ 0 ∧
      ((e (2 ^ 21) 2).getLsbD 9 = true ∧ bits (e (2 ^ 21) 2) 47 12 * 2 ^ 12 % 2 ^ 21 = 0) ∧ (e (2 * 2 ^ 21) 2).getLsbD 11 = true ∧
      ((e 0x4000 3).getLsbD 9 = false ∧ (e 0x4000 3).getLsbD 10 = false ∧ (e 0x4000 3).getLsbD 0 = true) ∧ (e 0x3000 3).getLsbD 8 = true ∧
      ((e 0x10000 3).getLsbD 10 = true ∧ (group 0x10000).getLsbD 9 = true ∧ bits (group 0x10000) 47 12 * 2 ^ 12 % 2 ^ 16 = 0) ∧
      ((e 0x21000 3).getLsbD 10 = true ∧ (group 0x21000).getLsbD 0 = false) ∧
      ((e 0x30000 3).getLsbD 10 = true ∧ (group 0x30000).getLsbD 0 = true ∧ (group 0x30000).getLsbD 9 = false) := by decide +kernel

/-- R203, R205: permissions that stand and that do not; places in the pool. -/
theorem witness_placement :
    [0, 1].Nodup ∧ (poolPlace [0, 1] 7 (2 ^ 40 - 1)).isSome = false ∧ (poolPlace [0, 1] 7 4095).isSome = true ∧ poolPlace [] 7 0 = none ∧
      (poolPlace [0, 1] 8 4095).isSome = true ∧ 2 ^ 40 - 1 < 2 ^ 40 := by decide +kernel

/-- R209: accesses that wait for their translation and that have it. -/
theorem witness_walk_requests :
    let x : Access := ⟨4, 3, .ldD ⟨5, 6, 0⟩, 0, ⟨0, 0, 9, 0, 0, 0⟩, 0, 0, [⟨0, 0, 8⟩], none, false, false, false, 0⟩; let y : Access := { x with targets := some [] }
    let waits (q : List QueueEntry) : Nat := ((queueAccesses q).map (fun x => if x.untranslated then x.elems.length else 0)).sum
    x.untranslated = true ∧ y.untranslated = false ∧ waits [.access x] + waits [] + sentRequests [.access x] + sentRequests [] ≤ 2048 ∧
      (working 4 []).task.status ≠ .faulted ∧ x.physical = false := by decide +kernel

/-- R103, R210: bytes of each length, and two elements of a vector. -/
theorem witness_loaded :
    (∀ n ∈ [1, 2, 4, 8], (List.replicate n (0x80 : Byte)).length = n) ∧
      (let l : List (MemElem × List Byte) := [(⟨0, 0, 4⟩, [1, 2, 3, 4]), (⟨63, 252, 4⟩, [5, 6, 7, 8])];
        (l.map (fun p => p.1.idx)).Nodup ∧ ∀ p ∈ l, p.2.length = 4 ∧ p.1.idx < 256 / 4) := by decide

/-- A load, a store or an atomic of 8 bytes of core 0 at va 0, with its target. -/
def request (i : Instr) (p : Place) (ms : Bool) : Access :=
  ⟨4, 3, i, 0, ⟨0, 0, 9, 0, 0, 0⟩, 0, 0, [⟨0, 0, 8⟩], some [⟨⟨0, 0, 8⟩, [p], ms, 1⟩], false, false, false, 0⟩

/-- Core 0 with one entry in each queue, a block of its cluster cache, and banks that do not cache. -/
def performing (l q : List QueueEntry) (cache : Store CacheBlock) (modes : Store BankMode := []) : State :=
  let w := working 4 []
  { at0 { w with mem := { w.mem with loadQ := l, storeQ := q } } with clusters := [(0, { Cluster.reset with cache := cache, modes := modes })] }

/-- R192, R195, R197: loads, stores and atomics whose target is a bank, memory-side memory, memory where no bank caches, and
memory behind a block that serves, that does not, and that finds a place. -/
theorem witness_places :
    let a := cel + 0x14000; let blk := a / 16; let m : Place := .mem a a; let none_ := (List.range 16).map (fun b => (b, BankMode.spad))
    let ld (p : Place) (ms : Bool) := request (.ldD ⟨5, 6, 0⟩) p ms; let st (p : Place) (ms : Bool) := request (.stD ⟨5, 6, 0⟩) p ms
    let am (p : Place) (ms : Bool) := request (.amoAdd ⟨0, 6, 7, true⟩) p ms
    let full : CacheBlock := { CacheBlock.empty with valid := 0xFFFF, dirty := 1, key := 1 }
    let s (c : Store CacheBlock) := performing [.access (ld m false)] [.access (st m false)] c
    (∀ q ∈ [(ld (.bank 16) false, false), (ld m true, true), (ld m false, false)], headOf [QueueEntry.access q.1] = some (.access q.1) ∧
      q.1.targets.isSome = true ∧ q.1.physical = false) ∧
      (s []).bad = [] ∧ 0 < (s []).cluster.cacheBanks ∧ (performing [] [] [] none_).cluster.cacheBanks = 0 ∧ a % 16 + 8 ≤ 16 ∧
      full.serves (s []).core.mem.refill (a % 16) 8 = true ∧ CacheBlock.empty.serves (s []).core.mem.refill (a % 16) 8 = false ∧
      (s []).cluster.cache.length < 32768 * (s []).cluster.cacheBanks ∧ (find? blk (s [(blk, full)]).cluster.cache).isSome = true ∧
      (storeBytes (st m false) ⟨0, 0, 8⟩).length = 8 ∧
      amoOpOf (am m false).instr = some .add ∧ find? blk (s []).cluster.cache = none ∧
      (s [(blk, full)]).badCached 0 (16 * blk) 16 = false := by
  decide +kernel

/-- A dirty block of the acting core, a cluster cache of context 0, and meters of that context that let no request through. -/
def dirtyBlock : CacheBlock := { CacheBlock.empty with valid := 0xFFFF, dirty := 2, owners := [0] }
def caching (l : Store CacheBlock) (s : State) : State := { s with clusters := [(0, { Cluster.reset with ctx := some 0, cache := l })] }
def shut (s : State) : State :=
  { s with contexts := s.contexts.map (fun p => (p.1, { p.2 with meters := (List.range 6).map (fun r => (r, ⟨1, 8, 0, []⟩)) })) }

/-- R104, R209, R227: a store to a bank, to memory, to memory that the cluster caches, and one of two elements of each kind. -/
theorem witness_writes :
    let a := cel + 0x14000; let m (d : Nat) (ms : Bool) : Target := ⟨⟨0, wordOf d, 8⟩, [.mem (a + d) (a + d)], ms, 1⟩
    let b (d : Nat) : Target := ⟨⟨0, wordOf d, 8⟩, [.bank (16 + d)], false, 1⟩; let spads := (List.range 16).map (fun b => (b, BankMode.spad))
    let x (ts : List Target) := access (.stD ⟨5, 6, 0⟩) (some ts); let s (ts : List Target) (modes : Store BankMode) := performing [] [.access (x ts)] [] modes
    (∀ ts ∈ [[b 0], [m 0 true], [m 0 false], [b 0, b 4], [m 0 true, m 4 true], [m 0 false, m 8 false]],
      headOf (s ts []).core.mem.storeQ = some (.access (x ts)) ∧ (x ts).targets = some ts ∧ (s ts []).bad = []) ∧
      (s [] spads).cluster.cacheBanks = 0 ∧ (s [] []).cluster.cacheBanks = 16 ∧ a % 16 + (storeBytes (x []) ⟨0, 0, 8⟩).length ≤ 16 ∧
      (s [] []).cluster.evicts (a / 16) = none ∧ (s [] []).cluster.cache.length + (memWrites (x []) [m 0 false, m 8 false]).length ≤ 32768 * 16 ∧
      (∀ w ∈ memWrites (x []) [m 0 false, m 8 false], w.1 % 16 + w.2.length ≤ 16) ∧ (memWrites (x []) [m 0 true, m 4 true]).length = 2 ∧
      (bankWrites (x []) [b 0, b 4]).length = 2 ∧ lastWrite [(4, [1, 2]), (5, [3])] 5 = some 3 := by decide +kernel

/-- R197: a cache of one bank that is full: its victim is its first block, clean or dirty. -/
theorem witness_victims :
    let c (b : CacheBlock) : Cluster :=
      { Cluster.reset with cache := List.replicate 32768 (0, b), modes := (List.range 15).map (fun b => (b, BankMode.spad)) }
    (∀ b ∈ [CacheBlock.empty, dirtyBlock], (c b).evicts 5 = some 0 ∧ find CacheBlock.empty 0 (c b).cache = b) ∧
      CacheBlock.empty.dirty = 0 ∧ dirtyBlock.dirty.getLsbD 1 = true ∧
      cacheVictim [(3, dirtyBlock), (4, { dirtyBlock with ef := true })] = some 4 ∧ [3, 4].Nodup := by
  refine ⟨fun b _ => ⟨?_, rfl⟩, rfl, rfl, rfl, by decide⟩
  have victim : ∀ n, cacheVictim (List.replicate (n + 1) (0, b)) = some 0 := by
    intro n; induction n with
    | zero => rfl
    | succ n ih => rw [List.replicate_succ, cacheVictim, ih]; simp
  have absent : ∀ n, find? 5 (List.replicate n (0, b)) = none := by
    intro n; induction n with
    | zero => rfl
    | succ n ih => rw [List.replicate_succ]; simpa [find?] using ih
  simp only [Cluster.evicts, absent, victim 32767, List.length_replicate]
  rfl

/-- R214, R230, R234, R345: markers of cluster and of die scope, a `wbk`, and a task that has ended, with dirty bytes that go home
and that a meter holds; no meter. -/
theorem witness_writebacks :
    let l := [(7, dirtyBlock)]; let w := access (.wbk ⟨0, 6, 8⟩) none; let mark (c : BitVec 3) := queued [.marker c 0] [.marker c 0]
    let clean (s : State) (blks : List Nat) : Bool := (s.writeBackOpen (whoStore s.cur) (clusterOf s.cur) blks).cluster.cleanAll blks
    (mark 1).core.mem.markerDue = some 1 ∧ (mark 3).core.mem.markerDue = some 3 ∧ (caching l (mark 3)).cluster.ownBlocks 0 = [7] ∧
      clean (caching l (mark 3)) [7] = true ∧ clean (shut (caching l (mark 3))) [7] = false ∧
      (queued [] [.access w]).core.mem.markerDue = none ∧ headOf (queued [] [.access w]).core.mem.storeQ = some (.access w) ∧
      ((queued [] [.access w]).regionBlocks 0 (w.ops.base + w.ops.t)).2 = [] ∧
      (caching l (queued [] [])).core.mem.markerDue = none ∧ (headOf (caching l (queued [] [])).core.mem.storeQ).isNone = true ∧
      (caching l (queued [] [])).metered ((caching l (queued [] [])).clusterCtx 0) = false ∧
      find? 7 ((caching l (queued [] [])).clusterAt 0).cache = some dirtyBlock ∧ (caching l (queued [] [])).badCached 0 (16 * 7) 16 = false := by
  decide +kernel

/-- That module with a queue 0 of its context. -/
def withQueue (x : Queue) (data : List (Nat × Nat)) : State :=
  let s := flat data
  { s with contexts := s.contexts.map (fun p => (p.1, { p.2 with queues := [(0, x)] })) }

/-- A graph that stands at node 0 of four. -/
def run0 : GraphRun := ⟨0x400, 4, 0x800, 9, 0, [], false, .ready, false, 0, none⟩

/-- Queue 0 of the context with a running graph, its node 0 at 0x420 and more words of page 0. -/
def graphed (run : GraphRun) (data : List (Nat × Nat)) : State :=
  withQueue { Queue.empty with run := some run } data

/-- Words as the node at 0x420. -/
def nodeWords (l : List Nat) : List (Nat × Nat) := [0x420, 0x428, 0x430, 0x438].zip l

/-- The queue that acts stands at a node of these words, which can be read and has no reserved field set. -/
def standsAt (s : State) (r : GraphRun) (l : List Nat) : Bool :=
  s.run == some r && decide (r.node < r.count) && s.nodeBytes 0 r == .ok (image l) && nodeReservedOk (image l)

/-- A node of type 3 with its targets and its predicate word. -/
def condWords (a b : Nat) : List Nat := [3, 0x900, a + b * 2 ^ 32, 0]
def control (a b p : Nat) : State := graphed run0 (nodeWords (condWords a b) ++ [(0x900, p)])

/-- R341: nodes with a predicate of 0 and of 1, with targets inside and outside the graph, and in a last iteration; what is
asked of them holds for a conditional, a loop and a loop-end node alike. -/
theorem witness_control_nodes :
    standsAt (control 1 2 1) run0 (condWords 1 2) = true ∧ ((control 1 2 1).nodeRead run0).wordFinding 0 .read 0x900 = .ok ∧
      (∀ p ∈ [0, 1], ((control 1 2 p).nodeRead run0).fetchVa 0 0x900 4 = .ok (leBytes p 4)) ∧ standsAt (control 4 4 1) run0 (condWords 4 4) = true ∧ find 0 run0.node run0.iters ≠ 1 ∧ find 0 0 [(0, 1)] = 1 := by
  decide +kernel

/-- R341: a node whose first bytes ask for a word, one that asks for ring time, a word that can be written, and a place for a
status record; waits for a word and for ring time; a transfer. -/
theorem witness_nodes :
    let s := graphed run0 (nodeWords [6, 0x900, 7, 0])
    standsAt s run0 [6, 0x900, 7, 0] = true ∧ (s.nodeRead run0).wordFinding 0 .write 0x900 = .ok ∧
      ((s.nodeRead run0).writeVa 0 0x900 (leBytes 7 4)).isSome = true ∧
      (s.writeVa 0 0x800 (List.replicate 64 0)).isSome = true ∧ nodeReservedOk (image [6 + 256, 0, 7, 0]) = true ∧
      (let r := { run0 with wait := .mem 0x900 7 }; (graphed r []).run = some r) ∧ (let r := { run0 with wait := .tick 0 }; (graphed r []).run = some r) ∧
      (let x : Transfer := ⟨0, some 0, 0, 0x100, 0x200, 4, 0⟩; let s := graphed { run0 with wait := .copy } [];
        let t : State := { s with fe := { s.fe with transfers := [x] } };
        t.readyTransfer = some x ∧ x.far t = none ∧ (s.moveBytes 0 0x100 0x200 4 0).2.2 = none ∧ (t.ctxAt 0).ring = none) := by decide +kernel

/-- The words of a launch record, free or timed. -/
def launchWords (timed : Bool) : List Nat :=
  [0, 0, if timed then 64 + 2 ^ 16 + 2 ^ 32 + 2 ^ 48 else 1 + 2 ^ 16 + 2 ^ 32, 16 * 2 ^ 32, 0x10000, 0, 0, 0]

/-- R335, R336: a node that names a launch record, of a free phase and of a timed one. -/
theorem witness_phase_nodes :
    let ph (timed : Bool) := graphed run0 (nodeWords [1, 0xA00, 1, 0] ++ [0xA10, 0xA18, 0xA20].zip ((launchWords timed).drop 2))
    standsAt (ph true) run0 [1, 0xA00, 1, 0] = true ∧ ((ph true).nodeRead run0).maskOk 0 1 = true ∧ ((ph true).nodeRead run0).feFinding 0 .read 0xA00 = .ok ∧
      ((ph true).nodeRead run0).readVa 0 0xA00 64 = some (image (launchWords true)) ∧
      (∀ b ∈ [true, false], launchRecordOk (image (launchWords b)) = true) ∧
      64 * 1 * 1 = ((ph true).allocation 0 0).length := by decide +kernel

/-- A state with a queue 0 of its context, and with a completion ring. -/
def queueing (x : Queue) (s : State) : State := { s with contexts := s.contexts.map (fun p => (p.1, { p.2 with queues := [(0, x)] })) }
def ringing (r : Ring) (s : State) : State := { s with contexts := s.contexts.map (fun p => (p.1, { p.2 with ring := some r })) }
/-- A ring of 16 places at 0x900, with what has been produced and what is held. -/
def ring0 (prod : BitVec 32) (held : List (List Byte × Option Nat)) : Ring := ⟨0x900, 16, some 3, none, prod, 0, held⟩
/-- A state with one request of the host. -/
def asking (r : Request) (s : State) : State := { s with req := some r }

/-- R338: a window with a context and an empty one, the queue at each of its ends, and requests that name them. -/
theorem witness_windows :
    let s := flat []
    s.windowCtx 0 0 = some 0 ∧ s.windowCtx 0 63 = none ∧ s.windowCtx 1 0 = none ∧ 63 < 64 ∧ 3 < 4 ∧ 0x3F < 0x40 ∧
      s.barQueue 0 0x1000 0 = some (0, 0) ∧ s.barQueue 0 0x10C0 0 = some (0, 3) ∧ s.barQueue 0 0x1010 0x10 = some (0, 0) ∧
      s.barQueue 0 0x1020 0x20 = some (0, 0) ∧ s.barQueue 0 0x2000 0 = none ∧ s.barQueue 0 0x1008 0x10 = none ∧ s.barQueue 0 0x2020 0x20 = none ∧
      (∀ r ∈ [Request.doorbell 0 0x1000 0x40, .queueStatusClear 0 0x1010 3, .cancelGraph 0 0x1020, .cancelJob 0 0x1020, .hostCopy ⟨0, 7, 0x300, 0x200, 64⟩,
        .completionRingResume 0 1], (asking r s).req = some r) := by decide +kernel

/-- R262, R333, R339: graphs to be cancelled, by what they wait for, and one that ends already. -/
theorem witness_cancelled_graphs :
    let w (x : NodeWait) : Option GraphRun := ((graphed { run0 with wait := x } []).queueAt 0 0).run
    ((flat []).queueAt 0 0).run = none ∧ (∀ n ∈ [NodeWait.phase 0, .ready, .status, .mem 0x900 7, .tick 9, .ring], w n = some { run0 with wait := n }) ∧
      run0.ending = none ∧ (let e := { run0 with wait := NodeWait.status, ending := some (0, []) }; ((graphed e []).queueAt 0 0).run = some e) ∧
      ((graphed run0 []).writeOut 0 0x800 (List.replicate 64 0)).isSome = true ∧ ((graphed run0 []).writeOut 0 0x40000000 (List.replicate 64 0)).isSome = false := by
  decide +kernel

/-- A copy of the graph of queue 0, which waits for it. -/
def transfer0 : Transfer := ⟨0, some 0, 9, 0x300, 0x200, 64, 0⟩
def copyWaits : State :=
  let g := graphed { run0 with wait := .copy } []
  { g with fe := { g.fe with transfers := [transfer0] } }

/-- R262, R263: that copy without a ring, with one that has a place, and with one that is full or holds a record. -/
theorem witness_cancelled_copy :
    (copyWaits.queueAt 0 0).run = some { run0 with wait := .copy } ∧ copyWaits.fe.transfers.filter (fun t => t.ctx == 0 && t.q == some 0) = [transfer0] ∧
      (copyWaits.ctxAt 0).ring = none ∧ ((ringing (ring0 0 []) copyWaits).ctxAt 0).ring = some (ring0 0 []) ∧ (ring0 16 []).full = true ∧
      (ring0 0 []).full = false ∧ (ring0 0 [([], none)]).held.isEmpty = false ∧
      ((ringing (ring0 0 []) copyWaits).putRecord 0 (ring0 0 []) (List.replicate 24 0)).isSome = true := by decide +kernel

/-- R262, R263: a record that is performed; rings that are full and held, whose consumer count moves on by a write of the host,
by one to a word of memory that can be written, that cannot, and in memory. -/
theorem witness_rings :
    let s := flat []; let r := ring0 0 []; let h := ring0 17 [(List.replicate 24 0, some 0)]; let at_ (a : Addr) : Ring := { r with indices := some a }
    (s.writeOut 0 (r.base.toNat + 32 * (r.prod.toNat % max 1 r.count)) (List.replicate 32 0)).isSome = true ∧ r.indices = none ∧ r.vector = some 3 ∧
      ((ringing r s).putRecord 0 r (List.replicate 24 0)).isSome = true ∧
      (s.ctxAt 0).ring = none ∧ ((ringing r s).ctxAt 0).ring = some r ∧ ((ringing h s).ctxAt 0).ring = some h ∧
      (s.writeVa 0 0x704 (leBytes 5 4)).isSome = true ∧ (s.writeVa 0 0x40000004 (leBytes 5 4)).isSome = false ∧
      (at_ 0x700).indices = some 0x700 ∧ (let t := flat [(0x700, 5 * 2 ^ 32)]; t.req = none ∧ t.fe.ctx = 0 ∧ t.ringCons 0 (at_ 0x700) = 5) ∧
      ((ringing (at_ 0x700) s).putRecord 0 (at_ 0x700) (List.replicate 24 0)).isSome = true ∧
      ((ringing (at_ 0x40000000) s).putRecord 0 (at_ 0x40000000) (List.replicate 24 0)).isSome = false ∧
      r.held = [] ∧ h.count ≤ (h.prod - 1).toNat ∧ (h.prod - 5).toNat < h.count ∧
      (let g := { run0 with wait := NodeWait.ring }; let e := { g with ending := some (2, []) }; let t (g : GraphRun) := ringing h (graphed g [])
        ((t g).queueAt 0 0).run = some g ∧ ((t e).queueAt 0 0).run = some e ∧ g.ending = none ∧
        (((t g).modCtxAt 0 (fun c => { c with ring := some { h with cons := 5 } })).putRecord 0 { h with cons := 5, held := [] } (List.replicate 24 0)).isSome = true) := by
  decide +kernel

/-- R203, R341: headers on a page that moves, that is not there, with a status address that cannot be used, that moves, and one
that starts. -/
theorem witness_headers :
    let s (h : Addr) (status : Nat) := queueing { Queue.empty with waiting := [h] } (flat [(0x400, 4), (0x408, status), (0x11008, cel + 0x33F)])
    let finds (h : Addr) (status : Nat) : Option (Nat × Nat) := (match (s h status).fetchVa 0 h.toNat 32 with
      | .ok bs => some (fieldAt bs 0 8, fieldAt bs 8 8)
      | _ => none)
    (((s 0x400 0x800).queueAt 0 0).waiting = 0x400 :: [] ∧ ((s 0x400 0x800).queueAt 0 0).run = none) ∧
      (match (s 0x40000000 0).fetchVa 0 0x40000000 1 with | .pause => true | _ => false) = true ∧
      (match (s 0x80000000 0).fetchVa 0 0x80000000 1 with | .fault c => c != 0x0D | _ => false) = true ∧
      finds 0x400 0x801 = some (4, 0x801) ∧ 0x801 % 64 ≠ 0 ∧ (match ((s 0x400 0).feCounted 0x400 32).walk 0 0x40000000 with | .moving => true | _ => false) = true ∧
      (match ((s 0x400 0x800).feCounted 0x400 32).walk 0 0x800 with
        | .ok p => (((s 0x400 0x800).feCounted 0x400 32).devAddr 0 ((physOf p 0x800 [0]).headD 0)).isSome
        | _ => false) = true := by decide +kernel

/-- R41, R193: a launch whose program is one page of native code. -/
theorem witness_task_code :
    let s := phased (coded (running [])); let p : Program := ⟨[(0, 1)], 0, 0⟩
    let t : State := { s with contexts := s.contexts.map (fun c => (c.1, { c.2 with programs := [p] })) }
    (t.ctxAt launch0.ctx).programAt launch0.entry = some p ∧ p.segCount = 0 ∧ p.pages = [(0, 1)] ∧ enters t 0 = true ∧
      (t.codeOf 0 ⟨0, 3, .native⟩).toOption.isSome = true ∧ find? 0 t.fe.launches = some launch0 := by decide +kernel

/-- What is saved of a task of launch 7 of context 9 that left core 3. -/
def left0 : SavedTask := ⟨9, 0, 0, 3, { Task.none with launch := 7 }, Press.clear, [], [], [], [], [], [], none, [], []⟩

/-- R206, R286, R345: a cluster of another context whose launch has left it, banks that are due there and none, dirty blocks
that go home and that a meter holds. -/
theorem witness_context_change :
    let b : SavedBanks := ⟨0, 7, 0, [(0, .spad)], [(5, 1)], true⟩; let s := at0 Core.reset
    let t : State := { s with clusters := [(0, { Cluster.reset with ctx := some 9 })], fe := { s.fe with banks := [b], preempted := [left0] } }
    let dirty (u : State) : Bool := ((u.flushOpen whoFrontEnd 0).clusterAt 0).allDirty != []
    dirty (caching [(7, dirtyBlock)] s) = false ∧ dirty (shut (caching [(7, dirtyBlock)] s)) = true ∧ dirty t = false ∧
      s.bad = [] ∧ (∀ b ∈ s.fe.banks, b.due = false) ∧ clusterOf t.cur = 0 ∧ t.fe.ctx = 0 ∧
      t.fe.banks.filter (fun b => b.due && b.ctx == t.fe.ctx && b.cluster == 0) = [b] ∧ b.sram.wf = true ∧ (b.modes.map (fun m => m.1)).Nodup ∧
      ((t.flushOpen whoFrontEnd 0).clusterAt 0).ctx = some 9 ∧ left0 ∈ t.fe.preempted ∧ left0.ctx = 9 ∧ clusterOf left0.core = 0 ∧
      (∀ n ∈ clusterCores 0, (t.coreAt n).task.status = .idle) ∧ b.ctx ≠ 9 := by decide +kernel

/-- R220, R345: a switch of a bank out of cache mode whose dirty bytes a meter holds. -/
theorem witness_held_switch :
    let s := shut (caching [(7, dirtyBlock)] (at0 Core.reset)); let x : BankSwitch := ⟨0, 0, 1, .spad⟩
    let t : State := { s with clusters := s.clusters.map (fun p => (p.1, { p.2 with switching := [x] })) }
    t.cluster.switching = [x] ∧ t.cluster.flushes x = true ∧ (t.flushOpen (whoStore 0) 0).cluster.allDirty ≠ [] := by decide +kernel

/-- R16, R284, R288: a trip and its end; a pre-empted timed task whose words have been restored, with a barrier, an alignment
target, a drain stream and a watch match, and a core without such a task. -/
theorem witness_resumed :
    let c := firm 2 []; let k : Task := { Task.none with timed := true, alignAt := some 64 }; let y := streamOf (tile 0 0).lay (tile 0 0).origin true 2 7 0
    let p : SavedTask := ⟨0, 5, 6, 0, k, Press.clear, [], [], [], [(0, ⟨7, 3, false, false⟩)], [], [], none, [(1, [y])], [.trap 5 7 0]⟩
    let d : Core := { c with task := Task.none, regs := { c.regs with csr := [(0x005, 5), (0x006, 6)] } }; let q : Program := ⟨[(0, 1)], 0x40, 2⟩
    let s : State := { at0 d with contexts := [(0, { ctx0 with programs := [q] })], fe := { (at0 d).fe with preempted := [p], launches := [(0, launch0)] } }
    s.resumable = some p ∧ s.physBarrier 0 = some 5 ∧ p.barriers = [(0, ⟨7, 3, false, false⟩)] ∧ p.task.timed = true ∧ p.task.alignAt = some 64 ∧
      s.fe.banks = [] ∧ s.core.flow.finding = none ∧ s.core.flow.matched = [] ∧ p.draining.filter (fun x => x.1 == 1) = [(1, [y])] ∧
      (s.ctxAt p.ctx).programAt (s.entryOf p) = some q ∧
      (at0 c).resumable = none ∧ (asking (.thermalTrip 12) s).req = some (.thermalTrip 12) ∧ (asking (.thermalTripClear 12) s).req = some (.thermalTripClear 12) := by
  decide +kernel

/-- R338: credit that is used up and credit that is left, and addresses of a doorbell at the bounds. -/
theorem witness_doorbells :
    let w := withQueue
    (1 : Word).toNat % 64 ≠ 0 ∧ 2 ^ 48 ≤ (0x1000000000000 : Word).toNat ∧
      256 ≤ ((w { Queue.empty with waiting := List.replicate 256 0 } []).queueAt 0 0).waiting.length ∧
      ((w { Queue.empty with waiting := List.replicate 254 0, run := some run0 } []).queueAt 0 0).taken < 256 ∧
      (let s := phased (graphed { run0 with wait := .phase 0 } []); s.run = some { run0 with wait := .phase 0 } ∧ (find? 0 s.fe.phases).isSome = true) := by
  decide +kernel

/-- R329: changes of width and clock that wait for nothing, and a timed phase that uses a link. -/
theorem witness_link_requests :
    let s := world []; let t : State := { phased s with fe := { (phased s).fe with phases := [(0, { phase0 with start := some 64 })] } }
    s.mgmt.deferred = [] ∧ s.mustDefer (.width 0 8) = false ∧ [LinkRequest.width 0 8] = [] ++ .width 0 8 :: [] ∧ s.mustDefer (.clock 0 1) = false ∧
      t.timedRunning = [{ phase0 with start := some 64 }] ∧ (t.timedRunning.any (fun p => p.usesLink 8)) = true ∧
      (asking (.emergencyWidthReduction 8 4) t).req = some (.emergencyWidthReduction 8 4) ∧
      (∀ r ∈ [Request.preemptionRequest 0, .timedPhasePreemption 0 1], (asking r t).req = some r) := by decide +kernel

/-- R95, R115, R206, R333, R343, R344: tasks and phases that start and end; leave that is granted; meters. -/
theorem witness_tasks :
    let w := working 2 []; let s := phased (at0 w); let r : LeaveRequest := ⟨.core 0, false, 0, 880⟩; let p : LeaveRequest := ⟨.phase 0, true, 0, 3600000⟩
    find? 0 s.fe.launches = some launch0 ∧ find? 0 s.fe.phases = some phase0 ∧
      ({ s with gov := { s.gov with waiting := [r] } } : State).gov.next = some r ∧ ({ s with gov := { s.gov with waiting := [p] } } : State).gov.next = some p ∧
      (let h := phased (at0 { w with task := { w.task with status := .halted }, issue := Issue.none }); h.complete 0 = true ∧ find? 0 h.fe.launches = some launch0) ∧
      (let g := phased (graphed { run0 with wait := .phase 0 } []); let d : State := { g with fe := { g.fe with launches := [(0, { launch0 with done := 1 })] } };
        (∀ x ∈ d.launchesOf 0, x.2.ex * x.2.ey * x.2.ez ≤ x.2.done) ∧ (d.queueAt 0 0).run = some { run0 with wait := .phase 0 }) ∧
      (let f := phased ((graphed { run0 with wait := .phase 0 } []).setCore { w with task := { w.task with status := .faulted } });
        f.core.task.status = .faulted ∧ f.core.flow.finding = none ∧ find? 0 f.fe.launches = some launch0 ∧ (f.queueAt 0 0).run.isSome = true) ∧
      (∀ m ∈ [(⟨0, 8, 8, []⟩ : Meter), ⟨1, 8, 8, []⟩], (find? 3 [(3, m)] = some m)) := by decide +kernel

/-- R326, R334: a record of four words that a phase keeps and that names the lowest core. -/
theorem witness_kept_record :
    let k : List Word := [8, 0, 0, 1]; let p := { phase0 with fault := some k }; let g := graphed { run0 with wait := .phase 0 } []
    let s : State := { g with fe := { g.fe with phases := [(0, p)] } }; let t := s.setCore { Core.reset with task := { Task.none with status := .faulted } }
    k.length = 4 ∧ (∀ x ∈ s.fe.phases, x = (0, p)) ∧ find? 0 s.fe.phases = some p ∧ recordCore k = 1 ∧ s.cur ≤ recordCore k ∧ t.cur < recordCore k ∧
      (s.core.task.status ≠ .faulted ∧ s.core.flow.finding = none) ∧ (s.queueAt p.ctx p.q).run = some { run0 with wait := .phase 0 } ∧
      phase0.mask ≠ 0 ∧ phase0.fault = none := by decide +kernel

/-- R15 to R20, R329, R342 to R355: commands of every kind, with arguments that are taken and that are refused. -/
theorem witness_commands :
    let s := world []; let r : Resources := ⟨[1], [], [], [2], [3], [], []⟩; let none_ : Resources := ⟨[], [], [], [], [], [], []⟩
    (∀ c ∈ [Command.caps 0 0, .summary 0 4096, .pcreate 1 r, .pcreate 64 r, .presize 0 none_ none_, .presize 9 r r, .pdestroy 0, .pdestroy 9,
        .share 0 255, .share 0 0, .meter 0 5 8 8, .meter 0 6 8 8, .linkw 31 16, .linkw 32 1, .setclk 12 1, .setclk 13 0],
        ({ s with mgmt := { s.mgmt with cmd := some c } } : State).mgmt.cmd = some c) ∧
      Resources.granular r = true ∧ s.namesFenced r = false ∧ s.allFree r = true ∧ Resources.granular ⟨[1], [1], [], [], [], [], []⟩ = false ∧
      s.allFree ⟨[0], [], [], [], [], [], []⟩ = false ∧ (find? 9 s.mgmt.partitions).isNone = true ∧ (find? 0 s.mgmt.partitions).isSome = true ∧
      s.capUnit 1 0 = some (0, false) ∧ (∃ x ∈ s.capRuns 1, x.first = 0 ∧ 0 < x.count) ∧ s.hasCtx 0 = true ∧ s.hasCtx 9 = false ∧
      (∀ d < 13, (s.dieAt d).fenced = false) := by decide +kernel

/-- Page tables that map address 0 and the descriptors to the same page of 1 GiB, of vintage 2, where no descriptor can be
read; and a submission for page 0. -/
def rewritten : State :=
  { world with
    mem := putWords [] [(cel, cel + 0x1001), (cel + 0xE00, cel + 0x1001), (cel + 0x1000, cel + 2 ^ 30 + 0x23F + 2 ^ 49)]
    keyTag := (List.range 4).map (fun i => ((cel + 2 ^ 30) / 64 + i, 1))
    bad := [.memory ((cel + 2 ^ 30) / 8)] }
def install : MapxRequest :=
  { ctx := 0, canon := 0, words := [wordOf (2 ^ 56 + 2 ^ 49)], map := List.replicate 128 0, native := [], annex := [], bound := 0, declared := 0,
    nativeFrame := 0, annexFrame := 0, descFrame := 0, tables := [] }

/-- R307: a submission that passes its checks, and one that fails them. -/
theorem witness_installs :
    (match rewritten.walk 0 0 with | .ok p => p.vint == 2 | _ => false) = true ∧ rewritten.mapxChecks install 2 = true ∧
      rewritten.mapxChecks { install with bound := 1 } 2 = false ∧ mapxHeader install 2 = some .interlocked ∧
      rewritten.oldVersion 0 0 2 = 0 := by decide +kernel
/-- R307: its version can be installed. -/
theorem witness_install_version : (rewritten.installVersion install .interlocked 1).isSome = true := by decide +kernel

/-- An idle flit of partition 0 with number 0. -/
def flit0 : Flit := ⟨0, false, 7, 0, 0, 0, 0, 0, 0, List.replicate 224 0⟩

/-- R330, R331: a flit that is taken, one out of order, one of a foreign partition; what acknowledge and retry request name. -/
theorem witness_flits :
    let f := flit0; let s := world []
    let p : State := { s with mgmt := { s.mgmt with partitions := [(0, ⟨[0], [], [], [0], [0], [3], []⟩)] } }
    p.ownsPort 3 0 = true ∧ p.ownsPort 2 0 = false ∧ (p.port 3).expect = 0 ∧ f.seq = 0 := by decide +kernel

set_option maxRecDepth 100000 in
/-- R330: its CRC, its number and its type on the link. -/
theorem witness_flit_good :
    flitGood flit0.encode = true ∧ (flitOf flit0.encode).seq = 0 ∧ (flitOf flit0.encode).type = 0 ∧ (flitOf flit0.encode).part = 0 := by
  decide +kernel

/-- R216, R331: remote writes and atomics that reach a context. -/
theorem witness_remote :
    let s := flat []
    s.remoteCtx 0 [.write] 0x100 8 = some 0 ∧ s.remoteCtx 0 [.write] 0x40000000 8 = none ∧ s.remoteCtx 0 [.read, .write] 0x100 8 = some 0 ∧
      (remoteAtomicOf (image [256, 5, 0])).isSome = true ∧ s.remoteWaits (flitOf 0) = false ∧ ((s.setPort 3 { s.port 3 with pending := [0] }).remoteReady = some (3, 0)) ∧
      s.remoteReady = none ∧ (world []).remoteWaits { flit0 with type := 2, len := 8, addr := 0x3000, payload := List.replicate 224 0 } = true ∧ (s.readVa 0 0x100 8).isSome = true ∧
      (s.writeVa 0 0x100 (leBytes 5 8)).isSome = true := by decide +kernel

/-- R75, R268, R279: a fault and a trap found by a check, and operations that may not stand where they do. -/
theorem witness_checks :
    let s := at0 (working 2 []); let t := at0 (working 7 [(9, 0x2000)]); let f := at0 (firm 5 [])
    let c := working 2 []; let i := at0 { c with issue := { c.issue with pos := ⟨⟨0, 2, .interlocked⟩, 0⟩ } }
    opCheck (.trap 7) s = some (.fault 0x0C 0 7) ∧ opCheck (.collBcast ⟨2, 9, 0⟩) t = some (.trap 0x02 0x2000) ∧ t.core.flow.finding = none ∧
      s.core.fw.issuing = false ∧ fwOnly .resume = true ∧ featBit (.align 1) = some 1 ∧
      (find 0 0x100 (at0 { c with regs := { c.regs with csr := [] } }).core.regs.csr).getLsbD 1 = false ∧
      i.core.issue.pos.ver.treat = .interlocked ∧ vintage3Only (.align 1) = true ∧ f.core.fw.issuing = true ∧ fwOpcode .halt = false ∧
      fwFields (.add ⟨32, 0, 0⟩) = false ∧ 4 < f.core.issue.slot ∧ Instr.wellFormed (.clz ⟨1, 2, 3⟩) = false := by decide +kernel

/-- R353: a block of a partition command with one die to be added and one key to be removed, blocks of other commands, and
one of none. -/
theorem witness_blocks :
    let e (kind rem n first : Byte) : List Byte := [kind, rem, n, 0, first, 0, 0, 0]
    let b (op : Byte) (es : List (List Byte)) : List Byte := (op :: List.replicate 15 0 ++ es.flatten ++ List.replicate 48 0).take 64
    let lists (bs : List Byte) := resourceLists ((List.range 6).map (fun i => (bs.drop (16 + 8 * i)).take 8))
    leValue ((b 3 []).take 4) = 3 ∧ lists (b 3 [e 1 0 1 2]) = some (⟨[2], [], [], [], [], [], []⟩, noResources) ∧
      lists (b 4 [e 1 0 1 2, e 5 1 1 9]) = some (⟨[2], [], [], [], [], [], []⟩, ⟨[], [], [], [], [9], [], []⟩) ∧ lists (b 4 [e 6 0 1 2]) = none ∧
      resourceLists [] = some (noResources, noResources) ∧ (e 8 0 1 2).length = 8 ∧ (commandOf (b 1 []) = .caps 0 0) ∧ commandOf (b 10 []) = .other := by
  decide +kernel

/-- R43, R273, R353: registers written from outside: a mailbox that is busy, free, and with a bad address; a block with an
unknown opcode, and one with a command; legal and illegal control values. -/
theorem witness_register_writes :
    let s := world []; let busy : State := { s with mgmt := { s.mgmt with busy := true } }
    let caps : State := { s with hostMem := writeBytes [] 64 (leBytes 1 8) }
    (∀ r ∈ [HostReg.mailbox, .bar 0 8, .softError (.memory 0), .draw, .control 3 0x100, .fwText 0 0, .fwText 511 (8 * 2047), .hostWord 5],
        (asking (.registerWrite r 64) s).req = some (.registerWrite r 64)) ∧
      busy.mgmt.busy = true ∧ s.mgmt.busy = false ∧ 64 % 64 = 0 ∧ 2047 < 2048 ∧ csrValueLegal 0x100 32 = false ∧ csrValueLegal 0x100 31 = true ∧
      commandOf (readBytes s.hostMem 64 64) = .other ∧ commandOf (readBytes caps.hostMem 64 64) ≠ .other := by decide +kernel

/-- R206, R263, R303: a context that can be created, with a program, a ring and vectors; requests that are refused. -/
theorem witness_context_life :
    let s := world []; let p : Program := ⟨[(0, 1)], 0x40, 256⟩; let g : RingRequest := ⟨0x900, 16, some 0xA00, some 3⟩
    let c : CtxRequest := ⟨1, 0, 0, 0, 0, some 1, 0, 0, [p], some g, [(0, 2), (0, 5)]⟩
    (asking (.contextCreation c) s).req = some (.contextCreation c) ∧ (find? c.part s.mgmt.partitions).any (fun r => r.keys.contains c.key.toNat) = true ∧
      s.freeWindow 0 = some 1 ∧ s.hasCtx 1 = false ∧ c.ctx < 4096 ∧ (1 ≤ c.share.getD 1 ∧ c.share.getD 1 ≤ 255) ∧ (∀ x ∈ c.vectors, x.2 < 64) ∧ g.vector = some 3 ∧ g.base.toNat % 32 = 0 ∧ g.count = 2 ^ 4 ∧
      (0xA00 : Addr).toNat % 8 = 0 ∧ p.segCount ≤ 256 ∧ p.segAddr.toNat % 64 = 0 ∧ c.vectors = [(0, 2)] ++ (0, 5) :: [] ∧
      s.hasCtx 0 = true ∧ 4096 ≤ ({ c with ctx := 4096 } : CtxRequest).ctx ∧ ({ c with share := some 256 } : CtxRequest).share = some 256 ∧ (∃ x ∈ [((0 : Nat), (64 : Nat))], 64 ≤ x.2) ∧
      ({ g with base := 0x901 } : RingRequest).base.toNat % 32 ≠ 0 ∧ ({ g with count := 8 } : RingRequest).count < 16 ∧ 256 < ({ p with segCount := 257 } : Program).segCount ∧
      ({ p with segAddr := 0x41 } : Program).segAddr.toNat % 64 ≠ 0 ∧ (asking (.contextDestruction 0) s).req = some (.contextDestruction 0) := by decide +kernel

/-- R338, R339, R355: contexts with a graph whose status record cannot be written, with one whose record can, and with none, as
they are destroyed, alone and with their partition. -/
theorem witness_leaving :
    let g (status : Addr) := graphed { run0 with status := status } [(0x11008, cel + 0x33F)]
    let stays (s : State) (i : Instr) : Bool := match exec i s with | .next t => t.hasCtx 0 | _ => false
    let end_ (s : State) : State := { s with mgmt := { s.mgmt with cmd := some (.pdestroy 0) } }
    stays (asking (.contextDestruction 0) (g 0x40000000)) .contextDestruction = true ∧ stays (asking (.contextDestruction 0) (g 0x800)) .contextDestruction = false ∧
      stays (asking (.contextDestruction 0) (flat [])) .contextDestruction = false ∧ (g 0x800).hasCtx 0 = true ∧
      stays (end_ (g 0x40000000)) .pdestroy = true ∧ stays (end_ (g 0x800)) .pdestroy = false ∧ stays (end_ (flat [])) .pdestroy = false ∧
      (∀ x ∈ ((flat []).ctxAt 0).queues, x.2.run = none) ∧ (end_ (flat [])).ctxsOf 0 ≠ [] := by decide +kernel

/-- R201, R239: the page of a migration, and its steps. -/
theorem witness_migrations :
    let s := world []; let m : Migration := ⟨0, 0x1000, BitVec.ofNat 48 (cel + 0x20000), BitVec.ofNat 48 (cel + 0x11000), 4096, 1, false⟩
    (∀ st ∈ [(0 : BitVec 2), 1, 2, 3], (asking (.pageMigration 0 0x1000 m.frame st) s).req = some (.pageMigration 0 0x1000 m.frame st)) ∧
      (s.leafEntry 0 0x1000).any (fun x => !x.2.1.getLsbD 8) = true ∧ s.migration 0 0x1000 = none ∧
      ({ s with migrations := [m] } : State).migration 0 0x1000 = some m ∧ m.drained = false ∧
      ({ s with migrations := [{ m with drained := true }] } : State).migration 0 0x1000 = some { m with drained := true } := by decide +kernel

/-- R331: data of a message that has begun; flits kept until an acknowledge, the one it names among them, and the count of
retries at its end. -/
theorem witness_link_control :
    let x : Remote := ⟨7, 3, [1], []⟩; let y : Remote := ⟨7, 4, [], []⟩; let p : FabricPort := { (world []).port 3 with retrySeq := 1, retryCount := 3, retryStale := 2 }
    [x, y] = [] ++ x :: [y] ∧ ¬(y.src = 7 ∧ y.index = 3) ∧ (6 : Nat) / 2 = x.index ∧ (6 : Nat) % 2 = 0 ∧ 7 % 2 = 1 ∧ p.retrySeq = 1 ∧ p.retryCount + 1 = 4 ∧ p.retryCount ≠ 0 ∧
      p.retryStale ≠ 0 ∧ ((world []).port 3).retryStale = 0 := by
  decide +kernel

set_option maxRecDepth 100000 in
/-- R331: their numbers. -/
theorem witness_kept_flits :
    let v (n : BitVec 32) : Vec := ({ flit0 with seq := n } : Flit).encode
    (flitOf (v 1)).seq = 1 ∧ (flitOf (v 0)).seq ≠ 1 ∧ [v 0, v 1] = [v 0] ++ v 1 :: [] := by decide +kernel

/-- R349 to R352: a module before power-on, one whose ROM tries the network again, and one whose die does not answer. -/
theorem witness_boots :
    let b := State.reset.boot; let s (p : Bool) (st : Nat) : State := { State.reset with boot := { b with powered := p, stage := st, next := 12 } }
    b.powered = false ∧ b.silent = [] ∧ (s true 0).boot.powered = true ∧ (s true 0).boot.stage = 0 ∧ (s true 1).boot.stage ≠ 0 ∧
      (∀ r ∈ [Request.bootNetworkRetry none, .dieChallengeTimeout 12], (asking r (s true 2)).req = some r) ∧ (s true 2).boot.stage = 2 ∧
      (s true 2).boot.next = 12 ∧ 12 < 13 ∧ 0 ≠ 8 ∧ 0 ∉ b.failing := by decide +kernel

/-- R351: requests on the port of the control OS and on another, before it runs and after; each state of the responder; an
entry of the log. -/
theorem witness_attestation :
    let s := world []; let a (y : Spdm) : State := { s with spdm := y }
    (∀ r ∈ [Request.getVersion 0, .getCapabilities 0, .negotiateAlgorithms 0 true true, .getDigests 0, .getCertificate 0, .challenge 0 7, .getMeasurements 0 5 7],
        (asking r s).req = some r) ∧ State.reset.boot.stage < 3 ∧ s.boot.stage = 3 ∧ 1 ≠ 0 ∧ 1 ∉ s.mgmt.osPorts ∧ s.spdm.negotiated = false ∧
      (a ⟨true, true, true, []⟩).spdm.negotiated = true ∧ find? 5 s.boot.log = none ∧ find? 5 [(5, (0 : BitVec 384))] = some 0 := by decide +kernel

/-- R41, R75, R207, R270, R298: an operation that is computed again, one of user code that is not; checks that fail at each
place of their order. -/
theorem witness_orders :
    let c := working 0 []; let e : Pending := ⟨0, 3, .a 5, 0, scalarBits, 0, 0, false, 0, 0, false, false, 0, 1, IssueReads.none, 0⟩
    let g := at0 { c with issue := { c.issue with again := some ⟨e, 9⟩ } }; let s := at0 c
    let n := at0 { c with issue := { c.issue with pos := ⟨⟨0, 2, .interlocked⟩, 0⟩ } }
    let add : Instr := .add ⟨5, 6, 7⟩; let hit : State := { s with bad := [.scalar 0 6] }
    g.core.issue.again = some ⟨e, 9⟩ ∧ s.core.issue.again = none ∧ s.recorded = none ∧ s.fwIssuing = false ∧ s.core.issue.pos.ver.treat ≠ .interlocked ∧
      n.core.issue.pos.ver.treat = .interlocked ∧ (at0 (firm 0 [])).fwIssuing = true ∧
      encCheck (.clz ⟨1, 2, 3⟩) 0 s = false ∧ (encCheck add 0 hit = true ∧ readsStruck add hit = true ∧ .a 6 ∈ reads add) ∧
      (let w := working 5 []; let v : Instr := .vfadd ⟨5, 56, 57, 0, 0, false⟩
        encCheck v 5 (at0 w) = true ∧ readsStruck v (at0 w) = false ∧ (portCheck v (at0 w)).isSome = true) ∧
      (encCheck add 0 s = true ∧ readsStruck add s = false ∧ portCheck add s = none) ∧ s.bad = [] := by decide +kernel

/-- R43 to R45, R85, R89: control registers that user code may write; a result for one, of a level that is active and one that is
not; and what is asked of the operands of a register transfer. -/
theorem witness_control_values :
    let s := at0 (working 0 []); let f := at0 (firm 2 []); let d := at0 (looping [levelOf 2 3 1 false] [] false)
    let p (n : Nat) : Pending := ⟨2, 3, .csr n, 5, scalarBits, 0, 0, true, 0, 0, false, false, 0, 1, IssueReads.none, 0⟩
    encCheck (.csrw ⟨0, 6, 0x003⟩) 0 s = true ∧ readsStruck (.csrw ⟨0, 6, 0x003⟩) s = false ∧ encCheck (.csrwp 3 0x100) 2 f = true ∧
      (∀ n ∈ [0x003, 0x005, 0x030, 0x033], (p n).dest = .csr n) ∧ (d.core.loops.level 0).active = true ∧ (d.core.loops.level 3).active = false ∧
      readsStruck (.jmpr 5) (at0 (working 2 [])) = false ∧ readsStruck .ret (at0 (working 2 [])) = false := by decide +kernel

/-- R46, R75: an open bundle with a slot to run, and with a row; every row of the table that has bits is decoded and runs as
the first one after reset. -/
theorem witness_step :
    let s := State.reset.withFetchWord 256 (word24 0x0B 0 ++ 0#60).toNat
    s.boot.powered = true ∧ 3 ≤ s.boot.stage ∧ s.ended = false ∧ s.core.issue.stage = .ops ∧ s.core.issue.todo = [.slot 2] ∧
      slotWord s.core.issue.word 2 = word24 0x0B 0 ∧ (decodeSlot 2 (slotWord s.core.issue.word 2)).toOption = some .halt ∧
      decodeTableWord 256 (word24 0x0B 0 ++ 0#60).toNat = some .halt ∧
      (State.reset.withFetchWord 256 0).core.issue.todo = [.row .nop] ∧
      (match step s with | .next t => t.core.task.status == .halted | _ => false) = true := by decide +kernel

/-- R338: the registers of queue 2 of window 1 stand at 0x2080; a write to its credit is no doorbell. -/
theorem test_bar_writes :
    barWrite 3 0x2080 0x100 = .doorbell 3 0x2080 0x100 ∧ barWrite 3 0x2090 7 = .queueStatusClear 3 0x2090 7 ∧
      barWrite 3 0x20A0 2 = .cancelJob 3 0x20A0 ∧ barWrite 3 0x2088 5 = .registerWrite (.bar 3 0x2088) 5 := by decide

end Sys2Proof.Machine.Tests
end

section
/-! SUPPORT. Reading a store: a change of all its values, and what finding an entry says; and states with the same memory. -/

namespace Sys2Proof.Machine

/-- A change of every value of a store is seen at each key. -/
theorem find?_mapValues {α β : Type} (f : α → β) (k : Nat) (st : Store α) :
    find? k (st.map (fun p => (p.1, f p.2))) = (find? k st).map f := by
  induction st with
  | nil => rfl
  | cons p r ih =>
    simp only [List.map_cons, find?]
    split
    · rfl
    · exact ih

theorem mem_of_find? {α : Type} {k : Nat} {v : α} {st : Store α} (h : find? k st = some v) : (k, v) ∈ st := by
  induction st with
  | nil => cases h
  | cons p r ih =>
    rw [find?] at h
    split at h
    next e =>
      cases h
      exact e ▸ List.mem_cons_self
    next => exact List.mem_cons_of_mem _ (ih h)

/-- A store that has an entry at a key finds one. -/
theorem find?_isSome_of_mem {α : Type} {e : Nat × α} {st : Store α} (h : e ∈ st) : (find? e.1 st).isSome = true := by
  induction st with
  | nil => cases h
  | cons p r ih =>
    rw [find?]
    split
    · rfl
    next hne => exact ih ((List.mem_cons.mp h).resolve_left fun he => hne (he ▸ rfl))

theorem State.sameMemory_refl (s : State) : s.sameMemory s := ⟨rfl, rfl, rfl, rfl, rfl⟩

end Sys2Proof.Machine
end

section
/-! PROOF. Leave, thermal trips and meters (R15, R16, R343 to R345). -/

namespace Sys2Proof.Machine

/-! Reservation (R343). -/

/-- A launch without some of its cores, unless it keeps them. -/
def Launch.without (cores : List Nat) (keep : Launch → Bool) (x : Launch) : Launch :=
  if keep x then x else { x with reserved := x.reserved.filter (fun n => !cores.contains n) }

theorem State.find?_launches_unreserve (s : State) (cores : List Nat) (keep : Launch → Bool) (id : Nat) :
    find? id (s.unreserve cores keep).fe.launches = (find? id s.fe.launches).map (Launch.without cores keep) :=
  find?_mapValues (Launch.without cores keep) id s.fe.launches

/-- A launch that is not kept loses the cores, and stays of its phase. -/
theorem Launch.without_not_kept {cores : List Nat} {keep : Launch → Bool} {x : Launch} (h : keep x = false) :
    (x.without cores keep).phase = x.phase ∧ ∀ n ∈ cores, n ∉ (x.without cores keep).reserved := by
  have e : x.without cores keep = { x with reserved := x.reserved.filter (fun n => !cores.contains n) } :=
    if_neg (by rw [h]; exact Bool.false_ne_true)
  rw [e]
  refine ⟨rfl, fun n hn hm => ?_⟩
  have hnot := (List.mem_filter.mp hm).2
  rw [List.contains_iff_mem.mpr hn] at hnot
  exact Bool.noConfusion hnot

/-- A launch with one more core reserved. -/
def Launch.reserve (l : Launch) (core : Nat) : Launch :=
  { l with reserved := if l.reserved.contains core then l.reserved else l.reserved ++ [core] }

/-- The state after a core is reserved to a launch, and the cores of its partition are taken from the launches of other phases. -/
def State.reserveCore (s : State) (core launch : Nat) (l : Launch) : State :=
  State.unreserve { s with fe := { s.fe with launches := put launch (l.reserve core) s.fe.launches } }
    ((List.range 8).flatMap (s.allocation l.ctx)) (fun x => x.phase == l.phase)

/-- The request for leave of a timed phase. -/
def State.phaseRequest (s : State) (p : Phase) : LeaveRequest := ⟨.phase p.id, true, p.q, s.timedAllowance p⟩

/-- The state after a timed phase has asked for leave. -/
def State.phaseAsks (s : State) (p : Phase) : State :=
  { s with
    fe := { s.fe with phases := put p.id { p with asked := true } s.fe.phases }
    gov := { s.gov with waiting := s.gov.waiting ++ [s.phaseRequest p] } }

/-- A reservation reserves its core, and its phase asks for leave then or not. -/
theorem exec_timedLaunchReservation {s : State} {core launch : Nat} {l : Launch} (h : find? launch s.fe.launches = some l) :
    let u := s.reserveCore core launch l
    exec (.timedLaunchReservation core launch) s = .next u ∨
      ∃ p, find? l.phase s.fe.phases = some p ∧ exec (.timedLaunchReservation core launch) s = .next (u.phaseAsks p) := by
  intro u
  have e : exec (.timedLaunchReservation core launch) s = (match find? l.phase s.fe.phases with
      | none => done u
      | some p => if p.asked || !u.phaseReserved p then done u else done (u.phaseAsks p)) := by
    show execTimedLaunchReservation core launch s = _
    simp only [execTimedLaunchReservation, h]
    rfl
  rw [e]
  cases find? l.phase s.fe.phases with
  | none => exact .inl rfl
  | some p =>
    dsimp only
    split
    · exact .inl rfl
    · exact .inr ⟨p, rfl, rfl⟩

theorem State.find?_launches_reserveCore (s : State) (core launch : Nat) (l : Launch) :
    find? launch (s.reserveCore core launch l).fe.launches = some (l.reserve core) := by
  simp [State.reserveCore, State.find?_launches_unreserve, Launch.without, Launch.reserve]

/-- A launch of another phase keeps no core of the context's allocation. -/
theorem State.reserveCore_others {s : State} {core launch : Nat} {l x : Launch} {id : Nat}
    (h : find? id (s.reserveCore core launch l).fe.launches = some x) (hp : x.phase ≠ l.phase) {d n : Nat} (hd : d < 8)
    (hn : n ∈ s.allocation l.ctx d) : n ∉ x.reserved := by
  rw [State.reserveCore, State.find?_launches_unreserve, Option.map_eq_some_iff] at h
  obtain ⟨y, -, rfl⟩ := h
  cases hk : y.phase == l.phase with
  | true => exact absurd (by simp [Launch.without, of_decide_eq_true hk]) hp
  | false => exact (Launch.without_not_kept hk).2 n (List.mem_flatMap.mpr ⟨d, List.mem_range.mpr hd, hn⟩)

theorem reservation_reserves (s : State) (core launch : Nat) (l : Launch) (h : find? launch s.fe.launches = some l) :
    ∃ t, exec (.timedLaunchReservation core launch) s = .next t ∧ t.cores = s.cores ∧ s.sameMemory t ∧
      find? launch t.fe.launches = some (l.reserve core) ∧
      (∀ id x, find? id t.fe.launches = some x → x.phase ≠ l.phase → ∀ d, d < 8 → ∀ n ∈ s.allocation l.ctx d, n ∉ x.reserved) ∧
      (t.gov = s.gov ∨ ∃ w p, t.gov = { s.gov with waiting := s.gov.waiting ++ [w] } ∧ w.owner = .phase p.id ∧
        w.timed = true ∧ find? l.phase s.fe.phases = some p ∧ find? p.id t.fe.phases = some { p with asked := true }) := by
  have hl := s.find?_launches_reserveCore core launch l
  have ho : ∀ id x, find? id (s.reserveCore core launch l).fe.launches = some x → x.phase ≠ l.phase →
      ∀ d, d < 8 → ∀ n ∈ s.allocation l.ctx d, n ∉ x.reserved :=
    fun id x hx hp d hd n hn => State.reserveCore_others hx hp hd hn
  rcases exec_timedLaunchReservation (core := core) h with e | ⟨p, hp, e⟩
  · exact ⟨_, e, rfl, State.sameMemory_refl s, hl, ho, .inl rfl⟩
  · exact ⟨_, e, rfl, State.sameMemory_refl s, hl, ho,
      .inr ⟨(s.reserveCore core launch l).phaseRequest p, p, rfl, rfl, rfl, hp, find?_put_same _ _ _⟩⟩

/-! Grants (R15, R97, R344). -/

/-- What is picked fits, and stands in the list. -/
theorem Governor.pick_spec {g : Governor} {blocked : List Nat} {l : List LeaveRequest} {r : LeaveRequest}
    (h : g.pick blocked l = some r) : g.fits r = true ∧ r ∈ l := by
  induction l generalizing blocked with
  | nil => simp [Governor.pick] at h
  | cons x rest ih =>
    rw [Governor.pick] at h
    split at h
    · exact (ih h).imp_right (List.mem_cons_of_mem x)
    · split at h
      · next hf => cases h; exact ⟨hf, List.mem_cons_self⟩
      · exact (ih h).imp_right (List.mem_cons_of_mem x)

theorem Governor.waiting_of_order {g : Governor} {r : LeaveRequest} (h : r ∈ g.order) : r ∈ g.waiting := by
  simp only [Governor.order, List.mem_append, List.mem_flatMap, List.mem_filter] at h
  rcases h with ⟨_, _, h, _⟩ | ⟨_, _, h, _⟩ <;> exact h

/-- R15: what is granted next was asked for, and fits below the limit while no die is tripped. -/
theorem Governor.next_spec {g : Governor} {r : LeaveRequest} (h : g.next = some r) :
    g.trip = false ∧ g.draw + (g.held.map (fun x => x.milliwatts)).sum + r.milliwatts ≤ 3600000 ∧ r ∈ g.waiting := by
  unfold Governor.next at h
  split at h
  · cases h
  · next ht =>
    obtain ⟨hf, hm⟩ := Governor.pick_spec h
    exact ⟨by simpa using ht, of_decide_eq_true hf, Governor.waiting_of_order hm⟩

/-- The governor after a grant. -/
def Governor.grant (g : Governor) (r : LeaveRequest) : Governor :=
  { g with held := g.held ++ [r], waiting := g.waiting.erase r }

theorem grant_reaches_owner {s : State} {r : LeaveRequest} (h : s.gov.next = some r) :
    ∃ t, exec .leaveGrant s = .next t ∧ s.sameMemory t ∧ t.gov = s.gov.grant r ∧
      (∀ n, r.owner = .core n → (t.coreAt n).task = { (s.coreAt n).task with leave := true, leaveAsked := false }) ∧
      (∀ id p, r.owner = .phase id → find? id s.fe.phases = some p → find? id t.fe.phases = some { p with granted := true }) := by
  have e : exec .leaveGrant s = execLeaveGrant s := rfl
  simp only [execLeaveGrant, h] at e
  cases ho : r.owner with
  | core n =>
    rw [ho] at e
    exact ⟨_, e, ⟨rfl, rfl, rfl, rfl, rfl⟩, rfl, fun m hm => by cases hm; rw [State.coreAt_modCoreAt]; rfl, nofun⟩
  | phase id =>
    rw [ho] at e
    cases hp : find? id s.fe.phases with
    | none =>
      simp only [hp] at e
      exact ⟨_, e, ⟨rfl, rfl, rfl, rfl, rfl⟩, rfl, nofun, fun id' p hid hp' => by cases hid; simp [hp] at hp'⟩
    | some p =>
      simp only [hp] at e
      refine ⟨_, e, ⟨rfl, rfl, rfl, rfl, rfl⟩, rfl, nofun, fun id' p' hid hp' => ?_⟩
      cases hid
      cases hp.symm.trans hp'
      exact find?_put_same _ _ _

theorem leaves : Claims.Leaves :=
  ⟨reservation_reserves, fun _ _ h =>
    have ⟨ht, hw, hm⟩ := Governor.next_spec h
    ⟨ht, hw, hm, grant_reaches_owner h⟩⟩

/-! Thermal trips (R16, R344). -/

theorem State.trip_modDieAt (s : State) (d : Nat) (b : Bool) :
    ((s.modDieAt d (fun x => { x with trip := b })).dieAt d).trip = b := by
  rw [State.dieAt_modDieAt]

theorem thermalTrip_stops_grants (s : State) (d : Nat) (h : s.req = some (.thermalTrip d)) :
    ∃ t, exec .thermalTrip s = .next t ∧ t.req = none ∧
      t.cores = s.cores ∧ s.sameMemory t ∧ (t.dieAt d).trip = true ∧ t.gov = { s.gov with trip := true } ∧
      t.gov.next = none ∧ t.mgmt.requests = s.mgmt.requests ++ [.clock d 1] := by
  have e : exec .thermalTrip s = execThermalTrip s := rfl
  simp only [execThermalTrip, h] at e
  exact ⟨_, e, rfl, rfl, ⟨rfl, rfl, rfl, rfl, rfl⟩, s.trip_modDieAt d true, rfl, rfl, rfl⟩

theorem thermalTripClear_waits_for_all (s : State) (d : Nat) (h : s.req = some (.thermalTripClear d)) :
    ∃ t, exec .thermalTripClear s = .next t ∧ t.req = none ∧
      t.cores = s.cores ∧ s.sameMemory t ∧ (t.dieAt d).trip = false ∧ t.gov.held = s.gov.held ∧
      (t.gov.trip = false ↔ ∀ k, k < 13 → (t.dieAt k).trip = false) ∧ t.mgmt.requests = s.mgmt.requests ++ [.clock d 0] := by
  have e : exec .thermalTripClear s = execThermalTripClear s := rfl
  simp only [execThermalTripClear, h] at e
  refine ⟨_, e, rfl, rfl, ⟨rfl, rfl, rfl, rfl, rfl⟩, s.trip_modDieAt d false, rfl, ?_, rfl⟩
  simp only [List.any_eq_false, List.mem_range, Bool.not_eq_true]
  rfl

/-! Meters (R345). -/

/-- A meter after a refill. -/
def Meter.refill (m : Meter) : Meter :=
  if m.rate = 0 then m else { m with tokens := min (m.burst : Int) (m.tokens + (m.rate : Int)) }

/-- A context after a refill. -/
def Context.refill (c : Context) : Context := { c with meters := c.meters.map (fun q => (q.1, q.2.refill)) }

theorem exec_meterRefill (s : State) :
    exec .meterRefill s = .next { s with contexts := s.contexts.map (fun p => (p.1, p.2.refill)) } := rfl

theorem meterRefill_refills (s : State) : ∃ t, exec .meterRefill s = .next t ∧ t.cores = s.cores ∧ s.sameMemory t ∧
    ∀ ctx c res m, find? ctx s.contexts = some c → find? res c.meters = some m →
      find? res (t.ctxAt ctx).meters = some m.refill := by
  refine ⟨_, exec_meterRefill s, rfl, State.sameMemory_refl s, fun ctx c res m hc hm => ?_⟩
  have h : State.ctxAt { s with contexts := s.contexts.map (fun p => (p.1, p.2.refill)) } ctx = c.refill := by
    simp [State.ctxAt, find, find?_mapValues, hc]
  rw [h]
  simp [Context.refill, find?_mapValues, hm]

theorem tripsAndMeters : Claims.TripsAndMeters :=
  ⟨thermalTrip_stops_grants, thermalTripClear_waits_for_all, meterRefill_refills⟩

/-- Settles O48: a reservation and a grant each by what their row does to the launches and to the governor; what is picked fits,
by induction on the requests in their order of service. -/
theorem governance : Obligations.Governance := ⟨leaves, tripsAndMeters⟩

end Sys2Proof.Machine
end

section
/-! PROOF. Boot, the admission of dies, and attestation (R20, R349 to R352). -/

namespace Sys2Proof.Machine

/-! Certificates (R350). -/

theorem certificates : Claims.Certificates := by
  refine ⟨fun b d hd => ?_, fun b d nonce hd => ?_⟩
  · simp [Boot.certificate, Boot.cdi, hd]
  · simp [Boot.sideOk, Boot.signingKey, hd]

/-! Challenges (R352). -/

/-- The challenges of a die use up nonces alone; they succeed when each side of each signs the nonce that it got. -/
theorem State.challengeAll_spec (s : State) (d : Nat) (l : List Nat) :
    ∃ (n : Nat) (nonces : Nat → BitVec 384 × BitVec 384), (s.challengeAll d l).1 = { s with free := n } ∧
      ((s.challengeAll d l).2 = true ↔
        ∀ a ∈ l, s.boot.sideOk d (nonces a).1 = true ∧ s.boot.sideOk a (nonces a).2 = true) := by
  induction l generalizing s with
  | nil => exact ⟨s.free, fun _ => (0, 0), rfl, by simp [State.challengeAll]⟩
  | cons a r ih =>
    let n1 := Config.freshNonce s.free
    let n2 := Config.freshNonce (s.free + 1)
    cases hok : s.boot.sideOk d n1 && s.boot.sideOk a n2 with
    | false =>
      have e : s.challengeAll d (a :: r) = ({ s with free := s.free + 2 }, false) := by
        simp only [State.challengeAll, State.challengeDies]
        rw [hok]
      refine ⟨s.free + 2, fun _ => (n1, n2), by rw [e], ?_⟩
      rw [e]
      simp only [Bool.false_eq_true, false_iff]
      intro h
      simp [h a List.mem_cons_self] at hok
    | true =>
      have e : s.challengeAll d (a :: r) = State.challengeAll { s with free := s.free + 2 } d r := by
        simp only [State.challengeAll, State.challengeDies]
        rw [hok]
      obtain ⟨n, nonces, hs, hn⟩ := ih { s with free := s.free + 2 }
      refine ⟨n, fun x => if x ∈ r then nonces x else (n1, n2), by rw [e, hs], ?_⟩
      rw [e, hn]
      have hin : ∀ x ∈ r, (if x ∈ r then nonces x else (n1, n2)) = nonces x := fun x hx => if_pos hx
      rw [Bool.and_eq_true] at hok
      refine ⟨fun h x hx => ?_, fun h x hx => hin x hx ▸ h x (List.mem_cons_of_mem a hx)⟩
      by_cases hr : x ∈ r
      · simpa only [if_pos hr] using h x hr
      · obtain rfl := (List.mem_cons.mp hx).resolve_right hr
        simpa only [if_neg hr] using hok

/-- Whom a die meets, of the dies admitted before it: the cache die, and its ring neighbours. -/
def Meets (admitted : List Nat) (d a : Nat) : Prop :=
  d ≠ 8 ∧ a = 8 ∨ d < 8 ∧ a < d ∧ a ∈ admitted ∧ (a = (d + 1) % 8 ∨ a = (d + 7) % 8)

theorem Boot.mem_challengers {b : Boot} {d a : Nat} (h : ∀ x ∈ b.admitted, x < d) :
    a ∈ b.challengers d ↔ Meets b.admitted d a := by
  have hm := h a
  unfold Boot.challengers Meets
  split <;> split <;> simp <;> grind

/-- The next die is admitted or fenced. -/
def State.decideDie (s : State) : State :=
  match s.challengeAll s.boot.next (s.boot.challengers s.boot.next) with
  | (s', true) => s'.admitDie s.boot.next
  | (s', false) => s'.fenceDie s.boot.next

/-- The next die is admitted exactly if it and each die that it meets sign each other's nonces; only nonces are used up. -/
theorem State.decideDie_cases (s : State) (h : ∀ x ∈ s.boot.admitted, x < s.boot.next) :
    ∃ (n : Nat) (nonces : Nat → BitVec 384 × BitVec 384),
      let ok := ∀ a, Meets s.boot.admitted s.boot.next a →
        s.boot.sideOk s.boot.next (nonces a).1 = true ∧ s.boot.sideOk a (nonces a).2 = true
      (ok ∧ s.decideDie = State.admitDie { s with free := n } s.boot.next) ∨
        (¬ok ∧ s.decideDie = State.fenceDie { s with free := n } s.boot.next) := by
  obtain ⟨n, nonces, hs, hok⟩ := s.challengeAll_spec s.boot.next (s.boot.challengers s.boot.next)
  simp only [Boot.mem_challengers h] at hok
  refine ⟨n, nonces, ?_⟩
  unfold State.decideDie
  generalize s.challengeAll s.boot.next (s.boot.challengers s.boot.next) = r at hs hok
  obtain ⟨s', b⟩ := r
  obtain rfl : s' = _ := hs
  cases b with
  | true => exact .inl ⟨hok.mp rfl, rfl⟩
  | false => exact .inr ⟨fun o => Bool.noConfusion (hok.mpr o), rfl⟩

/-- Deciding a die changes its entry in the log, its state and certificate, and the lists of boot alone. -/
theorem State.decideDie_keeps (s : State) :
    s.decideDie.boot.next = s.boot.next + 1 ∧ s.decideDie = { s with
      dies := s.decideDie.dies, free := s.decideDie.free, boot := { s.boot with
        log := s.decideDie.boot.log, certs := s.decideDie.boot.certs, admitted := s.decideDie.boot.admitted
        next := s.decideDie.boot.next } } ∧
    (∀ i, i ≠ 16 + s.boot.next → find? i s.decideDie.boot.log = find? i s.boot.log) ∧
    (∀ d, d ≠ s.boot.next → s.decideDie.dieAt d = s.dieAt d) := by
  obtain ⟨n, -, hs, -⟩ := s.challengeAll_spec s.boot.next (s.boot.challengers s.boot.next)
  unfold State.decideDie
  generalize s.challengeAll s.boot.next (s.boot.challengers s.boot.next) = r at hs
  obtain ⟨s', b⟩ := r
  obtain rfl : s' = _ := hs
  cases b with
  | true => exact ⟨rfl, rfl, fun i hi => find?_put_ne hi _ _, fun _ _ => rfl⟩
  | false => exact ⟨rfl, rfl, fun i hi => find?_put_ne hi _ _, fun d hd => State.dieAt_setDieAt_ne _ hd _⟩

/-- An induction over the admission of dies: what each decision keeps holds where it stops; where every die answers, that is
after the last die, and boot is over. -/
theorem State.admitDies_induct {P : State → Prop} (step : ∀ t, P t → t.boot.next < 13 → P t.decideDie) (n : Nat) (t : State)
    (h : P t) : ∃ u, P u ∧ (t.admitDies n = u ∨ t.admitDies n = u.bootDone) ∧
      (t.boot.silent = [] → t.boot.next ≤ 13 → 13 < t.boot.next + n → 13 ≤ u.boot.next ∧ t.admitDies n = u.bootDone) := by
  induction n generalizing t with
  | zero => exact ⟨t, h, .inl rfl, fun _ _ _ => by omega⟩
  | succ n ih =>
    by_cases hn : 13 ≤ t.boot.next
    · have e : t.admitDies (n + 1) = t.bootDone := by simp [State.admitDies, hn]
      exact ⟨t, h, .inr e, fun _ _ _ => ⟨hn, e⟩⟩
    · by_cases hs : t.boot.next ∈ t.boot.silent
      · have e : t.admitDies (n + 1) = t := by simp [State.admitDies, hn, hs]
        exact ⟨t, h, .inl e, fun h0 => by simp [h0] at hs⟩
      · have e : t.admitDies (n + 1) = t.decideDie.admitDies n := by
          simp only [State.admitDies, hn, if_false, List.contains_iff_mem, hs, State.decideDie]
          split <;> simp_all only
        obtain ⟨hnext, hframe, -, -⟩ := t.decideDie_keeps
        have hsil : t.decideDie.boot.silent = t.boot.silent := by rw [hframe]
        obtain ⟨u, hu, hend, hall⟩ := ih t.decideDie (step t h (by omega))
        rw [e]
        exact ⟨u, hu, hend, fun h0 _ hlt => hall (hsil.trans h0) (by omega) (by omega)⟩

/-- What the admission of dies leaves alone, from s to t: all but the log, certificates and lists of boot, and the dies; the log
below the entries of the dies it decides, and every other die. -/
structure Admits (s t : State) : Prop where
  frame : t = { s with
    dies := t.dies, free := t.free, boot := { s.boot with
      log := t.boot.log, certs := t.boot.certs, admitted := t.boot.admitted, next := t.boot.next } }
  mono : s.boot.next ≤ t.boot.next
  bound : s.boot.next ≤ 13 → t.boot.next ≤ 13
  log : ∀ i, i < 16 + s.boot.next → find? i t.boot.log = find? i s.boot.log
  dies : ∀ d, d < s.boot.next ∨ t.boot.next ≤ d → t.dieAt d = s.dieAt d

theorem Admits.refl (s : State) : Admits s s := ⟨rfl, Nat.le_refl _, id, fun _ _ => rfl, fun _ _ => rfl⟩

theorem Admits.decideDie {s t : State} (h : Admits s t) (hn : t.boot.next < 13) : Admits s t.decideDie := by
  obtain ⟨hnext, hframe, hlog, hdies⟩ := t.decideDie_keeps
  have hm := h.mono
  refine ⟨?_, by omega, by omega, fun i hi => (hlog i (by omega)).trans (h.log i hi), fun d hd => ?_⟩
  · rw [hframe, h.frame]
  · exact (hdies d (by omega)).trans (h.dies d (by omega))

/-- R20, R350, R352: how a die came out, in t, of an admission that began in s. -/
def Decided (s t : State) (d : Nat) : Prop :=
  (∃ nonces : Nat → BitVec 384 × BitVec 384, d ∈ t.boot.admitted ↔ ∀ a, Meets t.boot.admitted d a →
    s.boot.sideOk d (nonces a).1 = true ∧ s.boot.sideOk a (nonces a).2 = true) ∧
  (d ∈ t.boot.admitted → t.dieAt d = s.dieAt d ∧
    find? (16 + d) t.boot.log = some (Config.sha384 (s.boot.certificate d)) ∧ find? d t.boot.certs = some (s.boot.certificate d)) ∧
  (d ∉ t.boot.admitted → (t.dieAt d).fenced = true ∧ find? (16 + d) t.boot.log = some 0)

/-- A die that is decided stays so when the next one is. -/
theorem Decided.of_agrees {s t u : State} {d : Nat} (h : Decided s t d)
    (hadm : ∀ a, a ≤ d → (a ∈ u.boot.admitted ↔ a ∈ t.boot.admitted)) (hdie : u.dieAt d = t.dieAt d)
    (hlog : find? (16 + d) u.boot.log = find? (16 + d) t.boot.log) (hcert : find? d u.boot.certs = find? d t.boot.certs) :
    Decided s u d := by
  have hmeets : ∀ a, Meets u.boot.admitted d a ↔ Meets t.boot.admitted d a := fun a => by
    unfold Meets
    by_cases ha : a < d
    · simp [hadm a (Nat.le_of_lt ha)]
    · simp [ha]
  unfold Decided at h ⊢
  simpa only [hmeets, hadm d (Nat.le_refl _), hdie, hlog, hcert] using h

theorem State.fenced_fenceDie (s : State) (d : Nat) : ((s.fenceDie d).dieAt d).fenced = true := by
  show ((s.modDieAt d fun x => { x with fenced := true }).dieAt d).fenced = true
  rw [State.dieAt_modDieAt]

/-- The next die comes out as its challenges say. -/
theorem Admits.decided_next {s t : State} (h : Admits s t) (hlt : ∀ a ∈ t.boot.admitted, a < t.boot.next) :
    Decided s t.decideDie t.boot.next := by
  have hside : ∀ d nonce, t.boot.sideOk d nonce = s.boot.sideOk d nonce := fun d nonce => by rw [h.frame]; rfl
  have hcert : ∀ d, t.boot.certificate d = s.boot.certificate d := fun d => by rw [h.frame]; rfl
  have hdie : t.dieAt t.boot.next = s.dieAt t.boot.next := h.dies _ (.inr (Nat.le_refl _))
  have hnot : t.boot.next ∉ t.boot.admitted := fun hm => absurd (hlt _ hm) (Nat.lt_irrefl _)
  obtain ⟨n, nonces, hd⟩ := t.decideDie_cases hlt
  simp only [hside] at hd
  rcases hd with ⟨hok, e⟩ | ⟨hok, e⟩
  · rw [e]
    have hmeets : ∀ a, Meets (t.boot.admitted ++ [t.boot.next]) t.boot.next a ↔ Meets t.boot.admitted t.boot.next a := by
      intro a
      unfold Meets
      by_cases ha : a < t.boot.next
      · simp [Nat.ne_of_lt ha]
      · simp [ha]
    refine ⟨⟨nonces, ?_⟩, fun _ => ⟨hdie, ?_, ?_⟩, fun hm => absurd ?_ hm⟩
    · exact iff_of_true (by simp [State.admitDie]) (fun a ha => hok a ((hmeets a).mp ha))
    · rw [← hcert]
      exact find?_put_same _ _ _
    · rw [← hcert]
      exact find?_put_same _ _ _
    · simp [State.admitDie]
  · rw [e]
    refine ⟨⟨nonces, iff_of_false hnot hok⟩, fun hm => absurd hm hnot, fun _ => ⟨?_, find?_put_same _ _ _⟩⟩
    exact State.fenced_fenceDie _ _

/-- Deciding the next die leaves the lower ones as they were decided. -/
theorem State.decideDie_lower (t : State) (hlt : ∀ a ∈ t.boot.admitted, a < t.boot.next) :
    (∀ a ∈ t.decideDie.boot.admitted, a < t.decideDie.boot.next) ∧
    (∀ a, a < t.boot.next → (a ∈ t.decideDie.boot.admitted ↔ a ∈ t.boot.admitted)) ∧
    (∀ a, a < t.boot.next → find? a t.decideDie.boot.certs = find? a t.boot.certs) := by
  obtain ⟨n, _, ⟨-, e⟩ | ⟨-, e⟩⟩ := t.decideDie_cases hlt
  · rw [e]
    refine ⟨fun a ha => ?_, fun a ha => ?_, fun a ha => find?_put_ne (Nat.ne_of_lt ha) _ _⟩
    · rcases List.mem_append.mp ha with ha | ha
      · exact Nat.lt_succ_of_lt (hlt a ha)
      · exact Nat.lt_succ_of_le (Nat.le_of_eq (List.mem_singleton.mp ha))
    · simp [State.admitDie, Nat.ne_of_lt ha]
  · rw [e]
    exact ⟨fun a ha => Nat.lt_succ_of_lt (hlt a ha), fun _ _ => Iff.rfl, fun _ _ => rfl⟩

/-- An admission from s whose dies below the next one are decided. -/
structure AdmitsDecided (s t : State) : Prop extends Admits s t where
  below : ∀ a ∈ t.boot.admitted, a < t.boot.next
  decided : ∀ d, s.boot.next ≤ d → d < t.boot.next → Decided s t d

theorem AdmitsDecided.decideDie {s t : State} (h : AdmitsDecided s t) (hn : t.boot.next < 13) :
    AdmitsDecided s t.decideDie := by
  obtain ⟨hnext, -, hlog, hdies⟩ := t.decideDie_keeps
  obtain ⟨hbelow, hadm, hcert⟩ := t.decideDie_lower h.below
  refine ⟨h.toAdmits.decideDie hn, hbelow, fun d h0 hd => ?_⟩
  by_cases e : d = t.boot.next
  · exact e ▸ h.toAdmits.decided_next h.below
  · have hlt : d < t.boot.next := by omega
    exact (h.decided d h0 hlt).of_agrees (fun a ha => hadm a (by omega)) (hdies d e) (hlog _ (by omega)) (hcert d hlt)

/-- Where every die answers, admission from die 0 on decides all of them, and boot is over. -/
theorem State.admitDies_all (s : State) (hs : s.boot.silent = []) (hn : s.boot.next = 0) (ha : s.boot.admitted = []) :
    ∃ u, AdmitsDecided s u ∧ u.boot.next = 13 ∧ s.admitDies 14 = u.bootDone := by
  have h0 : AdmitsDecided s s := ⟨Admits.refl s, by simp [ha], fun d hd hd' => by omega⟩
  obtain ⟨u, hu, -, hall⟩ := State.admitDies_induct (P := AdmitsDecided s) (fun t ht hn => ht.decideDie hn) 14 s h0
  obtain ⟨h13, e⟩ := hall hs (by omega) (by omega)
  exact ⟨u, hu, Nat.le_antisymm (hu.bound (by omega)) h13, e⟩

/-- Each pair of dies meets once, in one order: the nonces of all challenges are those of each die's own. -/
theorem Meets.asymm {l : List Nat} {d a : Nat} (h : Meets l d a) : ¬Meets l a d := by
  unfold Meets at *
  omega

theorem exists_nonces {l : List Nat} {b : Boot} (f : Nat → Nat → BitVec 384 × BitVec 384) :
    ∃ nonce : Nat → Nat → BitVec 384, ∀ d, (∀ a, Meets l d a → b.sideOk d (nonce a d) = true ∧ b.sideOk a (nonce d a) = true) ↔
      ∀ a, Meets l d a → b.sideOk d (f d a).1 = true ∧ b.sideOk a (f d a).2 = true := by
  classical
  refine ⟨fun x y => if Meets l y x then (f y x).1 else (f x y).2, fun d => ?_⟩
  refine forall_congr' fun a => imp_congr_right fun hm => ?_
  simp only [if_pos hm, if_neg hm.asymm]

/-! Boot (R349). -/

theorem stage2Good_iff (x : BootImage) : stage2Good x = true ↔ manifestNames x := by
  unfold stage2Good manifestNames manifestDigest
  rw [Bool.and_eq_true, Bool.and_eq_true, beq_iff_eq, beq_iff_eq, beq_iff_eq, and_assoc]
  exact and_congr eq_comm (and_congr eq_comm eq_comm)

/-- The state after stage 1 has measured what comes from a source. -/
def State.stage1 (s : State) (x : BootImage) (network : Bool) : State :=
  { s with
    boot := ((({ s.boot with stage := 1, image := some x, fromNetwork := network } : Boot).measure 0 x.stage1).measure 1
      (x.manifest ++ x.config)).measure 5 (bootSource x network)
    mgmt := { s.mgmt with bootFailed := false } }

/-- The state in which the admission of dies begins: the images of stage 2 are measured. -/
def State.admitting (s : State) (x : BootImage) (network : Bool) : State :=
  let b := (s.stage1 x network).boot
  { s.stage1 x network with boot :=
    { (((b.measure 2 x.os).measure 3 x.firmware).measure 4 x.idrok) with stage := 2, next := 0, admitted := [] } }

/-- What is measured before the dies are admitted. -/
theorem State.log_admitting (s : State) (x : BootImage) (network : Bool) :
    let log := (s.admitting x network).boot.log
    find? 0 log = some (Config.sha384 x.stage1) ∧ find? 1 log = some (Config.sha384 (x.manifest ++ x.config)) ∧
      find? 2 log = some (Config.sha384 x.os) ∧ find? 3 log = some (Config.sha384 x.firmware) ∧
      find? 4 log = some (Config.sha384 x.idrok) ∧
      find? 5 log = some (Config.sha384 (if network then 1 :: digestBytes (Config.sha384 x.url) else [0])) := by
  simp [State.admitting, State.stage1, Boot.measure, find?_put_ne, bootSource]

/-- Once all dies are decided, boot leaves what it should. -/
theorem State.boots_of_admitsDecided (s : State) {u : State} {x : BootImage} {network : Bool}
    (h : AdmitsDecided (s.admitting x network) u) (hn : u.boot.next = 13) : Boots s u.bootDone x network := by
  obtain ⟨l0, l1, l2, l3, l4, l5⟩ := s.log_admitting x network
  have hlog : ∀ i, i < 16 → find? i u.boot.log = find? i (s.admitting x network).boot.log := h.log
  have hf := h.frame
  have hdec : ∀ d, d < 13 → Decided (s.admitting x network) u d := fun d hd => h.decided d (Nat.zero_le d) (hn ▸ hd)
  have hex : ∀ d, ∃ nonces : Nat → BitVec 384 × BitVec 384, d < 13 → (d ∈ u.boot.admitted ↔ ∀ a, Meets u.boot.admitted d a →
      (s.admitting x network).boot.sideOk d (nonces a).1 = true ∧ (s.admitting x network).boot.sideOk a (nonces a).2 = true) := by
    intro d
    by_cases hd : d < 13
    · obtain ⟨nonces, h⟩ := (hdec d hd).1
      exact ⟨nonces, fun _ => h⟩
    · exact ⟨fun _ => (0, 0), fun h => absurd h hd⟩
  obtain ⟨f, hadm⟩ := Classical.axiomOfChoice hex
  obtain ⟨nonce, hnonce⟩ := exists_nonces (l := u.boot.admitted) (b := s.boot) f
  refine ⟨rfl, ?_, ?_, (hlog 0 (by omega)).trans l0, (hlog 1 (by omega)).trans l1, (hlog 2 (by omega)).trans l2,
    (hlog 3 (by omega)).trans l3, (hlog 4 (by omega)).trans l4, (hlog 5 (by omega)).trans l5, nonce, fun d hd => ?_⟩
  · rw [hf]; rfl
  · rw [hf]; rfl
  · obtain ⟨-, hin, hout⟩ := hdec d hd
    exact ⟨(hadm d hd).trans (hnonce d).symm, hin, hout⟩

/-- Stage 1 ends with the dies decided, or, where an image is none that its manifest names, with boot failed. -/
theorem State.bootStage1_boots (s : State) (x : BootImage) (network : Bool) (hs : s.boot.silent = []) :
    let t := s.bootStage1 x network
    t.cores = s.cores ∧ t.req = s.req ∧ s.sameMemory t ∧ t.boot.powered = s.boot.powered ∧
      (manifestNames x → Boots s t x network) ∧ (¬manifestNames x → t.mgmt.bootFailed = true ∧ t.boot.stage = 1) := by
  intro t
  by_cases hm : manifestNames x
  · obtain ⟨u, hu, hn, e⟩ := (s.admitting x network).admitDies_all hs rfl rfl
    have ht : t = u.bootDone := by
      rw [← e]
      exact if_pos ((stage2Good_iff x).mpr hm)
    have hf := hu.frame
    refine ⟨?_, ?_, ?_, ?_, fun _ => ?_, absurd hm⟩
    · rw [ht, hf]; rfl
    · rw [ht, hf]; rfl
    · rw [ht, hf]; exact ⟨rfl, rfl, rfl, rfl, rfl⟩
    · rw [ht, hf]; rfl
    · rw [ht]; exact s.boots_of_admitsDecided hu hn
  · have ht : t = { s.stage1 x network with mgmt := { s.mgmt with bootFailed := true } } :=
      if_neg fun h => hm ((stage2Good_iff x).mp h)
    rw [ht]
    exact ⟨rfl, rfl, ⟨rfl, rfl, rfl, rfl, rfl⟩, rfl, fun h => absurd h hm, fun _ => ⟨rfl, rfl⟩⟩

theorem State.bootStage1_tries (s : State) (x : BootImage) (network : Bool) (hs : s.boot.silent = [])
    (hp : s.boot.powered = true) : TriesBoot s (s.bootStage1 x network) (some (x, network)) := by
  obtain ⟨hcores, -, hmem, hpow, hboots, hfails⟩ := s.bootStage1_boots x network hs
  refine ⟨hcores, hmem, hpow.trans hp, nofun, fun x' network' hx => ?_⟩
  cases hx
  exact ⟨hboots, hfails⟩

/-- Neither source has an image that verifies: boot has failed. -/
def State.bootFails (s : State) : State := { s with mgmt := { s.mgmt with bootFailed := true } }

theorem State.bootFails_tries (s : State) (hp : s.boot.powered = true) : TriesBoot s s.bootFails none :=
  ⟨rfl, ⟨rfl, rfl, rfl, rfl, rfl⟩, hp, fun _ => ⟨rfl, rfl, rfl⟩, nofun⟩

theorem bootChoice_good {x : BootImage} (h : stage1Good x = true) (network : Option BootImage) :
    bootChoice (some x) network = some (x, false) ∧ bootChoice none (some x) = some (x, true) := by
  unfold stage1Good at h
  simp [bootChoice, h]

theorem bootChoice_bad {x : BootImage} (h : stage1Good x = false) (network : Option BootImage) :
    bootChoice (some x) network = bootChoice none network ∧ bootChoice none (some x) = none := by
  unfold stage1Good at h
  simp [bootChoice, h]

theorem State.bootNetwork_eq (s : State) : s.bootNetwork =
    match s.boot.network with
    | some x => if stage1Good x then s.bootStage1 x true else s.bootFails
    | none => s.bootFails := rfl

/-- The ROM tries the network: it takes the image there if its signature verifies. -/
theorem State.bootNetwork_tries (s : State) (hs : s.boot.silent = []) (hp : s.boot.powered = true) :
    s.bootNetwork.req = s.req ∧ TriesBoot s s.bootNetwork (bootChoice none s.boot.network) := by
  rw [State.bootNetwork_eq]
  cases s.boot.network with
  | none => exact ⟨rfl, s.bootFails_tries hp⟩
  | some x =>
    dsimp only
    split
    next hg =>
      rw [(bootChoice_good hg none).2]
      exact ⟨(s.bootStage1_boots x true hs).2.1, s.bootStage1_tries x true hs hp⟩
    next hg =>
      rw [(bootChoice_bad (Bool.eq_false_iff.mpr hg) none).2]
      exact ⟨rfl, s.bootFails_tries hp⟩

/-- The state with power on. -/
def State.power (s : State) : State := { s with boot := { s.boot with powered := true } }

theorem exec_powerOn {s : State} (hp : s.boot.powered = false) : exec .powerOn s =
    match s.boot.flash with
    | some x => .next (if stage1Good x then s.power.bootStage1 x false else s.power.bootNetwork)
    | none => .next s.power.bootNetwork := by
  show execPowerOn s = _
  simp only [execPowerOn, hp, Bool.false_eq_true, if_false]
  rfl

theorem powerOn_boots (s : State) (hp : s.boot.powered = false) (hs : s.boot.silent = []) :
    ∃ t, exec .powerOn s = .next t ∧ TriesBoot s t (bootChoice s.boot.flash s.boot.network) := by
  obtain ⟨-, hnet⟩ := s.power.bootNetwork_tries hs rfl
  rw [exec_powerOn hp]
  cases s.boot.flash with
  | none => exact ⟨_, rfl, hnet⟩
  | some x =>
    refine ⟨_, rfl, ?_⟩
    cases hg : stage1Good x with
    | true =>
      rw [(bootChoice_good hg _).1]
      exact s.power.bootStage1_tries x false hs rfl
    | false =>
      rw [(bootChoice_bad hg _).1]
      exact hnet

theorem bootNetworkRetry_boots (s : State) (x : Option BootImage) (hr : s.req = some (.bootNetworkRetry x))
    (hp : s.boot.powered = true) (hs : s.boot.silent = []) :
    (s.boot.stage = 0 → ∃ t, exec .bootNetworkRetry s = .next t ∧ t.req = none ∧ TriesBoot s t (bootChoice none x)) ∧
    (s.boot.stage ≠ 0 → exec .bootNetworkRetry s = .next { s with req := none, boot := { s.boot with network := x } }) := by
  let v : State := { s with req := none, boot := { s.boot with network := x } }
  have e : exec .bootNetworkRetry s = .next (if s.boot.stage = 0 then v.bootNetwork else v) := by
    show execBootNetworkRetry s = _
    simp only [execBootNetworkRetry, hr]
    by_cases h0 : s.boot.stage = 0
    · rw [if_pos ⟨h0, hp⟩, if_pos h0]
      rfl
    · rw [if_neg (fun h => h0 h.1), if_neg h0]
      rfl
  refine ⟨fun h0 => ?_, fun h0 => e.trans (by rw [if_neg h0])⟩
  obtain ⟨hreq, htry⟩ := v.bootNetwork_tries hs hp
  rw [if_pos h0] at e
  exact ⟨_, e, hreq, htry⟩

/-- A die that does not answer is fenced, and what follows leaves it so. -/
theorem dieChallengeTimeout_fences (s : State) (d : Nat) (hr : s.req = some (.dieChallengeTimeout d)) (hst : s.boot.stage = 2)
    (hn : s.boot.next = d) (hd : d < 13) :
    ∃ t, exec .dieChallengeTimeout s = .next t ∧ t.req = none ∧ (t.dieAt d).fenced = true ∧
      find? (16 + d) t.boot.log = some 0 ∧ d < t.boot.next ∧ t.cores = s.cores := by
  let v : State := State.fenceDie { s with req := none } d
  have e : exec .dieChallengeTimeout s = .next (v.admitDies 14) := by
    show execDieChallengeTimeout s = _
    simp only [execDieChallengeTimeout, hr, hst, hn, hd, and_self, if_true]
    rfl
  have hfence : (v.dieAt d).fenced = true := State.fenced_fenceDie _ d
  obtain ⟨u, hu, hend, -⟩ := State.admitDies_induct (P := Admits v) (fun t ht hn => ht.decideDie hn) 14 v (Admits.refl v)
  have hf := hu.frame
  have hmono : d < u.boot.next := hu.mono
  have hdie : (u.dieAt d).fenced = true := by rw [hu.dies d (.inl (Nat.lt_succ_self d)), hfence]
  have hlog : find? (16 + d) u.boot.log = some 0 :=
    (hu.log _ (Nat.lt_succ_self (16 + d))).trans (find?_put_same _ _ _)
  refine ⟨_, e, ?_⟩
  rcases hend with hend | hend <;> rw [hend]
  · exact ⟨by rw [hf]; rfl, hdie, hlog, hmono, by rw [hf]; rfl⟩
  · exact ⟨by rw [hf]; rfl, hdie, hlog, hmono, by rw [hf]; rfl⟩

theorem booting : Claims.Booting :=
  ⟨fun _ h => if_pos h, powerOn_boots, bootNetworkRetry_boots, dieChallengeTimeout_fences⟩

/-! Attestation (R351). -/

theorem State.spdmAnswer_silent {s : State} {port : Nat} (ready : Bool) (k : State → State)
    (h : s.boot.stage < 3 ∨ (port ≠ 0 ∧ port ∉ s.mgmt.osPorts)) : s.spdmAnswer port ready k = .next { s with req := none } := by
  have hserve : s.boot.stage < 3 ∨ ({ s with req := none } : State).serves port = false := by
    simpa [State.serves] using h
  simp only [State.spdmAnswer, if_pos hserve, done]

theorem State.spdmAnswer_ready {s : State} {port : Nat} (ready : Bool) (k : State → State) (hst : s.boot.stage = 3)
    (h : port = 0 ∨ port ∈ s.mgmt.osPorts) : s.spdmAnswer port ready k =
      .next (if ready then k { s with req := none } else ({ s with req := none } : State).spdmError port 4) := by
  have hserve : ¬(s.boot.stage < 3 ∨ ({ s with req := none } : State).serves port = false) := by
    have hserves : ({ s with req := none } : State).serves port = true := by
      rw [State.serves, Bool.or_eq_true, beq_iff_eq, List.contains_iff_mem]
      exact h
    rw [hst, hserves]
    decide
  simp only [State.spdmAnswer, if_neg hserve, done]
  cases ready <;> rfl

theorem attestation : Claims.Attestation := by
  refine ⟨fun s port nonce n a b i r h hr hs => ?_, fun s port hst hport => ?_⟩
  · have hk := fun ready k => State.spdmAnswer_silent (s := s) ready k hs
    simp only [List.mem_cons, Prod.mk.injEq, List.not_mem_nil, or_false] at h
    rcases h with ⟨rfl, rfl⟩ | ⟨rfl, rfl⟩ | ⟨rfl, rfl⟩ | ⟨rfl, rfl⟩ | ⟨rfl, rfl⟩ | ⟨rfl, rfl⟩ | ⟨rfl, rfl⟩ <;>
      simp only [exec, execGetVersion, execGetCapabilities, execNegotiateAlgorithms, execGetDigests, execGetCertificate,
        execChallenge, execGetMeasurements, hr, hk]
  · intro x reply chain
    have hk := fun ready k => State.spdmAnswer_ready ready k hst hport
    refine ⟨fun hr => ?_, fun hr => ?_, fun a b hr => ?_, fun hr => ?_, fun hr => ?_, ?_⟩
    · show execGetVersion s = _
      simp only [execGetVersion, hr, hk]
      rfl
    · show execGetCapabilities s = _
      simp only [execGetCapabilities, hr, hk]
      rfl
    · show execNegotiateAlgorithms s = _
      simp only [execNegotiateAlgorithms, hr, hk]
      cases s.spdm.capable with
      | false => simp only [x, Bool.false_eq_true, if_false, if_true]; rfl
      | true => cases a <;> cases b <;> simp only [x] <;> rfl
    · show execGetDigests s = _
      simp only [execGetDigests, hr, hk]
      rfl
    · show execGetCertificate s = _
      simp only [execGetCertificate, hr, hk]
      rfl
    · intro fresh signed
      refine ⟨fun nonce hr => ?_, fun n nonce hr => ?_⟩
      · show execChallenge s = _
        simp only [execChallenge, hr, hk]
        rfl
      · have e : exec .getMeasurements s = .next (if x.negotiated then (match find? n s.boot.log with
            | none => reply x 0x7F [1]
            | some d => signed nonce 0x60 (leBytes n 1 ++ digestBytes d ++ fresh)) else reply x 0x7F [4]) := by
          show execGetMeasurements s = _
          simp only [execGetMeasurements, hr, hk]
          cases hl : find? n s.boot.log <;> rfl
        rw [e]
        refine ⟨fun h => ?_, fun h hl => ?_, fun d h hl => ?_⟩
        · rw [h]; rfl
        · rw [h, hl]; rfl
        · rw [h, hl]; rfl

/-- Settles O52: an invariant of the admission of dies, kept by the decision on each, gives what boot leaves; the responder's
requests go through one guard. -/
theorem boot : Obligations.Boot := ⟨certificates, booting, attestation⟩

end Sys2Proof.Machine
end

section
/-! PROOF. Management commands (R17, R207, R329, R338, R344, R346, R353 to R355). -/

namespace Sys2Proof.Machine

/-! How commands end (R353). -/

/-- What a write of bytes to host memory leaves. -/
theorem State.hostWrite_reads (s : State) (a : Nat) (bs : List Byte) :
    (∀ n, n < bs.length → bs[n]? = some (readByte (s.hostWrite a bs).hostMem (a + n))) ∧
    ∀ x, x < a ∨ a + bs.length ≤ x → readByte (s.hostWrite a bs).hostMem x = readByte s.hostMem x := by
  refine ⟨fun n hn => ?_, fun x hx => readByte_writeBytes_outside bs s.hostMem a x hx⟩
  rw [List.getElem?_eq_getElem hn]
  exact congrArg some (readByte_writeBytes_inside bs s.hostMem a n hn).symm

theorem State.endCommand_ends (u : State) (code : Nat) : CommandEnds u (u.endCommand code) code := by
  refine ⟨rfl, ?_, (u.hostWrite_reads _ (leBytes code 4)).2⟩
  exact readBytes_writeBytes (leBytes code 4) u.hostMem _

theorem State.withCommand_of_some {s : State} {c : Command} (k : Command → State) (h : s.mgmt.cmd = some c) :
    s.withCommand k = .next (k c) := by
  simp only [State.withCommand, h, done]

/-- A row that answers the end of a command ends it. -/
theorem exists_commandEnds {o : Out} {u : State} {code : Nat} (h : o = .next (u.endCommand code)) :
    ∃ t, o = .next t ∧ CommandEnds u t code := ⟨_, h, u.endCommand_ends code⟩

/-! Tables (R346, R354). -/

theorem writeTable_writes (s : State) (buf size : Nat) (bs : List Byte) :
    ∃ u, CommandEnds u (s.writeTable buf size bs) (if size < bs.length then 4 else 0) ∧
      (size < bs.length → u = s) ∧ (bs.length ≤ size → u = { s with hostMem := u.hostMem } ∧
        (∀ n, n < bs.length → bs[n]? = some (readByte u.hostMem (buf + n))) ∧
        ∀ a, a < buf ∨ buf + bs.length ≤ a → readByte u.hostMem a = readByte s.hostMem a) := by
  unfold State.writeTable
  by_cases h : size < bs.length
  · rw [if_pos h, if_pos h]
    exact ⟨s, s.endCommand_ends rSmall, fun _ => rfl, fun h' => absurd h (Nat.not_lt.mpr h')⟩
  · rw [if_neg h, if_neg h]
    exact ⟨s.hostWrite buf bs, State.endCommand_ends _ rDone, fun h' => absurd h' h, fun _ => ⟨rfl, s.hostWrite_reads buf bs⟩⟩

/-- Whether a unit lies in a run. -/
def CapRun.has (r : CapRun) (i : Nat) : Prop := r.first ≤ i ∧ i < r.first + r.count

/-- The runs of a type, newest first, over the units below n: each unit stands in a run, a run holds units of its owner alone,
and the runs fall. -/
structure RunsBelow (s : State) (type n : Nat) (l : List CapRun) : Prop where
  types : ∀ r ∈ l, r.type = type
  units : ∀ r ∈ l, ∀ i, r.has i → s.capUnit type i = some (r.owner, r.fenced)
  all : ∀ i x, i < n → s.capUnit type i = some x → ∃ r ∈ l, r.has i
  ends : ∀ r ∈ l, r.first + r.count ≤ n
  falling : l.Pairwise (fun r r' => r'.first + r'.count ≤ r.first)

theorem RunsBelow.nil (s : State) (type : Nat) : RunsBelow s type 0 [] :=
  ⟨by simp, by simp, fun _ _ h => absurd h (Nat.not_lt_zero _), by simp, List.Pairwise.nil⟩

/-- A unit that is not there leaves the runs. -/
theorem RunsBelow.skip {s : State} {type n : Nat} {l : List CapRun} (h : RunsBelow s type n l) (hn : s.capUnit type n = none) :
    RunsBelow s type (n + 1) l := by
  refine ⟨h.types, h.units, fun i x hi hx => ?_, fun r hr => Nat.le_succ_of_le (h.ends r hr), h.falling⟩
  have hne : i ≠ n := fun e => by simp [e, hn] at hx
  exact h.all i x (by omega) hx

/-- A unit that is there begins a run. -/
theorem RunsBelow.begin {s : State} {type n : Nat} {l : List CapRun} {x : Nat × Bool} (h : RunsBelow s type n l)
    (hn : s.capUnit type n = some x) : RunsBelow s type (n + 1) (⟨type, n, 1, x.1, x.2⟩ :: l) := by
  have hx : ∀ i, CapRun.has ⟨type, n, 1, x.1, x.2⟩ i → i = n := fun i ⟨h1, h2⟩ => by dsimp only at h1 h2; omega
  refine ⟨?_, ?_, fun i y hi hy => ?_, ?_, List.pairwise_cons.mpr ⟨h.ends, h.falling⟩⟩
  · exact List.forall_mem_cons.mpr ⟨rfl, h.types⟩
  · exact List.forall_mem_cons.mpr ⟨fun i hi => hx i hi ▸ hn, h.units⟩
  · by_cases e : i = n
    · exact ⟨_, List.mem_cons_self, Nat.le_of_eq e.symm, by dsimp only; omega⟩
    · obtain ⟨r, hr, hi⟩ := h.all i y (by omega) hy
      exact ⟨r, List.mem_cons_of_mem _ hr, hi⟩
  · exact List.forall_mem_cons.mpr ⟨Nat.le_refl _, fun r hr => Nat.le_succ_of_le (h.ends r hr)⟩

/-- A unit that is there joins the last run, where that ends before it and has the same owner. -/
theorem RunsBelow.join {s : State} {type n : Nat} {r : CapRun} {l : List CapRun} (h : RunsBelow s type n (r :: l))
    (hn : s.capUnit type n = some (r.owner, r.fenced)) (he : r.first + r.count = n) :
    RunsBelow s type (n + 1) ({ r with count := r.count + 1 } :: l) := by
  obtain ⟨htype, htypes⟩ := List.forall_mem_cons.mp h.types
  obtain ⟨hunit, hunits⟩ := List.forall_mem_cons.mp h.units
  obtain ⟨-, hends⟩ := List.forall_mem_cons.mp h.ends
  obtain ⟨hfall, hfalling⟩ := List.pairwise_cons.mp h.falling
  have hlast : ∀ i, CapRun.has { r with count := r.count + 1 } i ↔ r.has i ∨ i = n := fun i => by
    simp only [CapRun.has]
    omega
  refine ⟨?_, ?_, fun i y hi hy => ?_, ?_, List.pairwise_cons.mpr ⟨hfall, hfalling⟩⟩
  · exact List.forall_mem_cons.mpr ⟨htype, htypes⟩
  · refine List.forall_mem_cons.mpr ⟨fun i hi => ?_, hunits⟩
    rcases (hlast i).mp hi with hi | rfl
    · exact hunit i hi
    · exact hn
  · by_cases e : i = n
    · exact ⟨_, List.mem_cons_self, (hlast i).mpr (.inr e)⟩
    · obtain ⟨r', hr', hi'⟩ := h.all i y (by omega) hy
      rcases List.mem_cons.mp hr' with rfl | hr'
      · exact ⟨_, List.mem_cons_self, (hlast i).mpr (.inl hi')⟩
      · exact ⟨r', List.mem_cons_of_mem _ hr', hi'⟩
  · exact List.forall_mem_cons.mpr ⟨by dsimp only; omega, fun r' hr' => Nat.le_succ_of_le (hends r' hr')⟩

theorem RunsBelow.addUnit {s : State} {type n : Nat} {l : List CapRun} {x : Nat × Bool} (h : RunsBelow s type n l)
    (hn : s.capUnit type n = some x) : RunsBelow s type (n + 1) (addUnit type n x l) := by
  cases l with
  | nil => exact h.begin hn
  | cons r l =>
    by_cases hj : r.first + r.count = n ∧ r.owner = x.1 ∧ r.fenced = x.2
    · obtain ⟨he, ho, hf⟩ := hj
      rw [Machine.addUnit, if_pos ⟨he, ho, hf⟩]
      exact h.join (by rw [hn, ho, hf]) he
    · rw [Machine.addUnit, if_neg hj]
      exact h.begin hn

theorem State.runsBelow_capRuns (s : State) (type : Nat) : RunsBelow s type (capCount type) (s.capRuns type).reverse := by
  unfold State.capRuns
  rw [List.reverse_reverse]
  induction capCount type with
  | zero => exact RunsBelow.nil s type
  | succ n ih =>
    rw [List.range_succ, List.foldl_append, List.foldl_cons, List.foldl_nil]
    cases hn : s.capUnit type n with
    | none => exact ih.skip hn
    | some x => exact ih.addUnit hn

/-- Of runs that fall, no two hold one unit. -/
theorem CapRun.unique_of_falling {l : List CapRun} (h : l.Pairwise (fun r r' => r'.first + r'.count ≤ r.first)) {r r' : CapRun}
    (hr : r ∈ l) (hr' : r' ∈ l) {i : Nat} (hi : r.has i) (hi' : r'.has i) : r = r' := by
  have hapart : ∀ {x y : CapRun}, x.has i → y.has i → ¬y.first + y.count ≤ x.first := fun hx hy h =>
    Nat.not_lt.mpr (Nat.le_trans h hx.1) hy.2
  induction l with
  | nil => exact absurd hr List.not_mem_nil
  | cons x l ih =>
    obtain ⟨hx, hl⟩ := List.pairwise_cons.mp h
    cases List.mem_cons.mp hr with
    | inl h1 =>
      cases List.mem_cons.mp hr' with
      | inl h2 => exact h1.trans h2.symm
      | inr h2 => exact absurd (hx r' h2) (hapart (h1 ▸ hi) hi')
    | inr h1 =>
      cases List.mem_cons.mp hr' with
      | inl h2 => exact absurd (hx r h1) (hapart (h2 ▸ hi') hi)
      | inr h2 => exact ih hl h1 h2

/-- No two runs hold one unit. -/
theorem RunsBelow.unique {s : State} {type n : Nat} {l : List CapRun} (h : RunsBelow s type n l) {r r' : CapRun} (hr : r ∈ l)
    (hr' : r' ∈ l) {i : Nat} (hi : r.has i) (hi' : r'.has i) : r = r' :=
  CapRun.unique_of_falling h.falling hr hr' hi hi'

theorem tables : Claims.Tables := by
  refine ⟨fun s i buf size bs h => ?_, fun s ty i x _ _ hi hx => ?_, fun s ty i r hr h1 h2 => ?_⟩
  · obtain ⟨u, hu⟩ := writeTable_writes s buf size bs
    refine ⟨_, u, ?_, hu⟩
    rcases h with ⟨rfl, hc, rfl⟩ | ⟨rfl, hc, rfl⟩ <;> exact State.withCommand_of_some _ hc
  · have hruns := s.runsBelow_capRuns ty
    obtain ⟨r, hr, hhas⟩ := hruns.all i x hi hx
    obtain ⟨ho, hf⟩ := Prod.mk.inj (Option.some.inj ((hruns.units r hr i hhas).symm.trans hx))
    refine ⟨r, List.mem_reverse.mp hr, ⟨hhas.1, hhas.2, hruns.types r hr, ho, hf⟩, fun r' hr' h1 h2 => ?_⟩
    exact hruns.unique (List.mem_reverse.mpr hr') hr ⟨h1, h2⟩ hhas
  · have hruns := s.runsBelow_capRuns ty
    have hr' := List.mem_reverse.mpr hr
    exact ⟨Nat.lt_of_lt_of_le h2 (hruns.ends r hr'), hruns.units r hr' i ⟨h1, h2⟩⟩

/-! Partitions (R17, R355). -/

theorem pcreate_creates (s : State) (part : Nat) (r : Resources) (h : s.mgmt.cmd = some (.pcreate part r)) :
    let code := if 64 ≤ part ∨ Resources.granular r = false then 3 else if s.namesFenced r = true then 5
      else if (find? part s.mgmt.partitions).isSome = true ∨ s.allFree r = false then 2 else 0
    ∃ t u, exec .pcreate s = .next t ∧ CommandEnds u t code ∧
      u = (if code = 0 then { s with mgmt := { s.mgmt with partitions := put part r s.mgmt.partitions } } else s) := by
  intro code
  refine ⟨_, _, ?_, State.endCommand_ends _ _, rfl⟩
  refine (State.withCommand_of_some _ h).trans (congrArg _ ?_)
  simp only [code, Bool.or_eq_true, Bool.not_eq_true']
  split
  · rfl
  split
  · rfl
  split <;> rfl

theorem State.trimLines_spec (s : State) (r : Resources) :
    s.trimLines r = { s with l2 := (s.trimLines r).l2 } ∧ ∀ x ∈ (s.trimLines r).l2, x ∈ s.l2 :=
  ⟨rfl, fun _ hx => (List.mem_filter.mp hx).1⟩

/-- The state after a partition has taken its new resources: where it loses ways, lines go. -/
def State.resized (s : State) (part : Nat) (new less : Resources) : State :=
  let v := if less.ways.isEmpty then s else s.trimLines new
  { v with mgmt := { s.mgmt with partitions := put part new s.mgmt.partitions } }

theorem State.resized_spec (s : State) (part : Nat) (new less : Resources) : let u := s.resized part new less
    u = { s with l2 := u.l2, mgmt := { s.mgmt with partitions := put part new s.mgmt.partitions } } ∧
      (less.ways = [] → u.l2 = s.l2) ∧ ∀ x ∈ u.l2, x ∈ s.l2 := by
  unfold State.resized
  cases hw : less.ways with
  | nil => exact ⟨rfl, fun _ => rfl, fun _ => id⟩
  | cons w l => exact ⟨rfl, nofun, (s.trimLines_spec new).2⟩

theorem presize_resizes (s : State) (part : Nat) (more less : Resources) (h : s.mgmt.cmd = some (.presize part more less)) :
    (find? part s.mgmt.partitions = none → ∃ t, exec .presize s = .next t ∧ CommandEnds s t 3) ∧
    ∀ r, find? part s.mgmt.partitions = some r → let new := Resources.change r more less
      let code := if Resources.granular new = false ∨ Resources.covers r less = false then 3 else if s.namesFenced more = true then 5
        else if s.allFree more = false then 2 else if s.partInUse part less = true then 1 else 0
      ∃ t u, exec .presize s = .next t ∧ CommandEnds u t code ∧
        u = (if code = 0 then { s with l2 := u.l2, mgmt := { s.mgmt with partitions := put part new s.mgmt.partitions } } else s) ∧
        (less.ways = [] → u.l2 = s.l2) ∧ ∀ x ∈ u.l2, x ∈ s.l2 := by
  have e : exec .presize s = _ := State.withCommand_of_some _ h
  dsimp only at e
  refine ⟨fun hp => ?_, fun r hp => ?_⟩
  · rw [hp] at e
    exact ⟨_, e, s.endCommand_ends 3⟩
  intro new code
  rw [hp] at e
  have hcode : exec .presize s = .next ((if code = 0 then s.resized part new less else s).endCommand code) := by
    rw [e]
    simp only [code, Bool.not_eq_true']
    split
    · rfl
    split
    · rfl
    split
    · rfl
    split
    · rfl
    · unfold State.resized
      split <;> rfl
  refine ⟨_, _, hcode, State.endCommand_ends _ _, ?_⟩
  by_cases h0 : code = 0
  · simp only [if_pos h0]
    exact s.resized_spec part new less
  · simp only [if_neg h0]
    exact ⟨trivial, fun _ => trivial, fun _ => id⟩

/-! The end of a partition (R333, R339, R355). -/

/-- From s to t no context but one has changed, and of management only widths and deferred changes. -/
structure ChangesCtx (ctx : Nat) (s t : State) : Prop where
  mgmt : t.mgmt = { s.mgmt with widths := t.mgmt.widths, deferred := t.mgmt.deferred }
  mem : ∀ e ∈ t.contexts, e.1 ≠ ctx → e ∈ s.contexts
  find : ∀ k, k ≠ ctx → find? k t.contexts = find? k s.contexts

namespace ChangesCtx

variable {ctx : Nat} {s t u : State}

theorem of_contexts (hm : t.mgmt = { s.mgmt with widths := t.mgmt.widths, deferred := t.mgmt.deferred })
    (hc : t.contexts = s.contexts) : ChangesCtx ctx s t :=
  ⟨hm, fun _ he _ => hc ▸ he, fun _ _ => by rw [hc]⟩

theorem refl (s : State) : ChangesCtx ctx s s := of_contexts rfl rfl

theorem trans (h : ChangesCtx ctx s t) (h' : ChangesCtx ctx t u) : ChangesCtx ctx s u :=
  ⟨by rw [h'.mgmt, h.mgmt], fun e he hne => h.mem e (h'.mem e he hne) hne, fun k hk => (h'.find k hk).trans (h.find k hk)⟩

theorem foldl {α : Type} {f : State → α → State} (h : ∀ s a, ChangesCtx ctx s (f s a)) (l : List α) (s : State) :
    ChangesCtx ctx s (l.foldl f s) := by
  induction l generalizing s with
  | nil => exact refl s
  | cons a r ih => exact (h s a).trans (ih (f s a))

theorem foldl_fst {α : Type} {f : State × Bool → α → State × Bool} (h : ∀ p a, ChangesCtx ctx p.1 (f p a).1) (l : List α)
    (p : State × Bool) : ChangesCtx ctx p.1 (l.foldl f p).1 := by
  induction l generalizing p with
  | nil => exact refl p.1
  | cons a r ih => exact (h p a).trans (ih (f p a))

theorem modCtxAt (s : State) (g : Context → Context) : ChangesCtx ctx s (s.modCtxAt ctx g) :=
  ⟨rfl, fun e he hne => (mem_put ctx _ _ e he).resolve_left fun h => hne (h ▸ rfl), fun _ hk => find?_put_ne hk _ _⟩

end ChangesCtx

/-! What the cancelling of a queue touches. -/

section
variable (s : State) (ctx : Nat)

theorem State.changesCtx_meterCount (res n : Nat) : ChangesCtx ctx s (s.meterCount ctx res n) := by
  unfold State.meterCount
  dsimp only
  split
  · exact ChangesCtx.refl s
  · exact ChangesCtx.modCtxAt s _

theorem State.changesCtx_countAll (costs : List (Nat × Nat)) : ChangesCtx ctx s (s.countAll ctx costs) :=
  ChangesCtx.foldl (f := fun (s : State) x => s.meterCount ctx x.1 x.2) (fun u x => u.changesCtx_meterCount ctx x.1 x.2) costs s

theorem State.changesCtx_devWrite (key a : Nat) (b : Byte) : ChangesCtx ctx s (s.devWrite key a b) := by
  unfold State.devWrite
  dsimp only
  split <;> exact ChangesCtx.of_contexts rfl rfl

variable {s ctx} in
theorem State.changesCtx_writeVa {va : Nat} {bs : List Byte} {t : State} (h : s.writeVa ctx va bs = some t) :
    ChangesCtx ctx s t := by
  induction bs generalizing s va with
  | nil => exact Option.some.inj h ▸ ChangesCtx.refl _
  | cons b r ih =>
    rw [State.writeVa] at h
    split at h
    · split at h
      · exact (s.changesCtx_devWrite ctx _ _ b).trans (ih h)
      · cases h
    · cases h

variable {s ctx} in
theorem State.changesCtx_writeOut {va : Nat} {bs : List Byte} {t : State} (h : s.writeOut ctx va bs = some t) :
    ChangesCtx ctx s t := by
  unfold State.writeOut at h
  dsimp only at h
  split at h
  · obtain ⟨u, hu, rfl⟩ := Option.map_eq_some_iff.mp h
    exact (State.changesCtx_writeVa hu).trans (u.changesCtx_countAll ctx _)
  · cases h

theorem State.changesCtx_signalVector (v : Option Nat) : ChangesCtx ctx s (s.signalVector ctx v) := by
  cases v <;> exact ChangesCtx.of_contexts rfl rfl

theorem State.changesCtx_finishGraph (q status node : Nat) (fault : List Word) :
    ChangesCtx ctx s (s.finishGraph ctx q status node fault) := by
  unfold State.finishGraph
  dsimp only
  split
  · exact ChangesCtx.refl s
  · split
    next u hu => exact ((State.changesCtx_writeOut hu).trans (ChangesCtx.modCtxAt u _)).trans (State.changesCtx_signalVector _ ctx _)
    next => exact ChangesCtx.modCtxAt s _

variable {s ctx} in
theorem State.changesCtx_putRecord {r : Ring} {rec : List Byte} {t : State} (h : s.putRecord ctx r rec = some t) :
    ChangesCtx ctx s t := by
  unfold State.putRecord at h
  obtain ⟨u, hu, h⟩ := Option.bind_eq_some_iff.mp h
  obtain ⟨w, hw, rfl⟩ := Option.map_eq_some_iff.mp h
  refine (State.changesCtx_writeOut hu).trans (ChangesCtx.trans ?_ (w.changesCtx_signalVector ctx _))
  unfold State.writeProd at hw
  dsimp only at hw
  split at hw
  · exact (ChangesCtx.modCtxAt u _).trans (State.changesCtx_writeOut hw)
  · cases hw
    exact ChangesCtx.modCtxAt u _

theorem State.changesCtx_writeRecord (rec : List Byte) (q : Option Nat) : ChangesCtx ctx s (s.writeRecord ctx rec q).1 := by
  unfold State.writeRecord
  split
  · exact ChangesCtx.refl s
  · dsimp only
    split
    next t ht =>
      split at ht
      · cases ht
      · exact State.changesCtx_putRecord ht
    next => exact ChangesCtx.modCtxAt (ctx := ctx) s (fun c => { c with ring := some _ })

theorem State.changesCtx_applyChange (r : LinkRequest) : ChangesCtx ctx s (s.applyChange r) := by
  cases r with
  | width link w => exact ChangesCtx.of_contexts rfl rfl
  | clock die point =>
    refine ChangesCtx.trans (t := s.keepEstimates) ?_ (ChangesCtx.of_contexts rfl rfl)
    refine ChangesCtx.foldl ?_ _ s
    exact fun _ _ => ChangesCtx.of_contexts rfl rfl

theorem State.changesCtx_applyChanges (l : List LinkRequest) : ChangesCtx ctx s (s.applyChanges l) :=
  (ChangesCtx.foldl (fun u r => u.changesCtx_applyChange ctx r) _ s).trans (ChangesCtx.of_contexts rfl rfl)

theorem State.changesCtx_cancelLaunch (launch : Nat) : ChangesCtx ctx s (s.cancelLaunch launch) := by
  refine ChangesCtx.foldl ?_ _ s
  exact fun _ _ => ChangesCtx.of_contexts rfl rfl

theorem State.changesCtx_dropPhase (phase : Nat) : ChangesCtx ctx s (s.dropPhase phase) := by
  have h1 := ChangesCtx.foldl (ctx := ctx) (f := fun (s : State) (l : Nat × Launch) => s.dropLandings (s.allocation l.2.ctx l.2.die))
    (fun _ _ => ChangesCtx.of_contexts rfl rfl) ((s.launchesOf phase).filter (fun l => l.2.timed)) s
  have h2 := fun u => ChangesCtx.foldl (ctx := ctx) (f := fun (s : State) (p : Nat × Launch) => s.modDieAt p.2.die (fun d =>
      { d with pointer := drop p.1 d.pointer, waiting := d.waiting.filter (· != 4 * p.2.ctx + p.2.cls) }))
    (fun _ _ => ChangesCtx.of_contexts rfl rfl) (s.launchesOf phase) u
  refine ChangesCtx.trans ?_ (State.changesCtx_applyChanges _ ctx _)
  exact (h1.trans (h2 _)).trans (ChangesCtx.of_contexts rfl rfl)

theorem State.changesCtx_cancelPhase (phase : Nat) : ChangesCtx ctx s (s.cancelPhase phase) := by
  have h := ChangesCtx.foldl (f := fun (s : State) (p : Nat × Launch) => s.cancelLaunch p.1)
    (fun u p => u.changesCtx_cancelLaunch ctx p.1) (s.launchesOf phase) s
  exact h.trans (State.changesCtx_dropPhase _ ctx phase)

/-- The copies of a queue are cancelled: each gets a record of a cancelled copy. -/
def State.cancelCopies (q : Nat) : State × Bool :=
  (s.fe.transfers.filter (fun t => t.ctx == ctx && t.q == some q)).foldl (fun (p : State × Bool) t =>
      let r := p.1.writeRecord ctx (completionRecord 2 0 t.moved t.tag) (some q)
      (r.1, p.2 || r.2))
    ({ s with fe := { s.fe with transfers := s.fe.transfers.filter (fun t => !(t.ctx == ctx && t.q == some q)) } }, false)

theorem State.changesCtx_cancelCopies (q : Nat) : ChangesCtx ctx s (s.cancelCopies ctx q).1 := by
  unfold State.cancelCopies
  refine ChangesCtx.trans ?_ (ChangesCtx.foldl_fst ?_ _ _)
  · exact ChangesCtx.of_contexts rfl rfl
  · exact fun p x => p.1.changesCtx_writeRecord ctx _ _

theorem State.changesCtx_cancelNode (q : Nat) : ChangesCtx ctx s (s.cancelNode ctx q).1 := by
  unfold State.cancelNode
  split
  · exact ChangesCtx.refl s
  · split
    · exact s.changesCtx_cancelPhase ctx _
    · exact s.changesCtx_cancelCopies ctx q
    · exact ChangesCtx.refl s
    · exact ChangesCtx.refl s

theorem State.changesCtx_cancelRun (q : Nat) : ChangesCtx ctx s (s.cancelRun ctx q) := by
  have hn := s.changesCtx_cancelNode ctx q
  unfold State.cancelRun
  split
  · exact ChangesCtx.refl s
  · split
    · exact ChangesCtx.refl s
    · split
      next u hu =>
        rw [hu] at hn
        exact hn.trans (ChangesCtx.modCtxAt u _)
      next u hu =>
        rw [hu] at hn
        exact hn.trans (u.changesCtx_finishGraph ctx _ _ _ _)

theorem State.changesCtx_cancelQueue (q : Nat) : ChangesCtx ctx s (s.cancelQueue ctx q) := by
  unfold State.cancelQueue
  dsimp only
  split
  · exact (s.changesCtx_cancelRun ctx q).trans (ChangesCtx.modCtxAt _ _)
  · exact s.changesCtx_cancelRun ctx q

end

/-! Destroying a context. -/

/-- No queue of a context runs a graph. -/
def State.noRuns (s : State) (ctx : Nat) : Prop := ∀ x ∈ (s.ctxAt ctx).queues, x.2.run = none

theorem State.noRuns_congr {s t : State} {ctx : Nat} (h : find? ctx t.contexts = find? ctx s.contexts) (hr : s.noRuns ctx) :
    t.noRuns ctx := by
  have hc : t.ctxAt ctx = s.ctxAt ctx := by simp only [State.ctxAt, Machine.find, h]
  unfold State.noRuns
  rwa [hc]

/-- A context without runs has none after its queues are cancelled. -/
theorem State.noRuns_cancelQueue {s : State} {ctx : Nat} (q : Nat) (h : s.noRuns ctx) : (s.cancelQueue ctx q).noRuns ctx := by
  have hq : (s.queueAt ctx q).run = none := by
    unfold State.queueAt Machine.find
    cases hf : find? q (s.ctxAt ctx).queues with
    | none => rfl
    | some x => exact h _ (mem_of_find? hf)
  have hrun : s.cancelRun ctx q = s := by simp only [State.cancelRun, hq]
  unfold State.cancelQueue
  rw [hrun]
  dsimp only
  split
  · intro x hx
    rw [State.setQueue, State.ctxAt_modCtxAt] at hx
    rcases mem_put q _ _ x hx with rfl | hx
    · exact hq
    · exact h x hx
  · exact h

theorem State.recordsWait_of_noRuns {s : State} {ctx : Nat} (h : s.noRuns ctx) : s.recordsWait ctx = false := by
  refine List.any_eq_false.mpr fun x hx => ?_
  rw [h x hx]
  exact Bool.false_ne_true

/-- From s to t a context is destroyed, or is leaving until its records are written. -/
structure Destroys (ctx : Nat) (s t : State) : Prop where
  partitions : t.mgmt.partitions = s.mgmt.partitions
  command : t.mgmt.cmd = s.mgmt.cmd ∧ t.mgmt.busy = s.mgmt.busy
  mem : ∀ e ∈ t.contexts, e.1 ≠ ctx → e ∈ s.contexts
  find : ∀ k, k ≠ ctx → find? k t.contexts = find? k s.contexts
  leaves : ∀ e ∈ t.contexts, e.1 = ctx → ctx ∈ t.mgmt.leaving
  leaving : ∀ k, k ≠ ctx → k ∈ s.mgmt.leaving → k ∈ t.mgmt.leaving
  gone : s.noRuns ctx → ∀ e ∈ t.contexts, e.1 ≠ ctx

/-- A context that is leaving. -/
theorem Destroys.of_leaving {ctx : Nat} {s t : State} (h : ChangesCtx ctx s t) (hr : ¬s.noRuns ctx) :
    Destroys ctx s { t with mgmt := { t.mgmt with leaving := ctx :: t.mgmt.leaving.filter (· != ctx) } } where
  partitions := by rw [h.mgmt]
  command := by rw [h.mgmt]; exact ⟨rfl, rfl⟩
  mem := h.mem
  find := h.find
  leaves := fun _ _ _ => List.mem_cons_self
  leaving := fun k hk hl => by
    rw [h.mgmt]
    exact List.mem_cons_of_mem _ (List.mem_filter.mpr ⟨hl, bne_iff_ne.mpr hk⟩)
  gone := fun hn => absurd hn hr

/-- A context that is taken away. -/
theorem Destroys.of_removed {ctx : Nat} {s t : State} (h : ChangesCtx ctx s t) : Destroys ctx s (t.removeContext ctx) where
  partitions := by
    show t.mgmt.partitions = _
    rw [h.mgmt]
  command := by
    show t.mgmt.cmd = _ ∧ t.mgmt.busy = _
    rw [h.mgmt]
    exact ⟨rfl, rfl⟩
  mem := fun e he hne => h.mem e (List.mem_filter.mp he).1 hne
  find := fun k hk => (find?_drop_ne hk _).trans (h.find k hk)
  leaves := fun e he hc => absurd hc (bne_iff_ne.mp (List.mem_filter.mp he).2)
  leaving := fun k hk hl => by
    show k ∈ t.mgmt.leaving.filter (· != ctx)
    rw [h.mgmt]
    exact List.mem_filter.mpr ⟨hl, bne_iff_ne.mpr hk⟩
  gone := fun _ e he => bne_iff_ne.mp (List.mem_filter.mp he).2

/-- A context without runs is gone: no queue of it has one. -/
theorem Destroys.noRuns {ctx : Nat} {s t : State} (h : Destroys ctx s t) (hn : s.noRuns ctx) : t.noRuns ctx := by
  have hf : find? ctx t.contexts = none := by
    cases hf : find? ctx t.contexts with
    | none => rfl
    | some c => exact absurd rfl (h.gone hn _ (mem_of_find? hf))
  have hc : t.ctxAt ctx = Context.none := by simp only [State.ctxAt, Machine.find, hf, Option.getD_none]
  unfold State.noRuns
  rw [hc]
  exact fun _ hx => absurd hx List.not_mem_nil

/-- The queues of a context are cancelled. -/
def State.cancelQueues (s : State) (ctx : Nat) : State := (List.range 4).foldl (fun (s : State) q => s.cancelQueue ctx q) s

theorem State.changesCtx_cancelQueues (s : State) (ctx : Nat) : ChangesCtx ctx s (s.cancelQueues ctx) :=
  ChangesCtx.foldl (f := fun (s : State) q => s.cancelQueue ctx q) (fun u q => u.changesCtx_cancelQueue ctx q) (List.range 4) s

theorem State.noRuns_cancelQueues {s : State} {ctx : Nat} (h : s.noRuns ctx) : (s.cancelQueues ctx).noRuns ctx :=
  List.foldlRecOn (motive := fun u : State => u.noRuns ctx) (List.range 4) (fun (s : State) q => s.cancelQueue ctx q) h
    (fun _ hu q _ => State.noRuns_cancelQueue q hu)

theorem State.destroyContext_eq (s : State) (ctx : Nat) : s.destroyContext ctx =
    if !s.hasCtx ctx then s
    else if (s.cancelQueues ctx).recordsWait ctx then
      { s.cancelQueues ctx with mgmt := { (s.cancelQueues ctx).mgmt with
        leaving := ctx :: (s.cancelQueues ctx).mgmt.leaving.filter (· != ctx) } }
    else (s.cancelQueues ctx).removeContext ctx := by
  unfold State.destroyContext State.cancelQueues
  rfl

theorem State.destroys_destroyContext (s : State) (ctx : Nat) : Destroys ctx s (s.destroyContext ctx) := by
  rw [State.destroyContext_eq]
  split
  next hc =>
    have hnone : ∀ e ∈ s.contexts, e.1 ≠ ctx := fun e he h => by
      rw [State.hasCtx, ← h, find?_isSome_of_mem he] at hc
      cases hc
    exact ⟨rfl, ⟨rfl, rfl⟩, fun _ he _ => he, fun _ _ => rfl, fun e he h => absurd h (hnone e he), fun _ _ => id, fun _ => hnone⟩
  next =>
    split
    next hw =>
      refine Destroys.of_leaving (s.changesCtx_cancelQueues ctx) fun hn => ?_
      rw [State.recordsWait_of_noRuns (State.noRuns_cancelQueues hn)] at hw
      cases hw
    next => exact Destroys.of_removed (s.changesCtx_cancelQueues ctx)

/-- All the contexts of a list are destroyed in turn. -/
theorem State.destroys_foldl (l : List (Nat × Context)) (s : State) :
    let t := l.foldl (fun (s : State) p => s.destroyContext p.1) s
    t.mgmt.partitions = s.mgmt.partitions ∧ (t.mgmt.cmd = s.mgmt.cmd ∧ t.mgmt.busy = s.mgmt.busy) ∧
    (∀ e ∈ t.contexts, (∀ p ∈ l, e.1 ≠ p.1) → e ∈ s.contexts) ∧
    (∀ k, (∀ p ∈ l, k ≠ p.1) → find? k t.contexts = find? k s.contexts) ∧
    (∀ e ∈ t.contexts, (∃ p ∈ l, e.1 = p.1) → e.1 ∈ t.mgmt.leaving) ∧
    (∀ k, (∀ p ∈ l, k ≠ p.1) → k ∈ s.mgmt.leaving → k ∈ t.mgmt.leaving) ∧
    ((∀ p ∈ l, s.noRuns p.1) → ∀ e ∈ t.contexts, ∀ p ∈ l, e.1 ≠ p.1) := by
  induction l generalizing s with
  | nil => exact ⟨rfl, ⟨rfl, rfl⟩, fun _ he _ => he, fun _ _ => rfl, by simp, fun _ _ => id, by simp⟩
  | cons p r ih =>
    have hd := s.destroys_destroyContext p.1
    obtain ⟨hpart, hcmd, hmem, hfind, hleaves, hleaving, hgone⟩ := ih (s.destroyContext p.1)
    simp only [List.forall_mem_cons, List.foldl_cons]
    refine ⟨hpart.trans hd.partitions, ⟨hcmd.1.trans hd.command.1, hcmd.2.trans hd.command.2⟩, ?_, ?_, ?_, ?_, ?_⟩
    · exact fun e he h => hd.mem e (hmem e he h.2) h.1
    · exact fun k h => (hfind k h.2).trans (hd.find k h.1)
    · intro e he h
      by_cases hr : ∃ x ∈ r, e.1 = x.1
      · exact hleaves e he hr
      · have hr' : ∀ x ∈ r, e.1 ≠ x.1 := fun x hx h => hr ⟨x, hx, h⟩
        have hp : e.1 = p.1 := by
          obtain ⟨x, hx, hex⟩ := h
          rcases List.mem_cons.mp hx with rfl | hx
          · exact hex
          · exact absurd ⟨x, hx, hex⟩ hr
        exact hleaving e.1 hr' (hp ▸ hd.leaves e (hmem e he hr') hp)
    · exact fun k h hl => hleaving k h.2 (hd.leaving k h.1 hl)
    · intro hn e he
      have hr := hgone (fun x hx => ?_) e he
      · exact ⟨hd.gone hn.1 e (hmem e he hr), hr⟩
      · by_cases hx' : x.1 = p.1
        · exact hx' ▸ hd.noRuns hn.1
        · exact State.noRuns_congr (hd.find _ hx') (hn.2 x hx)

/-- The state after each context of a partition is destroyed, or is leaving. -/
def State.destroyPartContexts (s : State) (part : Nat) : State :=
  (s.ctxsOf part).foldl (fun (s : State) p => s.destroyContext p.1) s

theorem State.mem_ctxsOf {s : State} {part : Nat} {e : Nat × Context} : e ∈ s.ctxsOf part ↔ e ∈ s.contexts ∧ e.2.part = part := by
  simp [State.ctxsOf]

/-- A partition's contexts that are still there are leaving. -/
theorem State.leaving_destroyPartContexts (s : State) (part : Nat) :
    ∀ e ∈ (s.destroyPartContexts part).ctxsOf part, e.1 ∈ (s.destroyPartContexts part).mgmt.leaving := by
  obtain ⟨-, -, hmem, -, hleaves, -, -⟩ := State.destroys_foldl (s.ctxsOf part) s
  intro e he
  obtain ⟨he, hp⟩ := State.mem_ctxsOf.mp he
  by_cases hex : ∃ p ∈ s.ctxsOf part, e.1 = p.1
  · exact hleaves e he hex
  · have hno : ∀ p ∈ s.ctxsOf part, e.1 ≠ p.1 := fun p hp h => hex ⟨p, hp, h⟩
    exact absurd rfl (hno e (State.mem_ctxsOf.mpr ⟨hmem e he hno, hp⟩))

/-- Without a graph that runs, the contexts of the partition go at once, and the others stay. -/
theorem State.destroyPartContexts_all {s : State} {part : Nat}
    (h : ∀ e ∈ s.contexts, e.2.part = part → ∀ x ∈ (s.ctxAt e.1).queues, x.2.run = none) :
    (s.destroyPartContexts part).ctxsOf part = [] ∧ ∀ k c, find? k s.contexts = some c →
      (c.part = part → find? k (s.destroyPartContexts part).contexts = none) ∧
      ((∀ e ∈ s.contexts, e.1 = k → e.2.part ≠ part) → find? k (s.destroyPartContexts part).contexts = some c) := by
  obtain ⟨-, -, hmem, hfind, -, -, hgone⟩ := State.destroys_foldl (s.ctxsOf part) s
  have hgone := hgone fun p hp => h p (State.mem_ctxsOf.mp hp).1 (State.mem_ctxsOf.mp hp).2
  refine ⟨List.eq_nil_iff_forall_not_mem.mpr fun e he => ?_, fun k c hk => ⟨fun hc => ?_, fun hno => ?_⟩⟩
  · obtain ⟨he, hp⟩ := State.mem_ctxsOf.mp he
    exact hgone e he e (State.mem_ctxsOf.mpr ⟨hmem e he (hgone e he), hp⟩) rfl
  · cases hf : find? k (s.destroyPartContexts part).contexts with
    | none => rfl
    | some c' => exact absurd rfl (hgone (k, c') (mem_of_find? hf) (k, c) (State.mem_ctxsOf.mpr ⟨mem_of_find? hk, hc⟩))
  · rw [← hk]
    exact hfind k fun p hp e => hno p (State.mem_ctxsOf.mp hp).1 e.symm (State.mem_ctxsOf.mp hp).2

theorem pdestroy_destroys (s : State) (part : Nat) (h : s.mgmt.cmd = some (.pdestroy part)) :
    (find? part s.mgmt.partitions = none → ∃ t, exec .pdestroy s = .next t ∧ CommandEnds s t 3) ∧
    ((find? part s.mgmt.partitions).isSome = true → ∃ t, exec .pdestroy s = .next t ∧
      (t.ctxsOf part = [] → t.mgmt.result = 0 ∧ t.mgmt.busy = false ∧ find? part t.mgmt.partitions = none ∧
        ∀ k, k ≠ part → find? k t.mgmt.partitions = find? k s.mgmt.partitions) ∧
      (t.ctxsOf part ≠ [] → t.mgmt.cmd = s.mgmt.cmd ∧ t.mgmt.busy = s.mgmt.busy ∧ t.mgmt.partitions = s.mgmt.partitions ∧
        ∀ e ∈ t.ctxsOf part, e.1 ∈ t.mgmt.leaving) ∧
      ((∀ e ∈ s.contexts, e.2.part = part → ∀ x ∈ (s.ctxAt e.1).queues, x.2.run = none) → t.ctxsOf part = [] ∧
        ∀ k c, find? k s.contexts = some c → (c.part = part → find? k t.contexts = none) ∧
          ((∀ e ∈ s.contexts, e.1 = k → e.2.part ≠ part) → find? k t.contexts = some c))) := by
  let u := s.destroyPartContexts part
  have e : exec .pdestroy s = .next (if (find? part s.mgmt.partitions).isNone then s.endCommand 3
      else if !(u.ctxsOf part).isEmpty then u
      else State.endCommand { u with mgmt := { u.mgmt with partitions := drop part u.mgmt.partitions } } 0) :=
    State.withCommand_of_some _ h
  obtain ⟨hparts, ⟨hcmd, hbusy⟩, -⟩ := State.destroys_foldl (s.ctxsOf part) s
  refine ⟨fun hp => ?_, fun hp => ?_⟩
  · rw [hp] at e
    exact ⟨_, e, s.endCommand_ends 3⟩
  obtain ⟨r, hr⟩ := Option.isSome_iff_exists.mp hp
  rw [hr, Option.isNone_some, if_neg Bool.false_ne_true] at e
  have hall : (∀ e ∈ s.contexts, e.2.part = part → ∀ x ∈ (s.ctxAt e.1).queues, x.2.run = none) → _ :=
    State.destroyPartContexts_all
  cases hu : u.ctxsOf part with
  | nil =>
    rw [hu] at e
    refine ⟨_, e, fun _ => ⟨rfl, rfl, find?_drop_same _ _, fun k hk => ?_⟩, fun hne => absurd hu hne, hall⟩
    exact (find?_drop_ne hk _).trans (congrArg (find? k) hparts)
  | cons x l =>
    rw [hu] at e
    refine ⟨u, e, fun h0 => ?_, fun _ => ⟨hcmd, hbusy, hparts, s.leaving_destroyPartContexts part⟩, hall⟩
    rw [hu] at h0
    cases h0

theorem partitionCommands : Claims.PartitionCommands := ⟨pcreate_creates, presize_resizes, pdestroy_destroys⟩

/-! Shares, meters, links and clocks (R329, R342, R345). -/

theorem share_sets (s : State) (ctx w : Nat) (h : s.mgmt.cmd = some (.share ctx w)) :
    let ok := s.hasCtx ctx = true ∧ 1 ≤ w ∧ w ≤ 255
    (ok → ∃ t, exec .share s = .next t ∧ CommandEnds (s.modCtxAt ctx (fun c => { c with share := w })) t 0) ∧
    (¬ok → ∃ t, exec .share s = .next t ∧ CommandEnds s t 3) := by
  intro ok
  have e : exec .share s = .next (if !s.hasCtx ctx || decide (w < 1) || decide (255 < w) then s.endCommand 3
      else (s.modCtxAt ctx (fun c => { c with share := w })).endCommand 0) := State.withCommand_of_some _ h
  have hok : (!s.hasCtx ctx || decide (w < 1) || decide (255 < w)) = true ↔ ¬ok := by
    simp only [ok]
    cases s.hasCtx ctx with
    | false => simp
    | true =>
      simp
      omega
  refine ⟨fun h1 => ?_, fun h1 => ?_⟩
  · rw [if_neg (fun h => hok.mp h h1)] at e
    exact exists_commandEnds e
  · rw [if_pos (hok.mpr h1)] at e
    exact exists_commandEnds e

theorem meter_sets (s : State) (ctx res rate burst : Nat) (h : s.mgmt.cmd = some (.meter ctx res rate burst)) :
    (s.hasCtx ctx = true → res < 6 → ∃ t u, exec .meter s = .next t ∧ CommandEnds u t 0 ∧ u.cores = s.cores ∧ s.sameMemory u ∧
      ∃ m, find? res (u.ctxAt ctx).meters = some m ∧ m.rate = rate ∧ m.burst = burst ∧
        m.tokens = (find Meter.off res (s.ctxAt ctx).meters).tokens ∧
        m.held = (find Meter.off res (s.ctxAt ctx).meters).held) ∧
    (s.hasCtx ctx = false ∨ 6 ≤ res → ∃ t, exec .meter s = .next t ∧ CommandEnds s t 3) := by
  let u := s.modCtxAt ctx (fun c =>
    { c with meters := put res { find Meter.off res c.meters with rate := rate, burst := burst } c.meters })
  have e : exec .meter s = .next (if !s.hasCtx ctx || decide (6 ≤ res) then s.endCommand 3 else u.endCommand 0) :=
    State.withCommand_of_some _ h
  refine ⟨fun hc hres => ?_, fun hbad => ?_⟩
  · rw [if_neg (by simp [hc, hres])] at e
    refine ⟨_, u, e, u.endCommand_ends 0, rfl, ⟨rfl, rfl, rfl, rfl, rfl⟩, ?_⟩
    rw [State.ctxAt_modCtxAt]
    exact ⟨_, find?_put_same _ _ _, rfl, rfl, rfl, rfl⟩
  · rw [if_pos (by simpa using hbad)] at e
    exact exists_commandEnds e

theorem linkw_asks (s : State) (link w : Nat) (h : s.mgmt.cmd = some (.linkw link w)) (hf : ∀ d, (s.dieAt d).fenced = false) :
    (link < 32 → 1 ≤ w → w ≤ 16 → ∃ t, exec .linkw s = .next t ∧
      CommandEnds { s with mgmt := { s.mgmt with requests := s.mgmt.requests ++ [.width link w] } } t 0) ∧
    (32 ≤ link ∨ w = 0 ∨ 16 < w → ∃ t, exec .linkw s = .next t ∧ CommandEnds s t 3) := by
  have e : exec .linkw s = _ := State.withCommand_of_some _ h
  dsimp only at e
  refine ⟨fun h1 h2 h3 => ?_, fun hbad => ?_⟩
  · rw [if_neg (by omega), if_neg (by simp [hf])] at e
    exact exists_commandEnds e
  · rw [if_pos hbad] at e
    exact exists_commandEnds e

theorem setclk_asks (s : State) (die point : Nat) (h : s.mgmt.cmd = some (.setclk die point)) :
    ∃ t u, exec .setclk s = .next t ∧
      let code := if 13 ≤ die then 3 else if (s.dieAt die).fenced = true then 5 else 0
      CommandEnds u t code ∧
        u = if code = 0 then { s with mgmt := { s.mgmt with requests := s.mgmt.requests ++ [.clock die point] } } else s := by
  refine ⟨_, _, ?_, State.endCommand_ends _ _, rfl⟩
  refine (State.withCommand_of_some _ h).trans (congrArg _ ?_)
  dsimp only
  split
  · rfl
  split <;> rfl

theorem settingCommands : Claims.SettingCommands := ⟨share_sets, meter_sets, linkw_asks, setclk_asks⟩

/-! Command blocks (R353). -/

/-- An opcode that stands in no row of R353 names no command. -/
theorem commandOf_unknown {bs : List Byte} (h : fieldAt bs 0 4 = 0 ∨ 9 < fieldAt bs 0 4) : commandOf bs = .other := by
  unfold commandOf
  dsimp only
  split
  case h_10 => rfl
  all_goals omega

/-- The resources that an entry of a kind adds its units to. -/
def Resources.addUnits (r : Resources) (kind : Nat) (units : List Nat) : Resources :=
  ⟨if kind = 1 then r.dies ++ units else r.dies, if kind = 2 then r.clusters ++ units else r.clusters,
    if kind = 3 then r.sets ++ units else r.sets, if kind = 4 then r.ways ++ units else r.ways,
    if kind = 5 then r.keys ++ units else r.keys, if kind = 7 then r.fabricPorts ++ units else r.fabricPorts,
    if kind = 8 then r.ethPorts ++ units else r.ethPorts⟩

/-- No entry names barrier tables, or what no type stands for. -/
theorem addEntry_eq (r : Resources) (e : List Byte) : addEntry r e =
    if fieldAt e 0 1 = 6 ∨ 8 < fieldAt e 0 1 then none else some (Resources.addUnits r (fieldAt e 0 1) (entryUnits e)) := by
  unfold addEntry
  dsimp only
  split
  case h_9 =>
    rw [if_pos]
    simp only [imp_false] at *
    omega
  all_goals
    next hk =>
      rw [hk]
      rfl

theorem commandBlocks : Claims.CommandBlocks := by
  intro bs op arg lists
  refine ⟨fun h => ?_, fun h => ?_, fun h => ?_, fun h => ?_, fun h => ?_, fun h => ?_, fun h => ?_, commandOf_unknown,
    fun r h hl => ?_, fun more less h hl => ?_, ?_⟩
  iterate 7
    · have h' : fieldAt bs 0 4 = _ := h
      simp only [commandOf, h']
      rfl
  · have h' : fieldAt bs 0 4 = 3 := h
    have hl' : resourceLists ((List.range 6).map (fun i => (bs.drop (16 + 8 * i)).take 8)) = _ := hl
    simp only [commandOf, h', hl', if_true]
    rfl
  · have h' : fieldAt bs 0 4 = 4 := h
    have hl' : resourceLists ((List.range 6).map (fun i => (bs.drop (16 + 8 * i)).take 8)) = _ := hl
    simp only [commandOf, h', hl']
    rfl
  · intro e rest p hp _ kind n first units into
    have hadd : ∀ r, addEntry r e = if kind = 6 ∨ 8 < kind then none else some (into r) := fun r => addEntry_eq r e
    rw [resourceLists, hp, Option.bind_some, hadd, hadd]
    by_cases hbad : kind = 6 ∨ 8 < kind
    · simp only [if_pos hbad, Option.map_none, ite_self]
    · simp only [if_neg hbad]
      rfl

/-! Register writes (R43, R207, R273, R338, R344, R353). -/

theorem Command.row_isNone_iff (c : Command) : c.row.isNone = true ↔ c = .other := by
  cases c <;> simp [Command.row]

/-- Bits 63 to 48 of an address of 48 bits are 0. -/
theorem bits_63_48_ne_zero (x : Word) : bits x 63 48 ≠ 0 ↔ 2 ^ 48 ≤ x.toNat := by
  have hx := x.isLt
  unfold bits
  rw [Nat.shiftRight_eq_div_pow]
  omega

/-- A 64-bit word put at place m of a word of firmware text stands there, and the other places keep what they held. -/
theorem extract_putWord (old : BitVec 256) (x : Word) {m i : Nat} (hi : i < 4) :
    ((old &&& ~~~((BitVec.ofNat 256 (2 ^ 64 - 1)) <<< (64 * m))) ||| (x.setWidth 256 <<< (64 * m))).extractLsb' (64 * i) 64 =
      if m = i then x else old.extractLsb' (64 * i) 64 := by
  have hones : ∀ n, n < 256 → (BitVec.ofNat 256 (2 ^ 64 - 1)).getLsbD n = decide (n < 64) := fun n hn => by
    rw [BitVec.getLsbD_ofNat, Nat.testBit_two_pow_sub_one, decide_eq_true hn, Bool.true_and]
  generalize BitVec.ofNat 256 (2 ^ 64 - 1) = ones at hones
  refine BitVec.eq_of_getLsbD_eq fun b hb => ?_
  have hlt : 64 * i + b < 256 := by omega
  simp only [BitVec.getLsbD_extractLsb', BitVec.getLsbD_or, BitVec.getLsbD_and, BitVec.getLsbD_not, BitVec.getLsbD_shiftLeft,
    BitVec.getLsbD_setWidth, hb, hlt, decide_true, Bool.true_and, hones _ (Nat.lt_of_le_of_lt (Nat.sub_le _ (64 * m)) hlt)]
  rcases Nat.lt_trichotomy m i with h | h | h
  · have hx : x.getLsbD (64 * i + b - 64 * m) = false := BitVec.getLsbD_of_ge _ _ (by omega)
    have hge : ¬64 * i + b - 64 * m < 64 := by omega
    simp only [Nat.ne_of_lt h, if_false, hx, hge, BitVec.getLsbD_extractLsb']
    simp [hb]
  · subst h
    have hlo : ¬64 * m + b < 64 * m := by omega
    have hb' : b < 256 := by omega
    simp only [if_true, hlo, hb', decide_false, Nat.add_sub_cancel_left, hb, decide_true, Bool.not_true, Bool.not_false, Bool.and_true,
      Bool.and_false, Bool.false_or, Bool.true_and]
  · have hlo : 64 * i + b < 64 * m := by omega
    simp only [Nat.ne_of_gt h, if_false, hlo, BitVec.getLsbD_extractLsb']
    simp [hb]

/-- Word k of the firmware text holds what is written there; the others stay. -/
theorem Firmware.extract_writeText (f : Firmware) (k : Nat) (x : Word) (j i : Nat) (hi : i < 4) :
    (find 0 j (f.writeText (8 * k) x).text).extractLsb' (64 * i) 64 =
      if k = 4 * j + i then x else (find 0 j f.text).extractLsb' (64 * i) 64 := by
  have hdiv : 8 * k / 32 = k / 4 := by omega
  have hmod : 8 * k / 8 % 4 = k % 4 := by omega
  unfold Firmware.writeText
  rw [hdiv, hmod]
  by_cases hj : j = k / 4
  · subst hj
    rw [find_put_same, extract_putWord _ _ hi]
    have hk : k % 4 = i ↔ k = 4 * (k / 4) + i := by omega
    simp only [hk]
  · rw [find_put_ne _ hj, if_neg (by omega)]

theorem registerWrites : Claims.RegisterWrites := by
  intro s r x hr u
  refine ⟨fun h hbad => ?_, fun h hbusy halign hlt => ?_, fun part off h => ?_, fun p h => ?_, fun h => ?_, fun core num h hl => ?_,
    fun core num h hl => ?_, fun core k h hk => ?_, fun a h => ?_⟩
  all_goals subst h
  · show execRegisterWrite s = _
    simp only [execRegisterWrite, hr]
    rw [if_pos (by simpa [bits_63_48_ne_zero, or_assoc] using hbad)]
    rfl
  · intro c v
    have hgood : ¬((({ s with req := none } : State).mgmt.busy || decide (x.toNat % 64 ≠ 0) || decide (bits x 63 48 ≠ 0)) = true) := by
      simpa [bits_63_48_ne_zero, hbusy, halign] using hlt
    have e : exec .registerWrite s = .next (if c.row.isNone then v.endCommand 3 else v) := by
      show execRegisterWrite s = _
      simp only [execRegisterWrite, hr]
      rw [if_neg hgood]
      rfl
    refine ⟨fun hc => ?_, fun hc => ?_⟩
    · rw [if_neg (fun h => hc ((Command.row_isNone_iff c).mp h))] at e
      exact e
    · rw [if_pos ((Command.row_isNone_iff c).mpr hc)] at e
      exact exists_commandEnds e
  · show execRegisterWrite s = _
    simp only [execRegisterWrite, hr]
    rfl
  · show execRegisterWrite s = _
    simp only [execRegisterWrite, hr, State.softError]
    split <;> rfl
  · show execRegisterWrite s = _
    simp only [execRegisterWrite, hr]
    rfl
  · show execRegisterWrite s = _
    simp only [execRegisterWrite, hr]
    rw [if_neg (by simp [hl])]
    rfl
  · show execRegisterWrite s = _
    simp only [execRegisterWrite, hr]
    rw [if_pos hl]
    rfl
  · have e : exec .registerWrite s = .next (u.modCoreAt core (fun c => { c with fw := c.fw.writeText (8 * k) x })) := by
      show execRegisterWrite s = _
      simp only [execRegisterWrite, hr]
      rw [if_pos (by omega)]
      rfl
    refine ⟨_, e, rfl, ⟨rfl, rfl, rfl, rfl, rfl⟩, ?_, fun j i hi => ?_⟩
    · rw [State.coreAt_modCoreAt]
      rfl
    · rw [State.coreAt_modCoreAt]
      exact Firmware.extract_writeText _ k x j i hi
  · refine ⟨u.hostWrite a (leBytes x.toNat 8), ?_, rfl, ?_, (u.hostWrite_reads a (leBytes x.toNat 8)).2⟩
    · show execRegisterWrite s = _
      simp only [execRegisterWrite, hr]
      rfl
    · exact readBytes_writeBytes (leBytes x.toNat 8) s.hostMem a

/-- Settles O49: commands go through one lemma about how a command ends; runs of the capability table by an invariant of the
units below n; PDESTROY by what the cancelling of queues touches. -/
theorem mailbox : Obligations.Mailbox :=
  ⟨tables, partitionCommands, settingCommands, commandBlocks, registerWrites⟩

end Sys2Proof.Machine
end

section
/-! PROOF. Page walks (R200 to R203): what a walk gives at each level. -/

namespace Sys2Proof.Machine

/-! Entries (R202). -/

theorem bits_11_11_ne_zero (e : Word) : bits e 11 11 ≠ 0 ↔ e.getLsbD 11 = true := by
  rw [BitVec.getLsbD, Nat.testBit, bits, Nat.one_and_eq_mod_two]
  simp

theorem pteReserved_iff (e : Word) : pteReserved e = true ↔ e.getLsbD 11 = true ∨ bits e 63 56 ≠ 0 := by
  rw [← bits_11_11_ne_zero]
  simp [pteReserved]

theorem place_12 (x : Nat) : place x 12 = x * 2 ^ 12 := Nat.shiftLeft_eq x 12

theorem bits_lt {w : Nat} (x : BitVec w) (hi lo : Nat) : bits x hi lo < 2 ^ (hi + 1 - lo) := Nat.mod_lt _ (Nat.two_pow_pos _)

/-- The frame of an entry is below 2^48. -/
theorem frame_toNat (e : Word) : (BitVec.ofNat 48 (bits e 47 12 * 2 ^ 12)).toNat = bits e 47 12 * 2 ^ 12 := by
  have h := bits_lt e 47 12
  rw [BitVec.toNat_ofNat]
  exact Nat.mod_eq_of_lt (by omega)

theorem leafGives_leafResult (e : Word) (va size : Nat) : leafGives e va size (leafResult e va size) := by
  have hres : (pteReserved e || (leafInfo e va size).frame.toNat % size != 0) = true ↔
      e.getLsbD 11 = true ∨ bits e 63 56 ≠ 0 ∨ bits e 47 12 * 2 ^ 12 % size ≠ 0 := by
    rw [Bool.or_eq_true, pteReserved_iff, bne_iff_ne, leafInfo, place_12, frame_toNat, or_assoc]
  unfold leafResult
  refine ⟨fun h => if_pos (hres.mpr h), fun h1 h2 h3 => (if_neg fun h => ?_).trans ?_⟩
  · rcases hres.mp h with h' | h' | h'
    · exact absurd h' (by simp only [h1, Bool.false_eq_true, not_false_iff])
    · exact h' h2
    · exact h' h3
  · rw [leafInfo, place_12]

/-- An entry above the last level that names a table. -/
theorem tableEntry_iff (e : Word) : tableEntry e ↔ e.getLsbD 0 = true ∧ e.getLsbD 9 = false ∧
    (pteReserved e || bits e 8 1 != 0 || bits e 55 48 != 0) = false := by
  have hhigh : bits e 63 48 = 0 ↔ bits e 63 56 = 0 ∧ bits e 55 48 = 0 := by
    simp only [bits, Nat.shiftRight_eq_div_pow]
    omega
  have hres : pteReserved e = false ↔ e.getLsbD 11 = false ∧ bits e 63 56 = 0 := by
    rw [← Bool.not_eq_true, pteReserved_iff, not_or, Bool.not_eq_true, Decidable.not_not]
  rw [tableEntry, hhigh, Bool.or_eq_false_iff, Bool.or_eq_false_iff, hres, bne_eq_false_iff_eq, bne_eq_false_iff_eq]
  constructor
  · rintro ⟨h0, h8, h9, h11, h63, h55⟩
    exact ⟨h0, h9, ⟨⟨h11, h63⟩, h8⟩, h55⟩
  · rintro ⟨h0, h9, ⟨⟨h11, h63⟩, h8⟩, h55⟩
    exact ⟨h0, h8, h9, h11, h63, h55⟩

/-! One level (R203). -/

section
variable {s : State} {v : View} {va : Nat} {table : Nat} {e : Word}

theorem State.walkFrom_error {n c : Nat} (h : s.readPhys64 v (table + 8 * (va / 2 ^ (21 + 9 * n) % 512)) = .error c) :
    s.walkFrom v va (n + 1) table = .fault c := by
  rw [State.walkFrom, h]

theorem State.walkFrom_notPresent {n : Nat} (h : s.readPhys64 v (table + 8 * (va / 2 ^ (21 + 9 * n) % 512)) = .ok e)
    (h0 : e.getLsbD 0 = false) : s.walkFrom v va (n + 1) table = .trap 0x02 := by
  rw [State.walkFrom, h]
  simp only [h0, Bool.not_false, if_true]

theorem State.walkFrom_leaf {n : Nat} (h : s.readPhys64 v (table + 8 * (va / 2 ^ (21 + 9 * n) % 512)) = .ok e)
    (h0 : e.getLsbD 0 = true) (h9 : e.getLsbD 9 = true) :
    s.walkFrom v va (n + 1) table = if n = 2 then .fault 0x05 else leafResult e va (2 ^ (21 + 9 * n)) := by
  rw [State.walkFrom, h]
  simp only [h0, h9, Bool.not_true, Bool.false_eq_true, if_false, if_true]

theorem State.walkFrom_reserved {n : Nat} (h : s.readPhys64 v (table + 8 * (va / 2 ^ (21 + 9 * n) % 512)) = .ok e)
    (h0 : e.getLsbD 0 = true) (h9 : e.getLsbD 9 = false) (ht : ¬tableEntry e) : s.walkFrom v va (n + 1) table = .fault 0x05 := by
  rw [tableEntry_iff, not_and, not_and, Bool.not_eq_false] at ht
  rw [State.walkFrom, h]
  simp only [h0, h9, ht h0 h9, Bool.not_true, Bool.false_eq_true, if_false, if_true]

theorem State.walkFrom_table {n : Nat} (h : s.readPhys64 v (table + 8 * (va / 2 ^ (21 + 9 * n) % 512)) = .ok e)
    (ht : tableEntry e) : s.walkFrom v va (n + 1) table = s.walkFrom v va n (bits e 47 12 * 2 ^ 12) := by
  obtain ⟨h0, h9, hr⟩ := (tableEntry_iff e).mp ht
  rw [State.walkFrom, h, ← place_12]
  simp only [h0, h9, hr, Bool.not_true, Bool.false_eq_true, if_false]

end

/-- R202: a walk that finds a table at each level above k comes to the table that holds its entry of level k. -/
theorem State.walkIn_at {s : State} {v : View} {va k : Nat} (hk : k < 4) (h : s.walksTo v va k) :
    ∃ table, s.walkIn v va = s.walkFrom v va (3 - k) table ∧
      s.entryAt v va k = s.readPhys64 v (table + 8 * (va / 2 ^ (39 - 9 * k) % 512)) ∧
      ∀ j e, k = j + 1 → s.entryAt v va j = .ok e → table = bits e 47 12 * 2 ^ 12 := by
  induction k with
  | zero => exact ⟨_, rfl, rfl, nofun⟩
  | succ k ih =>
    obtain ⟨table, hwalk, hentry, -⟩ := ih (by omega) fun j hj => h j (by omega)
    obtain ⟨e, he, ht⟩ := h k (Nat.lt_succ_self k)
    have hsh : 39 - 9 * k = 21 + 9 * (2 - k) := by omega
    have hn : 3 - k = (2 - k) + 1 := by omega
    rw [hentry, hsh] at he
    refine ⟨bits e 47 12 * 2 ^ 12, ?_, ?_, fun j e' hj he' => ?_⟩
    · rw [hwalk, hn, State.walkFrom_table he ht]
      congr 1
      omega
    · rw [State.entryAt, hentry, hsh, he]
      have hlow : 39 - 9 * (k + 1) = 30 - 9 * k := by omega
      rw [hlow]
    · obtain rfl := Nat.succ.inj hj
      rw [hentry, hsh, he] at he'
      rw [Except.ok.inj he']

/-! The last level (R202). -/

section
variable {s : State} {v : View} {va : Nat} {table : Nat} {e g : Word}

theorem State.walkLast_error {c : Nat} (h : s.readPhys64 v (table + 8 * (va / 2 ^ 12 % 512)) = .error c) :
    s.walkLast v va table = .fault c := by
  rw [State.walkLast, h]

theorem State.walkLast_notPresent (h : s.readPhys64 v (table + 8 * (va / 2 ^ 12 % 512)) = .ok e) (h0 : e.getLsbD 0 = false) :
    s.walkLast v va table = .trap 0x02 := by
  rw [State.walkLast, h]
  simp only [h0, Bool.not_false, if_true]

theorem State.walkLast_groupError {c : Nat} (h : s.readPhys64 v (table + 8 * (va / 2 ^ 12 % 512)) = .ok e)
    (h0 : e.getLsbD 0 = true) (hg : s.readPhys64 v (table + 8 * (va / 2 ^ 12 % 512 / 16 * 16)) = .error c) :
    s.walkLast v va table = .fault c := by
  rw [State.walkLast, h]
  simp only [h0, hg, Bool.not_true, Bool.false_eq_true, if_false]

theorem State.walkLast_ok (h : s.readPhys64 v (table + 8 * (va / 2 ^ 12 % 512)) = .ok e) (h0 : e.getLsbD 0 = true)
    (hg : s.readPhys64 v (table + 8 * (va / 2 ^ 12 % 512 / 16 * 16)) = .ok g) : s.walkLast v va table =
      if e.getLsbD 10 || (g.getLsbD 0 && g.getLsbD 10) then
        if g.getLsbD 0 = false then .trap 0x02 else if g.getLsbD 9 then leafResult g va (2 ^ 16) else .fault 0x05
      else if e.getLsbD 9 then leafResult e va (2 ^ 12) else .fault 0x05 := by
  rw [State.walkLast, h]
  simp only [h0, hg, Bool.not_true, Bool.false_eq_true, if_false, Bool.not_eq_true']

end

theorem permission_eq (p : PageInfo) : permission .read p = (if p.r then .ok p else .fault 0x04) ∧
    permission .write p = (if p.w then (if p.cow then .trap 0x03 else .ok p) else .fault 0x04) ∧
    permission .fetch p = (if p.x then .ok p else .fault 0x04) := by
  refine ⟨rfl, ?_, rfl⟩
  unfold permission
  cases p.w <;> rfl

theorem walks : Claims.Walks := by
  refine ⟨fun s v va k hk hw => ?_, permission_eq⟩
  intro x
  obtain ⟨table, hwalk, hentry, htable⟩ := State.walkIn_at hk hw
  have hx : x = s.walkFrom v va (3 - k) table := hwalk
  rcases Nat.lt_or_eq_of_le (Nat.le_of_lt_succ hk) with hk3 | rfl
  · have hsh : 39 - 9 * k = 21 + 9 * (2 - k) := by omega
    have hn : 3 - k = (2 - k) + 1 := by omega
    rw [hn] at hx
    rw [hentry, hsh]
    refine ⟨fun c hc => hx.trans (State.walkFrom_error hc), fun e he => ?_⟩
    intro leaf
    refine ⟨fun h0 => hx.trans (State.walkFrom_notPresent he h0),
      fun h0 _ h9 ht => hx.trans (State.walkFrom_reserved he h0 h9 ht), fun h0 h9 h => ?_, fun h0 h9 h => ?_,
      fun _ h => absurd h (Nat.ne_of_lt hk3)⟩
    · rw [hx, State.walkFrom_leaf he h0 h9, if_pos (by omega)]
    · rw [hx, State.walkFrom_leaf he h0 h9, if_neg (by omega)]
      exact leafGives_leafResult e va _
  · have hx : x = s.walkLast v va table := hx
    rw [hentry]
    refine ⟨fun c hc => hx.trans (State.walkLast_error hc), fun e he => ?_⟩
    intro leaf
    refine ⟨fun h0 => hx.trans (State.walkLast_notPresent he h0), fun _ h => absurd h (Nat.lt_irrefl 3), fun _ _ h => by omega,
      fun _ _ h => by omega, fun h0 _ e2 he2 => ?_⟩
    rw [← htable 2 e2 rfl he2]
    intro group
    refine ⟨fun c hc => hx.trans (State.walkLast_groupError he h0 hc), fun g hg => ?_⟩
    have hlast := hx.trans (State.walkLast_ok he h0 hg)
    intro p64
    refine ⟨fun hp => ?_, fun hp => ?_⟩
    · have hp' : (e.getLsbD 10 || (g.getLsbD 0 && g.getLsbD 10)) = false := hp
      rw [hp', if_neg Bool.false_ne_true] at hlast
      refine ⟨fun h9 => ?_, fun h9 => ?_⟩
      · have h9' : e.getLsbD 9 = true := h9
        rw [hlast, if_pos h9']
        exact leafGives_leafResult e va _
      · have h9' : e.getLsbD 9 = false := h9
        rw [hlast, h9', if_neg Bool.false_ne_true]
    · have hp' : (e.getLsbD 10 || (g.getLsbD 0 && g.getLsbD 10)) = true := hp
      rw [hp', if_pos rfl] at hlast
      refine ⟨fun hg0 => ?_, fun hg0 hg9 => ?_, fun hg0 hg9 => ?_⟩
      · rw [hlast, if_pos hg0]
      · rw [hlast, hg0, hg9]
        rfl
      · rw [hlast, hg0, hg9]
        exact leafGives_leafResult g va _

end Sys2Proof.Machine
end

section
/-! PROOF. Walks that complete (R13, R203, R209): what settling the accesses of a core may change, and what the row leaves. -/

namespace Sys2Proof.Machine

/-! What translation leaves alone (R203, R345). -/

/-- From s to t nothing has changed that the queues of core c turn on: which core acts, the registers, the task and the queues
of c; and no context has become metered. -/
structure Quiet (c : Nat) (s t : State) : Prop where
  cur : t.cur = s.cur
  regs : (t.coreAt c).regs = (s.coreAt c).regs
  task : (t.coreAt c).task = (s.coreAt c).task
  loadQ : (t.coreAt c).mem.loadQ = (s.coreAt c).mem.loadQ
  storeQ : (t.coreAt c).mem.storeQ = (s.coreAt c).mem.storeQ
  metered : ∀ k, s.metered k = false → t.metered k = false

namespace Quiet

variable {c : Nat} {s t u : State}

theorem refl (s : State) : Quiet c s s := ⟨rfl, rfl, rfl, rfl, rfl, fun _ => id⟩

theorem trans (h : Quiet c s t) (h' : Quiet c t u) : Quiet c s u :=
  ⟨h'.cur.trans h.cur, h'.regs.trans h.regs, h'.task.trans h.task, h'.loadQ.trans h.loadQ, h'.storeQ.trans h.storeQ,
    fun k hk => h'.metered k (h.metered k hk)⟩

/-- A change of a core that keeps registers, task and queues is quiet. -/
theorem modCoreAt (s : State) (n : Nat) {g : Core → Core} (hr : (g (s.coreAt n)).regs = (s.coreAt n).regs)
    (ht : (g (s.coreAt n)).task = (s.coreAt n).task) (hl : (g (s.coreAt n)).mem.loadQ = (s.coreAt n).mem.loadQ)
    (hs : (g (s.coreAt n)).mem.storeQ = (s.coreAt n).mem.storeQ) : Quiet c s (s.modCoreAt n g) := by
  by_cases h : c = n
  · subst h
    refine ⟨rfl, ?_, ?_, ?_, ?_, fun _ => id⟩ <;> rw [State.coreAt_modCoreAt] <;> assumption
  · have hc : (s.modCoreAt n g).coreAt c = s.coreAt c := State.coreAt_setCoreAt_ne s h _
    refine ⟨rfl, ?_, ?_, ?_, ?_, fun _ => id⟩ <;> rw [hc]

end Quiet

/-- A meter with a rate counts. -/
theorem State.metered_of_rate {s : State} {ctx res : Nat} (h : (find Meter.off res (s.ctxAt ctx).meters).rate ≠ 0) :
    s.metered ctx = true := by
  unfold find at h
  cases hm : find? res (s.ctxAt ctx).meters with
  | none =>
    rw [hm] at h
    exact absurd rfl h
  | some m =>
    rw [hm] at h
    exact List.any_eq_true.mpr ⟨_, mem_of_find? hm, bne_iff_ne.mpr h⟩

/-- Counting bytes makes no context metered. -/
theorem State.quiet_meterCount (s : State) (c ctx res n : Nat) : Quiet c s (s.meterCount ctx res n) := by
  unfold State.meterCount
  dsimp only
  split
  · exact Quiet.refl s
  next hr =>
    refine ⟨rfl, rfl, rfl, rfl, rfl, fun k hk => ?_⟩
    have hne : k ≠ ctx := fun h => by
      rw [h, State.metered_of_rate hr] at hk
      cases hk
    unfold State.metered
    rw [State.modCtxAt, State.ctxAt_setCtxAt_ne s hne]
    exact hk

theorem State.quiet_countAll (s : State) (c ctx : Nat) (costs : List (Nat × Nat)) : Quiet c s (s.countAll ctx costs) := by
  induction costs generalizing s with
  | nil => exact Quiet.refl s
  | cons x r ih => exact (s.quiet_meterCount c ctx x.1 x.2).trans (ih _)

theorem State.quiet_modUtlb (s : State) (c n : Nat) (f : List TlbEntry → List TlbEntry) :
    Quiet c s (s.modCoreAt n (fun c => { c with mem := { c.mem with utlb := f c.mem.utlb } })) :=
  Quiet.modCoreAt s n (g := fun c => { c with mem := { c.mem with utlb := f c.mem.utlb } }) rfl rfl rfl rfl

theorem State.quiet_modClusterAt (s : State) (c n : Nat) (g : Cluster → Cluster) : Quiet c s (s.modClusterAt n g) :=
  ⟨rfl, rfl, rfl, rfl, rfl, fun _ => id⟩

theorem State.quiet_translate (s : State) (c core ctx va : Nat) : Quiet c s (s.translate core ctx va).1 := by
  unfold State.translate
  split
  · exact Quiet.refl s
  · split
    next p _ => exact s.quiet_modUtlb c core (tlbPut 64 ⟨ctx, p⟩)
    next =>
      dsimp only
      have hcount := s.quiet_countAll c ctx (s.walkCosts { s.coreView core with ctx := ctx } va)
      split
      next p _ =>
        dsimp only
        refine Quiet.trans ?_ (State.quiet_modClusterAt _ c _ _)
        exact hcount.trans (State.quiet_modUtlb _ c core (tlbPut 64 ⟨ctx, p⟩))
      next => exact hcount

theorem State.quiet_translateElem (s : State) (c core ctx : Nat) (k : AccessKind) (all : Bool) (e : MemElem) :
    Quiet c s (s.translateElem core ctx k all e).1 := by
  have h := s.quiet_translate c core ctx e.va.toNat
  unfold State.translateElem
  dsimp only
  split
  · exact Quiet.refl s
  · generalize s.translate core ctx e.va.toNat = r at h
    obtain ⟨u, x⟩ := r
    cases x with
    | ok p =>
      dsimp only
      split
      · split <;> split <;> exact h
      · exact h
    | fault code => exact h
    | trap cause => exact h
    | moving => exact h

theorem State.quiet_translateElems (s : State) (c core ctx : Nat) (k : AccessKind) (all : Bool) (l : List MemElem) :
    Quiet c s (s.translateElems core ctx k all l).1 := by
  induction l generalizing s with
  | nil => exact Quiet.refl s
  | cons e r ih =>
    have h := s.quiet_translateElem c core ctx k all e
    rw [State.translateElems]
    generalize s.translateElem core ctx k all e = x at h
    obtain ⟨u, t | t⟩ := x
    · exact h.trans (ih u)
    · exact h.trans (ih u)

/-- A physical access is translated without any change. -/
theorem State.physical_translateAccess (s : State) (core : Nat) {x : Access} (h : x.physical = true) :
    (s.translateAccess core x).1 = s := by
  unfold State.translateAccess
  dsimp only
  rw [if_pos h]
  suffices ∀ (l : List MemElem) (r : State × List Target × List (MemElem × Xlat)), r.1 = s → (l.foldl (fun r e =>
      match s.addrIn (s.coreView core) e.va.toNat with
      | some a => (r.1, r.2.1 ++ [⟨e, [.mem a e.va.toNat], true, (s.coreView core).key⟩], r.2.2)
      | none => (r.1, r.2.1, r.2.2 ++ [(e, .fault 0x05)])) r).1 = s from this x.elems _ rfl
  intro l
  induction l with
  | nil => exact fun _ h => h
  | cons e l ih =>
    refine fun r hr => ih _ ?_
    dsimp only
    split <;> exact hr

theorem State.quiet_translateAccess (s : State) (c core : Nat) (x : Access) : Quiet c s (s.translateAccess core x).1 := by
  cases hp : x.physical with
  | true => exact (s.physical_translateAccess core hp).symm ▸ Quiet.refl s
  | false =>
    unfold State.translateAccess
    dsimp only
    rw [if_neg (by rw [hp]; exact Bool.false_ne_true)]
    split
    · exact Quiet.refl s
    · exact s.quiet_translateElems c core _ _ _ _
    · split
      · have h := s.quiet_translateElems c core (s.coreAt core).ctxId .read false x.elems
        split
        next u _ hu =>
          rw [hu] at h
          exact h.trans (u.quiet_translateElems c core _ _ _ _)
        next => exact h
      · exact s.quiet_translateElems c core _ _ _ _

/-- The sequencing of a core that a finding is reported to: a fault comes before a trap, and else the first one stays. -/
def Flow.report (f : Flow) (x : Finding) : Flow :=
  match f.finding, x with
  | none, _ => { f with finding := some x }
  | some (.trap _ _ _), .fault _ _ _ _ _ _ => { f with finding := some x }
  | some _, _ => f

/-- A finding that is reported changes the sequencing of its core alone. -/
theorem State.quiet_reportXlat (s : State) (c core : Nat) (x : Access) (f : MemElem × Xlat) :
    Quiet c s (s.reportXlat core x f) := by
  have htell : ∀ k : Finding, Quiet c s { (({ s with cur := core } : State).report k) with cur := s.cur } := fun k => by
    exact Quiet.modCoreAt (c := c) s core (g := fun x => { x with flow := x.flow.report k }) rfl rfl rfl rfl
  unfold State.reportXlat
  dsimp only
  split
  · exact Quiet.refl s
  · exact htell _
  · exact htell _
  · exact htell _

/-! Settling one access (R209, R276). -/

/-- From s to t only accesses of core c have been settled: as `Quiet`, but a fault of a physical access may have ended the phase,
which drops what has not been sent (R276). -/
structure Settles (c : Nat) (s t : State) : Prop where
  cur : t.cur = s.cur
  regs : (t.coreAt c).regs = (s.coreAt c).regs
  metered : ∀ k, s.metered k = false → t.metered k = false
  faulted : (s.coreAt c).task.status = .faulted → (t.coreAt c).task.status = .faulted
  calm : (t.coreAt c).task.status ≠ .faulted →
    (t.coreAt c).mem.loadQ = (s.coreAt c).mem.loadQ ∧ (t.coreAt c).mem.storeQ = (s.coreAt c).mem.storeQ
  sentLoads : sentRequests (t.coreAt c).mem.loadQ ≤ sentRequests (s.coreAt c).mem.loadQ
  sentStores : sentRequests (t.coreAt c).mem.storeQ ≤ sentRequests (s.coreAt c).mem.storeQ

namespace Settles

variable {c : Nat} {s t u : State}

theorem of_quiet (h : Quiet c s t) : Settles c s t :=
  ⟨h.cur, h.regs, h.metered, fun hf => h.task ▸ hf, fun _ => ⟨h.loadQ, h.storeQ⟩, Nat.le_of_eq (by rw [h.loadQ]), Nat.le_of_eq (by rw [h.storeQ])⟩

theorem trans (h : Settles c s t) (h' : Settles c t u) : Settles c s u where
  cur := h'.cur.trans h.cur
  regs := h'.regs.trans h.regs
  metered := fun k hk => h'.metered k (h.metered k hk)
  faulted := fun hf => h'.faulted (h.faulted hf)
  calm := fun hf => by
    obtain ⟨hl, hs⟩ := h.calm fun ht => hf (h'.faulted ht)
    obtain ⟨hl', hs'⟩ := h'.calm hf
    exact ⟨hl'.trans hl, hs'.trans hs⟩
  sentLoads := Nat.le_trans h'.sentLoads h.sentLoads
  sentStores := Nat.le_trans h'.sentStores h.sentStores

end Settles

theorem queueAccesses_cons_access (x : Access) (q : List QueueEntry) : queueAccesses (.access x :: q) = x :: queueAccesses q := rfl

/-- The requests that an access has sent. -/
def Access.sent (x : Access) : Nat := if x.targets.isSome then x.elems.length else 0

theorem sentRequests_access (x : Access) (q : List QueueEntry) : sentRequests (.access x :: q) = x.sent + sentRequests q := by
  rw [sentRequests, queueAccesses_cons_access, List.map_cons, List.sum_cons]
  rfl

theorem sentRequests_sentEntries_le (q : List QueueEntry) : sentRequests (sentEntries q) ≤ sentRequests q := by
  induction q with
  | nil => exact Nat.le_refl _
  | cons e r ih =>
    cases e with
    | marker m b => exact ih
    | access x =>
      cases hc : x.targets.isSome || x.bounced with
      | true =>
        have e : sentEntries (.access x :: r) = .access x :: sentEntries r := List.filter_cons_of_pos hc
        rw [e, sentRequests_access, sentRequests_access]
        exact Nat.add_le_add_left ih _
      | false =>
        have e : sentEntries (.access x :: r) = sentEntries r := List.filter_cons_of_neg fun h => Bool.noConfusion (hc.symm.trans h)
        rw [e, sentRequests_access]
        exact Nat.le_trans ih (Nat.le_add_left _ _)

/-- What the end of a phase makes of the acting core. -/
theorem State.core_raise (s : State) (code slot : Nat) (addr : Addr) (va : Word) (fw imp cad fy : Bool) (tc : Nat) :
    let k := (s.raise code slot addr va fw imp cad fy tc).core
    k.regs = s.core.regs ∧ k.task.status = .faulted ∧ k.mem.loadQ = sentEntries s.core.mem.loadQ ∧
      k.mem.storeQ = sentEntries s.core.mem.storeQ := by
  simp [State.raise]

/-- A fault of the firmware context ends the phase. -/
theorem State.settles_raise (s : State) (c : Nat) (code slot : Nat) (addr : Addr) (va : Word) (fw imp cad fy : Bool) (tc : Nat) :
    Settles c s { (({ s with cur := c } : State).raise code slot addr va fw imp cad fy tc) with cur := s.cur } := by
  obtain ⟨hr, hf, hl, hs⟩ := State.core_raise { s with cur := c } code slot addr va fw imp cad fy tc
  refine ⟨rfl, hr, fun _ => id, fun _ => hf, fun h => absurd hf h, ?_, ?_⟩
  · exact Nat.le_trans (Nat.le_of_eq (congrArg sentRequests hl)) (sentRequests_sentEntries_le _)
  · exact Nat.le_trans (Nat.le_of_eq (congrArg sentRequests hs)) (sentRequests_sentEntries_le _)

theorem State.quiet_reportAll (s : State) (c core : Nat) (x : Access) (l : List (MemElem × Xlat)) :
    Quiet c s (l.foldl (fun s g => s.reportXlat core x g) s) := by
  induction l generalizing s with
  | nil => exact Quiet.refl s
  | cons f r ih => exact (s.quiet_reportXlat c core x f).trans (ih _)

theorem State.quiet_chooseSome (s : State) (c : Nat) (ts : List Target) : Quiet c s (s.chooseSome ts).1 := by
  rw [(s.chooseSome_spec ts).1]
  exact ⟨rfl, rfl, rfl, rfl, rfl, fun _ => id⟩

/-- What becomes of an access that met findings: some elements of a vector store that ends its phase are written, and any other
access has failed. -/
def State.settleFailed (s : State) (x : Access) (ts : List Target) (fs : List (MemElem × Xlat)) : State × Access :=
  if fs.any (fun g => isFaultXlat g.2) && 1 < x.elems.length && (memUse x.instr).2 && !isAtomic x.instr then
    ((s.chooseSome ts).1, { x with targets := some (s.chooseSome ts).2, bounced := false })
  else (s, { x with failed := true })

theorem State.settle_eq (s : State) (c : Nat) (x : Access) : s.settle c x =
    match s.translateAccess c x with
    | (s, ts, []) => (s, { x with targets := some ts, bounced := false })
    | (s, ts, f :: r) =>
      State.settleFailed (if x.physical then
          { (({ s with cur := c } : State).raise 0x05 x.slot x.addr f.1.va true false false false 0) with cur := s.cur }
        else (f :: r).foldl (fun s g => s.reportXlat c x g) s) x ts (f :: r) := by
  unfold State.settle State.settleFailed
  rfl

theorem State.settleFailed_spec (s : State) (c : Nat) (x : Access) (ts : List Target) (fs : List (MemElem × Xlat)) :
    let r := s.settleFailed x ts fs
    Quiet c s r.1 ∧ r.2.seq = x.seq ∧ r.2.elems = x.elems ∧ r.2.untranslated = false := by
  unfold State.settleFailed
  split
  · exact ⟨s.quiet_chooseSome c ts, rfl, rfl, rfl⟩
  · exact ⟨Quiet.refl s, rfl, rfl, by simp [Access.untranslated]⟩

/-- What settling makes of an access: it waits for its translation no longer. -/
theorem State.settle_spec (s : State) (c : Nat) (x : Access) : let r := s.settle c x
    Settles c s r.1 ∧ (x.physical = false → Quiet c s r.1) ∧ r.2.seq = x.seq ∧ r.2.elems = x.elems ∧ r.2.untranslated = false := by
  have hq := s.quiet_translateAccess c c x
  rw [State.settle_eq]
  generalize s.translateAccess c x = r at hq
  obtain ⟨u, ts, _ | ⟨f, fs⟩⟩ := r
  · exact ⟨Settles.of_quiet hq, fun _ => hq, rfl, rfl, rfl⟩
  · dsimp only
    split
    next hp =>
      obtain ⟨hf, h⟩ := State.settleFailed_spec _ c x ts (f :: fs)
      exact ⟨((Settles.of_quiet hq).trans (u.settles_raise c _ _ _ _ _ _ _ _ _)).trans (Settles.of_quiet hf),
        fun h => absurd hp (by simp [h]), h⟩
    next =>
      obtain ⟨hf, h⟩ := State.settleFailed_spec _ c x ts (f :: fs)
      have hr := (hq.trans (u.quiet_reportAll c c x (f :: fs))).trans hf
      exact ⟨Settles.of_quiet hr, fun _ => hr, h⟩

/-! Settling a queue (R13, R345). -/

/-- The requests that an access waits to send. -/
def Access.waiting (x : Access) : Nat := if x.untranslated then x.elems.length else 0

/-- The requests that the accesses of a queue wait to send. -/
def waitingRequests (q : List QueueEntry) : Nat := ((queueAccesses q).map Access.waiting).sum

theorem waitingRequests_access (x : Access) (q : List QueueEntry) :
    waitingRequests (.access x :: q) = x.waiting + waitingRequests q := by
  simp [waitingRequests, queueAccesses_cons_access]

theorem Access.sent_le (x : Access) : x.sent ≤ x.elems.length := by
  unfold Access.sent
  split
  · exact Nat.le_refl _
  · exact Nat.zero_le _

theorem Access.sent_waiting_of_untranslated {x : Access} (h : x.untranslated = true) : x.sent = 0 ∧ x.waiting = x.elems.length := by
  refine ⟨?_, if_pos h⟩
  cases ht : x.targets with
  | none => simp [Access.sent, ht]
  | some ts => simp [Access.untranslated, ht] at h

/-- Where no meter of the context counts, no walk is held up. -/
theorem State.walksOpen_of_unmetered {s : State} {c : Nat} (x : Access) (h : s.metered (s.coreAt c).ctxId = false) :
    s.walksOpen c x = true := by
  simp [State.walksOpen, State.accessWalks, State.openAll, h]

theorem Settles.unmetered {c : Nat} {s t : State} (h : Settles c s t) (hm : s.metered (s.coreAt c).ctxId = false) :
    t.metered (t.coreAt c).ctxId = false := by
  unfold Core.ctxId at hm ⊢
  rw [h.regs]
  exact h.metered _ hm

/-- What settling a queue with room for some requests does to its accesses. -/
structure QueueSettled (c room : Nat) (s : State) (q : List QueueEntry) (r : State × List QueueEntry) : Prop where
  settles : Settles c s r.1
  quiet : (∀ x ∈ queueAccesses q, x.physical = false) → Quiet c s r.1
  within : sentRequests r.2 ≤ sentRequests q + room
  sent : sentRequests r.2 ≤ sentRequests q + waitingRequests q
  done : waitingRequests q ≤ room → s.metered (s.coreAt c).ctxId = false → ∀ x ∈ queueAccesses r.2, x.untranslated = false
  seqs : (queueAccesses r.2).map (fun x => x.seq) = (queueAccesses q).map (fun x => x.seq)

theorem State.settleQueue_spec (s : State) (c room : Nat) (q : List QueueEntry) :
    QueueSettled c room s q (s.settleQueue c room q) := by
  induction q generalizing s room with
  | nil =>
    have hq := Quiet.refl (c := c) s
    exact ⟨Settles.of_quiet hq, fun _ => hq, Nat.zero_le _, Nat.le_refl _, fun _ _ _ h => absurd h List.not_mem_nil, rfl⟩
  | cons e r ih =>
    cases e with
    | marker m b =>
      obtain ⟨h1, h2, h3, h4, h5, h6⟩ := ih s room
      exact ⟨h1, h2, h3, h4, h5, h6⟩
    | access x =>
      rw [State.settleQueue]
      split
      next hx =>
        have hx : x.untranslated = false := by simpa using hx
        have hw : x.waiting = 0 := by simp [Access.waiting, hx]
        obtain ⟨h1, h2, h3, h4, h5, h6⟩ := ih s room
        refine ⟨h1, fun h => h2 (List.forall_mem_cons.mp h).2, ?_, ?_, fun hr hm => ?_, congrArg (x.seq :: ·) h6⟩
        · simp only [sentRequests_access]
          omega
        · simp only [sentRequests_access, waitingRequests_access]
          omega
        · rw [waitingRequests_access] at hr
          exact List.forall_mem_cons.mpr ⟨hx, h5 (by omega) hm⟩
      next hx =>
        have hx : x.untranslated = true := by simpa using hx
        obtain ⟨hs0, hw⟩ := Access.sent_waiting_of_untranslated hx
        split
        next hroom =>
          obtain ⟨hset, hquiet, hseq, helems, hdone⟩ := s.settle_spec c x
          have hle := (s.settle c x).2.sent_le
          rw [helems] at hle
          obtain ⟨h1, h2, h3, h4, h5, h6⟩ := ih (s.settle c x).1 (room - x.elems.length)
          refine ⟨hset.trans h1, fun h => ?_, ?_, ?_, fun hr hm => ?_, ?_⟩
          · obtain ⟨hp, h⟩ := List.forall_mem_cons.mp h
            exact (hquiet hp).trans (h2 h)
          · simp only [sentRequests_access]
            omega
          · simp only [sentRequests_access, waitingRequests_access]
            omega
          · rw [waitingRequests_access] at hr
            exact List.forall_mem_cons.mpr ⟨hdone, h5 (by omega) (hset.unmetered hm)⟩
          · exact List.cons_eq_cons.mpr ⟨hseq, h6⟩
        next hroom =>
          refine ⟨Settles.of_quiet (Quiet.refl s), fun _ => Quiet.refl s, Nat.le_add_right _ _, Nat.le_add_right _ _,
            fun hr hm => absurd ⟨?_, State.walksOpen_of_unmetered x hm⟩ hroom, rfl⟩
          rw [waitingRequests_access] at hr
          omega

/-- A queue whose accesses do not wait stays as it is. -/
theorem State.settleQueue_of_translated {s : State} {c room : Nat} {q : List QueueEntry}
    (h : ∀ x ∈ queueAccesses q, x.untranslated = false) : s.settleQueue c room q = (s, q) := by
  induction q with
  | nil => rfl
  | cons e r ih =>
    cases e with
    | marker m b =>
      rw [State.settleQueue, ih h]
    | access x =>
      obtain ⟨hx, hr⟩ := List.forall_mem_cons.mp h
      rw [State.settleQueue, hx, Bool.not_false, if_pos rfl, ih hr]

theorem mem_queueAccesses {x : Access} {q : List QueueEntry} : x ∈ queueAccesses q ↔ QueueEntry.access x ∈ q := by
  refine List.mem_filterMap.trans ⟨fun ⟨e, he, hx⟩ => ?_, fun h => ⟨_, h, rfl⟩⟩
  cases e with
  | access y => exact Option.some.inj hx ▸ he
  | marker m b => cases hx

/-- What is left of a queue when a phase ends does not wait for a translation. -/
theorem translated_of_mem_sentEntries {q : List QueueEntry} {x : Access} (h : QueueEntry.access x ∈ sentEntries q) :
    x.untranslated = false := by
  have h : x.targets.isSome || x.bounced := (List.mem_filter.mp h).2
  unfold Access.untranslated
  revert h
  cases x.targets <;> cases x.bounced <;> simp

/-! The row (R203, R209). -/

/-- The state after the loads of a core are settled. -/
def State.settleLoads (s : State) (c : Nat) : State :=
  (s.settleQueue c s.core.mem.room s.core.mem.loadQ).1.modMem
    (fun m => { m with loadQ := (s.settleQueue c s.core.mem.room s.core.mem.loadQ).2 })

/-- The state after the stores of a core are settled. -/
def State.settleStores (s : State) (c : Nat) : State :=
  (s.settleQueue c s.core.mem.room s.core.mem.storeQ).1.modMem
    (fun m => { m with storeQ := (s.settleQueue c s.core.mem.room s.core.mem.storeQ).2 })

/-- Where the phase has ended, what has not been sent is dropped (R269, R276). -/
def State.dropUnsent (s : State) : State :=
  if s.core.task.status = .faulted then s.modMem (fun m => { m with loadQ := sentEntries m.loadQ, storeQ := sentEntries m.storeQ })
  else s

theorem exec_pageWalkComplete (s : State) :
    exec .pageWalkComplete s = .next ((s.settleLoads s.cur).settleStores s.cur).dropUnsent := rfl

/-- The loads of the acting core after they are settled: their queue, and the rest of the core. -/
theorem State.settleLoads_core (s : State) : let r := s.settleQueue s.cur s.core.mem.room s.core.mem.loadQ
    (s.settleLoads s.cur).cur = s.cur ∧ (s.settleLoads s.cur).core =
      { r.1.coreAt s.cur with mem := { (r.1.coreAt s.cur).mem with loadQ := r.2 } } := by
  intro r
  have hcur : r.1.cur = s.cur := (s.settleQueue_spec _ _ _).settles.cur
  refine ⟨hcur, ?_⟩
  show (r.1.modCore _).core = _
  rw [State.core_modCore, State.core, hcur]

theorem State.settleStores_core (s : State) : let r := s.settleQueue s.cur s.core.mem.room s.core.mem.storeQ
    (s.settleStores s.cur).cur = s.cur ∧ (s.settleStores s.cur).core =
      { r.1.coreAt s.cur with mem := { (r.1.coreAt s.cur).mem with storeQ := r.2 } } := by
  intro r
  have hcur : r.1.cur = s.cur := (s.settleQueue_spec _ _ _).settles.cur
  refine ⟨hcur, ?_⟩
  show (r.1.modCore _).core = _
  rw [State.core_modCore, State.core, hcur]

theorem State.dropUnsent_core (s : State) : s.dropUnsent.cur = s.cur ∧ s.dropUnsent.core.regs = s.core.regs ∧
    (s.core.task.status = .faulted → s.dropUnsent.core.mem.loadQ = sentEntries s.core.mem.loadQ ∧
      s.dropUnsent.core.mem.storeQ = sentEntries s.core.mem.storeQ) ∧
    (s.core.task.status ≠ .faulted → s.dropUnsent = s) := by
  unfold State.dropUnsent
  split
  next h =>
    rw [State.modMem_eq, State.core_modCore]
    exact ⟨rfl, rfl, fun _ => ⟨rfl, rfl⟩, fun h' => absurd h h'⟩
  next h => exact ⟨rfl, rfl, fun h' => absurd h' h, fun _ => rfl⟩

/-- The row, from s to v, as two queues that are settled one after the other. -/
structure WalksSettle (s u v : State) (r1 r2 : State × List QueueEntry) : Prop where
  loads : QueueSettled s.cur s.core.mem.room s s.core.mem.loadQ r1
  stores : QueueSettled s.cur u.core.mem.room u u.core.mem.storeQ r2
  curU : u.cur = s.cur
  coreU : u.core = { r1.1.coreAt s.cur with mem := { (r1.1.coreAt s.cur).mem with loadQ := r1.2 } }
  meteredU : ∀ k, r1.1.metered k = false → u.metered k = false
  curV : v.cur = s.cur
  coreV : v.core = { r2.1.coreAt s.cur with mem := { (r2.1.coreAt s.cur).mem with storeQ := r2.2 } }

theorem State.walksSettle (s : State) : ∃ u r1 r2, WalksSettle s u ((s.settleLoads s.cur).settleStores s.cur) r1 r2 := by
  obtain ⟨hcu, hu⟩ := s.settleLoads_core
  obtain ⟨hcv, hv⟩ := (s.settleLoads s.cur).settleStores_core
  rw [hcu] at hcv hv
  exact ⟨s.settleLoads s.cur, _, _, s.settleQueue_spec _ _ _, State.settleQueue_spec _ _ _ _, hcu, hu, fun _ => id, hcv, hv⟩

namespace WalksSettle

variable {s u v : State} {r1 r2 : State × List QueueEntry} (h : WalksSettle s u v r1 r2)
include h

/-- The core in the middle is that of the acting core. -/
theorem coreAt_u : u.coreAt s.cur = u.core := by rw [State.core, h.curU]

theorem regs : v.core.regs = s.core.regs := by
  rw [h.coreV, h.stores.settles.regs, h.coreAt_u, h.coreU]
  exact h.loads.settles.regs

/-- Where the phase goes on, the stores that are settled are those of before, and each queue is what its settling gave. -/
theorem queues (hf : v.core.task.status ≠ .faulted) :
    v.core.mem.loadQ = r1.2 ∧ v.core.mem.storeQ = r2.2 ∧ u.core.mem.storeQ = s.core.mem.storeQ := by
  rw [h.coreV] at hf
  have hfu : (u.coreAt s.cur).task.status ≠ .faulted := fun e => hf (h.stores.settles.faulted e)
  rw [h.coreAt_u, h.coreU] at hfu
  have hl := (h.stores.settles.calm hf).1
  rw [h.coreAt_u, h.coreU] at hl
  rw [h.coreV, h.coreU]
  exact ⟨hl, rfl, (h.loads.settles.calm hfu).2⟩

/-- No more than 2,048 requests are outstanding (R13). -/
theorem within_limit (hs : sentRequests s.core.mem.loadQ + sentRequests s.core.mem.storeQ ≤ 2048) :
    sentRequests v.core.mem.loadQ + sentRequests v.core.mem.storeQ ≤ 2048 := by
  have h1 := h.loads.within
  have h2 := h.stores.within
  have h3 := h.stores.settles.sentLoads
  have h4 := h.loads.settles.sentStores
  rw [h.coreAt_u] at h3
  rw [h.coreV]
  simp only [CoreMem.room, requestLimit, h.coreU] at h1 h2 h3
  change sentRequests (r1.1.coreAt s.cur).mem.storeQ ≤ sentRequests s.core.mem.storeQ at h4
  dsimp only
  omega

/-- Where all that waits has room and no meter counts, each access has its places or has failed. -/
theorem translated (hw : waitingRequests s.core.mem.loadQ + waitingRequests s.core.mem.storeQ + sentRequests s.core.mem.loadQ +
      sentRequests s.core.mem.storeQ ≤ 2048) (hm : s.metered s.core.ctxId = false) (hf : v.core.task.status ≠ .faulted) :
    ∀ x ∈ queueAccesses (v.core.mem.loadQ ++ v.core.mem.storeQ), x.untranslated = false := by
  obtain ⟨hl, hst, hsame⟩ := h.queues hf
  have hsent := h.loads.sent
  have hmu : u.metered (u.coreAt s.cur).ctxId = false := by
    have hm1 := h.loads.settles.unmetered hm
    rw [h.coreAt_u, h.coreU]
    exact h.meteredU _ hm1
  have hroom : waitingRequests u.core.mem.storeQ ≤ u.core.mem.room := by
    rw [hsame, CoreMem.room, hsame, h.coreU, requestLimit]
    dsimp only
    omega
  have hroom1 : waitingRequests s.core.mem.loadQ ≤ s.core.mem.room := by
    rw [CoreMem.room, requestLimit]
    omega
  rw [hl, hst, queueAccesses, List.filterMap_append]
  exact List.forall_mem_append.mpr ⟨h.loads.done hroom1 hm, h.stores.done hroom hmu⟩

/-- The user context keeps the order of its accesses, and its phase goes on. -/
theorem order (hf : s.core.task.status ≠ .faulted) (hp : ∀ x ∈ queueAccesses (s.core.mem.loadQ ++ s.core.mem.storeQ), x.physical = false) :
    v.core.task.status ≠ .faulted ∧
    (queueAccesses v.core.mem.loadQ).map (fun x => x.seq) = (queueAccesses s.core.mem.loadQ).map (fun x => x.seq) ∧
    (queueAccesses v.core.mem.storeQ).map (fun x => x.seq) = (queueAccesses s.core.mem.storeQ).map (fun x => x.seq) := by
  rw [queueAccesses, List.filterMap_append] at hp
  obtain ⟨hpl, hps⟩ := List.forall_mem_append.mp hp
  have hq1 := h.loads.quiet hpl
  have hsame : u.core.mem.storeQ = s.core.mem.storeQ := by
    rw [h.coreU]
    exact hq1.storeQ
  have hq2 := h.stores.quiet (hsame ▸ hps)
  have ht : v.core.task = s.core.task := by
    rw [h.coreV, hq2.task, h.coreAt_u, h.coreU]
    exact hq1.task
  have hfv : v.core.task.status ≠ .faulted := ht ▸ hf
  obtain ⟨hl, hst, -⟩ := h.queues hfv
  rw [hl, hst]
  exact ⟨hfv, h.loads.seqs, hsame ▸ h.stores.seqs⟩

end WalksSettle

/-- Where no access waits, the row changes nothing. -/
theorem State.settle_of_translated {s : State} (hl : ∀ x ∈ queueAccesses s.core.mem.loadQ, x.untranslated = false)
    (hs : ∀ x ∈ queueAccesses s.core.mem.storeQ, x.untranslated = false) :
    let v := (s.settleLoads s.cur).settleStores s.cur
    s.sameModule v ∧ v.core = s.core := by
  have hu : s.settleLoads s.cur = s.modMem (fun m => { m with loadQ := s.core.mem.loadQ }) := by
    rw [State.settleLoads, State.settleQueue_of_translated hl]
  have hcu : (s.settleLoads s.cur).core = s.core := by
    rw [hu, State.modMem_eq, State.core_modCore]
  have hv : (s.settleLoads s.cur).settleStores s.cur =
      (s.settleLoads s.cur).modMem (fun m => { m with storeQ := s.core.mem.storeQ }) := by
    rw [State.settleStores, State.settleQueue_of_translated (by rw [hcu]; exact hs), hcu]
  dsimp only
  rw [hv, State.modMem_eq, State.core_modCore, hcu]
  refine ⟨State.sameModule_trans ?_ (State.sameModule_modCore _ _), rfl⟩
  rw [hu]
  exact State.sameModule_modCore s _

theorem walksComplete : Claims.WalksComplete := by
  intro s m waits
  obtain ⟨u, r1, r2, h⟩ := s.walksSettle
  have hnone := fun hl hs => State.settle_of_translated (s := s) hl hs
  refine ⟨_, exec_pageWalkComplete s, ?_⟩
  generalize (s.settleLoads s.cur).settleStores s.cur = v at h hnone
  obtain ⟨hcur, hregs, hfault, hcalm⟩ := v.dropUnsent_core
  refine ⟨hregs.trans h.regs, fun hw hm x hx => ?_, fun hs => ?_, fun hf hp => ?_, fun hf ht => ?_⟩
  · by_cases hf : v.core.task.status = .faulted
    · obtain ⟨hl, hst⟩ := hfault hf
      rw [hl, hst] at hx
      rcases List.mem_append.mp hx with hx | hx <;> exact translated_of_mem_sentEntries hx
    · rw [hcalm hf] at hx
      exact h.translated hw hm hf x (mem_queueAccesses.mpr hx)
  · have hle := h.within_limit hs
    by_cases hf : v.core.task.status = .faulted
    · obtain ⟨hl, hst⟩ := hfault hf
      rw [hl, hst]
      exact Nat.le_trans (Nat.add_le_add (sentRequests_sentEntries_le _) (sentRequests_sentEntries_le _)) hle
    · rw [hcalm hf]
      exact hle
  · obtain ⟨hfv, hseqs⟩ := h.order hf fun x hx => hp x (mem_queueAccesses.mp hx)
    rw [hcalm hfv]
    exact hseqs
  · obtain ⟨hmod, hcore⟩ := hnone (fun x hx => ht x (List.mem_append_left _ (mem_queueAccesses.mp hx)))
      (fun x hx => ht x (List.mem_append_right _ (mem_queueAccesses.mp hx)))
    have hfv : v.core.task.status ≠ .faulted := by rwa [hcore]
    rw [hcalm hfv]
    exact ⟨hmod, hcore⟩

/-- Settles O41: a walk by induction on its levels, and the row by what settling each access of a queue may change. -/
theorem translation : Obligations.Translation := ⟨walks, walksComplete⟩

end Sys2Proof.Machine
end

section
/-! SUPPORT. What an operation answers when its checks pass, and what is left of its checks at its first issue (R75). -/

namespace Sys2Proof.Machine

/-- A guarded operation that passes its checks has its effect. -/
theorem completes_of_guarded {i : Instr} {s : State} {k : State → State} (h : exec i s = guarded i s k) : Completes i s (k s) :=
  fun ⟨_, hok⟩ => h.trans (guarded_ok k hok)

/-- An operation that names no stream port and no port of a timed task has no port to check (R42, R224). -/
theorem portCheck_of_no_ports {i : Instr} {s : State} (hr : portsIn (reads i) = []) (hw : portsIn (writes i) = []) :
    portCheck i s = none := by
  simp [portCheck, hr, hw]

/-- At a first issue whose ports pass, the operand check is what is left. -/
theorem FirstIssue.opCheck_eq {i : Instr} {s : State} (h : FirstIssue i s) (hp : portCheck i s = none) :
    opCheck i s = operandCheck i s := by
  obtain ⟨hagain, henc, hecc⟩ := h
  rw [opCheck, hagain, henc, hecc, hp]
  cases operandCheck i s <;> rfl

end Sys2Proof.Machine
end

section
/-! PROOF. Transfers (R50, R88, R89): when they are taken, the checks of their targets, and return addresses. -/

namespace Sys2Proof.Machine

/-! Transfers that are taken (R88). -/

theorem State.dispTarget_eq {w : Nat} (s : State) (d : BitVec w) : s.dispTarget d = s.pcHere + 32 * d.toInt := by
  unfold State.dispTarget State.pcHere
  split <;> rfl

/-- The state after a displacement transfer is taken. -/
def State.takeDisp {w : Nat} (s : State) (d : BitVec w) : State := s.take (BitVec.ofInt 48 (s.pcHere + 32 * d.toInt))

theorem State.takeIf_dispTarget {w : Nat} (s : State) (c : Bool) (d : BitVec w) :
    s.takeIf c (s.dispTarget d) = if c = true then s.takeDisp d else s := by
  rw [State.takeIf, State.dispTarget_eq, State.takeDisp]

section
variable {i : Instr} {s : State} {w : Nat} {d : BitVec w} {f : FormCB} {p : Prop} [Decidable p]

/-- A branch whose test is p is taken exactly where p holds. -/
theorem completes_branch {c : State → Bool} (hexec : exec i s = guarded i s (fun s => s.takeIf (c s) (s.dispTarget d)))
    (hc : c s = true ↔ p) : Completes i s (if p then s.takeDisp d else s) := by
  have h := completes_of_guarded hexec
  rwa [State.takeIf_dispTarget, ite_congr (propext hc) (fun _ => rfl) (fun _ => rfl)] at h

/-- A branch whose test is the opposite of p is taken exactly where p fails. -/
theorem completes_branch_unless {c : State → Bool}
    (hexec : exec i s = guarded i s (fun s => s.takeIf (!c s) (s.dispTarget d))) (hc : c s = true ↔ p) :
    Completes i s (if p then s else s.takeDisp d) := by
  rw [← ite_not]
  exact completes_branch hexec (by simp [← hc])

/-- A compare and branch is taken exactly where its predicate holds of its two sources. -/
theorem completes_compare (g : Word → Word → Bool) (hexec : exec i s = s.runBranch i f g)
    (hg : g (s.readA f.s) (s.readA f.t) = true ↔ p) : Completes i s (if p then s.takeDisp f.disp else s) :=
  completes_branch hexec hg

theorem completes_compare_unless (g : Word → Word → Bool) (hexec : exec i s = s.runBranch i f (fun x y => !g x y))
    (hg : g (s.readA f.s) (s.readA f.t) = true ↔ p) : Completes i s (if p then s else s.takeDisp f.disp) :=
  completes_branch_unless hexec hg

end

theorem compareBranches (s : State) (f : FormCB) : let x := s.readA f.s; let y := s.readA f.t; let taken := s.takeDisp f.disp
    Completes (.brEq f) s (if x = y then taken else s) ∧
    Completes (.brNe f) s (if x = y then s else taken) ∧
    Completes (.brLt f) s (if x.toInt < y.toInt then taken else s) ∧
    Completes (.brGe f) s (if x.toInt < y.toInt then s else taken) ∧
    Completes (.brLtu f) s (if x.toNat < y.toNat then taken else s) ∧
    Completes (.brGeu f) s (if x.toNat < y.toNat then s else taken) :=
  ⟨completes_compare BEq.beq rfl beq_iff_eq, completes_compare_unless BEq.beq rfl beq_iff_eq,
    completes_compare BitVec.slt rfl BitVec.slt_iff_toInt_lt, completes_compare_unless BitVec.slt rfl BitVec.slt_iff_toInt_lt,
    completes_compare BitVec.ult rfl BitVec.ult_iff_toNat_lt, completes_compare_unless BitVec.ult rfl BitVec.ult_iff_toNat_lt⟩

theorem zeroBranches (s : State) (r : Reg) (d : BitVec 17) :
    Completes (.bz r d) s (if s.readA r = 0 then s.takeDisp d else s) ∧
    Completes (.bnz r d) s (if s.readA r = 0 then s else s.takeDisp d) :=
  ⟨completes_branch (c := fun s => s.readA r == 0) rfl beq_iff_eq,
    completes_branch_unless (c := fun s => s.readA r == 0) rfl beq_iff_eq⟩

/-- `jmp` and `call` are taken without a test. -/
theorem directTransfers (s : State) (d : BitVec 24) : Completes (.jmp d) s (s.takeDisp d) ∧
    Completes (.call d) s ((s.takeDisp d).landA 1 s.returnAddr ⟨1, 1⟩) := by
  have htaken : s.takeIf true (s.dispTarget d) = s.takeDisp d := s.takeIf_dispTarget true d
  rw [← htaken]
  exact ⟨completes_of_guarded (k := fun s => s.takeIf true (s.dispTarget d)) rfl,
    completes_of_guarded (k := fun s => (s.takeIf true (s.dispTarget d)).landA 1 s.returnAddr (latency (.call d))) rfl⟩

theorem registerTransfers (s : State) (r : Reg) : let taken := s.take ((s.readA r).setWidth 48)
    Completes (.jmpr r) s taken ∧ Completes (.callr r) s (taken.landA 1 s.returnAddr ⟨1, 1⟩) :=
  ⟨completes_of_guarded (k := fun s => s.take ((s.readA r).setWidth 48)) rfl,
    completes_of_guarded (k := fun s => (s.take ((s.readA r).setWidth 48)).landA 1 s.returnAddr (latency (.callr r))) rfl⟩

theorem retTransfer (s : State) : Completes .ret s (s.take ((s.readA 1).setWidth 48)) :=
  completes_of_guarded (k := fun s => s.take ((s.readA 1).setWidth 48)) rfl

theorem transfersTaken : Claims.TransfersTaken :=
  ⟨compareBranches, zeroBranches, directTransfers, registerTransfers, retTransfer⟩

/-! The checks of a target (R89). -/

theorem bits_63_48_eq (t : Word) : bits t 63 48 = t.toNat / 2 ^ 48 := by
  have ht := t.isLt
  rw [bits, Nat.shiftRight_eq_div_pow]
  exact Nat.mod_eq_of_lt (by omega)

theorem bits_4_0_eq {w : Nat} (t : BitVec w) : bits t 4 0 = t.toNat % 32 := rfl

theorem targetCheck_eq (t : Word) : targetCheck t =
    if t.toNat / 2 ^ 48 ≠ 0 then some (.fault 0x05 t 0) else if t.toNat % 32 ≠ 0 then some (.fault 0x11 t 0) else none := by
  rw [targetCheck, bits_63_48_eq, bits_4_0_eq]

theorem dispCheck_eq (t : Int) :
    dispCheck t = if 0 ≤ t ∧ t ≤ 2 ^ 48 - 32 then none else some (.fault 0x05 (BitVec.ofInt 64 t) 0) := by
  rw [dispCheck, ← ite_not]
  exact ite_congr (propext (by omega)) (fun _ => rfl) (fun _ => rfl)

theorem FirstIssue.opCheck_disp {i : Instr} {s : State} {w : Nat} {d : BitVec w} (h : FirstIssue i s)
    (hp : portCheck i s = none) (hop : operandCheck i s = dispCheck (s.dispTarget d)) :
    let t := s.pcHere + 32 * d.toInt
    opCheck i s = if 0 ≤ t ∧ t ≤ 2 ^ 48 - 32 then none else some (.fault 0x05 (BitVec.ofInt 64 t) 0) := by
  rw [h.opCheck_eq hp, hop, State.dispTarget_eq, dispCheck_eq]

theorem FirstIssue.opCheck_target {i : Instr} {s : State} {t : Word} (h : FirstIssue i s)
    (hp : portCheck i s = none) (hop : operandCheck i s = targetCheck t) :
    opCheck i s = if t.toNat / 2 ^ 48 ≠ 0 then some (.fault 0x05 t 0)
      else if t.toNat % 32 ≠ 0 then some (.fault 0x11 t 0) else none := by
  rw [h.opCheck_eq hp, hop, targetCheck_eq]

theorem targetChecks : Claims.TargetChecks := by
  refine fun s => ⟨fun r i hi h => ?_, fun h => ?_, fun f i hi h => ?_, fun d i hi h => ?_⟩
  · rcases hi with rfl | rfl <;> exact h.opCheck_target (portCheck_of_no_ports rfl rfl) rfl
  · exact h.opCheck_target (portCheck_of_no_ports rfl rfl) rfl
  · simp only [List.mem_cons, List.not_mem_nil, or_false] at hi
    rcases hi with rfl | rfl | rfl | rfl | rfl | rfl <;> exact h.opCheck_disp (portCheck_of_no_ports rfl rfl) rfl
  · rcases hi with rfl | rfl <;> exact h.opCheck_disp (portCheck_of_no_ports rfl rfl) rfl

/-! Return addresses (R50). -/

theorem State.returnAddr_user {s : State} (h : s.fwIssuing = false) :
    s.returnAddr = (s.core.issue.pos.plus (s.delays + 1)).addr.setWidth 64 := by
  rw [State.returnAddr, h, if_neg Bool.false_ne_true]

/-- R49: the delay bundles of user code, by the treatment of its page. -/
theorem State.delays_user {s : State} (h : s.fwIssuing = false) :
    s.delays = if s.core.issue.pos.ver.treat = .interlocked then 1 else 2 := by
  rw [State.delays, h, State.interlocked]
  cases s.core.issue.pos.ver.treat <;> simp

/-- The places of a page that is not racked are its bundles in their order. -/
theorem Pos.addr_plus {p : Pos} (n : Nat) (h : p.ver.treat = .native ∨ p.ver.treat = .interlocked) :
    (p.plus n).addr = p.ver.page + BitVec.ofNat 48 (32 * (p.idx + n)) := by
  rcases h with h | h <;> simp only [Pos.addr, Pos.plus, h]

theorem returnAddress : Claims.ReturnAddress := by
  rintro s p idx hfw rfl rfl
  refine ⟨fun ht => ?_, fun ht => ?_⟩
  · rw [State.returnAddr_user hfw, State.delays_user hfw, ht, if_neg nofun, Pos.addr_plus 3 (.inl ht)]
  · rw [State.returnAddr_user hfw, State.delays_user hfw, ht, if_pos rfl, Pos.addr_plus 2 (.inr ht)]

/-- Settles O5: each transfer by the one lemma on branches or by its guarded effect, the checks of targets by what is left
of the checks at a first issue, and return addresses by the delay bundles of a page. -/
theorem transfers : Obligations.Transfers := ⟨transfersTaken, targetChecks, returnAddress⟩

end Sys2Proof.Machine
end
